-- ==== Sys2Proof/Word.lean ====
section
/-! DEFINITION. The word types of the M9 and their plainest arithmetic (spec 00: R1 to R4).
A register, an instruction word and an address being computed are bit vectors; a count, a
cycle and a memory key are natural numbers. -/

namespace Sys2Proof

/-- One byte of memory, little-endian throughout (00: R3). -/
abbrev Byte := BitVec 8
/-- An instruction word (06: R152). -/
abbrev W32 := BitVec 32
/-- A scalar register, a CSR, a memory-mapped register: 64 bits (02: R31). -/
abbrev DWord := BitVec 64
/-- A 6-bit operand code (06: R157). -/
abbrev Code := BitVec 6
/-- A run of bytes, lowest address first. -/
abbrev Bytes := List Byte

abbrev B2 := BitVec 2
abbrev B3 := BitVec 3
abbrev B4 := BitVec 4
abbrev B6 := BitVec 6
abbrev B8 := BitVec 8
abbrev B10 := BitVec 10
abbrev B12 := BitVec 12
abbrev B14 := BitVec 14
abbrev B15 := BitVec 15
abbrev B16 := BitVec 16
abbrev B18 := BitVec 18
abbrev B23 := BitVec 23
abbrev B28 := BitVec 28

end Sys2Proof
end

