-- ==== Sys2Proof/Machine/Store.lean ====
section
/-! DEFINITION. Sparse stores: memories and register files as lists of (key, value) in one canonical form,
keys strictly rising and no entry equal to what an unlisted key reads as. Every memory of the model, and
every file of registers or slots, is one of these; byte order is decided here once (00: R3). -/

namespace Sys2Proof.Machine

/-- A store of values by key. What an unlisted key reads as is an argument of the operations. -/
abbrev SMap (β : Type) := List (Nat × β)

/-- A memory: bytes by address; an unlisted address reads as zero (log entry 2). -/
abbrev Mem := SMap Byte

section
variable {β : Type}

/-- What is listed at key k. -/
def look : SMap β → Nat → Option β
  | [], _ => none
  | (j, v) :: m, k => if j = k then some v else look m k

/-- The value at key k; d where k is not listed. -/
def sget (d : β) (m : SMap β) (k : Nat) : β := (look m k).getD d

/-- The store without key k. -/
def erase : SMap β → Nat → SMap β
  | [], _ => []
  | (j, v) :: m, k => if j = k then erase m k else (j, v) :: erase m k

/-- The store with v listed at key k. -/
def insert : SMap β → Nat → β → SMap β
  | [], k, v => [(k, v)]
  | (j, u) :: m, k, v =>
    if k < j then (k, v) :: (j, u) :: m
    else if j = k then (k, v) :: m
    else (j, u) :: insert m k v

/-- The store with value v at key k, in canonical form: the default is not listed. -/
def sset [DecidableEq β] (d : β) (m : SMap β) (k : Nat) (v : β) : SMap β :=
  if v = d then erase m k else insert m k v

/-- The entries whose keys are below k. -/
def below (m : SMap β) (k : Nat) : SMap β := m.filter fun e => decide (e.1 < k)

/-- The entries whose keys are k or above. -/
def above (m : SMap β) (k : Nat) : SMap β := m.filter fun e => decide (k ≤ e.1)

/-- The entries that a run of values at lo, lo + 1, … lists. -/
def cells [DecidableEq β] (d : β) : Nat → List β → SMap β
  | _, [] => []
  | lo, v :: vs => if v = d then cells d (lo + 1) vs else (lo, v) :: cells d (lo + 1) vs

/-- The store with the values vs at lo, lo + 1, …. -/
def splice [DecidableEq β] (d : β) (m : SMap β) (lo : Nat) (vs : List β) : SMap β :=
  below m lo ++ cells d lo vs ++ above m (lo + vs.length)

/-- The values at lo to lo + n - 1 of a store with no key below lo. -/
def runFrom (d : β) : Nat → SMap β → Nat → List β
  | 0, _, _ => []
  | n + 1, m, lo =>
    match m with
    | [] => d :: runFrom d n [] (lo + 1)
    | (j, v) :: t => if j = lo then v :: runFrom d n t (lo + 1) else d :: runFrom d n m (lo + 1)

/-- The values at lo to lo + n - 1. -/
def srun (d : β) (m : SMap β) (lo n : Nat) : List β := runFrom d n (above m lo) lo

/-- Keys strictly rising from above lo on, and no entry equal to the default. -/
def wfFrom [DecidableEq β] (d : β) : Option Nat → SMap β → Bool
  | _, [] => true
  | lo, (j, v) :: m =>
    (match lo with
     | none => true
     | some l => decide (l < j)) && decide (v ≠ d) && wfFrom d (some j) m

/-- The canonical form. -/
def swf [DecidableEq β] (d : β) (m : SMap β) : Bool := wfFrom d none m

end

/-! ### Memories -/

/-- One byte of memory. -/
def Mem.byte (m : Mem) (a : Nat) : Byte := sget 0 m a

/-- The memory with byte b at address a. -/
def Mem.setByte (m : Mem) (a : Nat) (b : Byte) : Mem := sset 0 m a b

/-- The n bytes from address a. -/
def Mem.read (m : Mem) (a n : Nat) : Bytes := srun 0 m a n

/-- The memory with the bytes bs from address a. -/
def Mem.write (m : Mem) (a : Nat) (bs : Bytes) : Mem := splice 0 m a bs

/-- The canonical form of a memory: addresses strictly rising, no entry zero. -/
def Mem.wf (m : Mem) : Bool := swf 0 m

/-- Bytes written one by one at their own addresses, later ones after earlier ones. -/
def Mem.writeCells (m : Mem) (cs : List (Nat × Byte)) : Mem := cs.foldl (fun m c => m.setByte c.1 c.2) m

/-! ### Little-endian numbers (00: R3) -/

/-- The number that bytes hold, the first byte least significant. -/
def leNat : Bytes → Nat
  | [] => 0
  | b :: bs => b.toNat + 256 * leNat bs

/-- The n bytes of a number, least significant first. -/
def natLe : Nat → Nat → Bytes
  | 0, _ => []
  | n + 1, x => BitVec.ofNat 8 x :: natLe n (x / 256)

/-- A number of n bytes at address a. -/
def Mem.nat (m : Mem) (a n : Nat) : Nat := leNat (m.read a n)

def Mem.setNat (m : Mem) (a n x : Nat) : Mem := m.write a (natLe n x)

/-- A 64-bit value at address a. -/
def Mem.dword (m : Mem) (a : Nat) : DWord := BitVec.ofNat 64 (m.nat a 8)

/-- A 32-bit value at address a. -/
def Mem.word (m : Mem) (a : Nat) : W32 := BitVec.ofNat 32 (m.nat a 4)

/-- Bits [hi:lo] of a number (00: R2). -/
def bits (x hi lo : Nat) : Nat := x / 2 ^ lo % 2 ^ (hi + 1 - lo)

/-- Number x with its bits [hi:lo] replaced by v. -/
def setBits (x hi lo v : Nat) : Nat :=
  x - bits x hi lo * 2 ^ lo + v % 2 ^ (hi + 1 - lo) * 2 ^ lo

/-- The signed reading of the low n bits (05: R127). -/
def sx (x n : Nat) : Int := if x % 2 ^ n < 2 ^ (n - 1) then (x % 2 ^ n : Nat) else (x % 2 ^ n : Nat) - (2 ^ n : Nat)

/-- An integer mod 2^n. -/
def wrap (n : Nat) (z : Int) : Nat := (z % (2 ^ n : Nat)).toNat

/-- ⌈x / y⌉. -/
def ceilDiv (x y : Nat) : Nat := (x + y - 1) / y

end Sys2Proof.Machine
end

