-- ==== Sys2Proof/Machine/Flags.lean ====
section
/-! DEFINITION. Comparisons and conditions on register values, and the arithmetic of the scalar unit (07:
R178 to R182). The M9 has no condition flags; these are what its branches, compares and selects decide by,
and the functions its scalar results are. -/

namespace Sys2Proof.Machine

/-- x < y, both read as signed. -/
def ltS (x y : DWord) : Bool := decide (x.toInt < y.toInt)

/-- x < y, both unsigned. -/
def ltU (x y : DWord) : Bool := decide (x.toNat < y.toNat)

/-- 1 for true, 0 for false. -/
def bit64 (b : Bool) : DWord := if b then 1 else 0

/-- The shift amount that a register gives: its low six bits. -/
def shAmt (y : DWord) : Nat := y.toNat % 64

def aluShl (x y : DWord) : DWord := x <<< shAmt y
def aluShr (x y : DWord) : DWord := x >>> shAmt y
def aluSra (x y : DWord) : DWord := x.sshiftRight (shAmt y)

/-- Bits [127:64] of the signed product. -/
def aluMulh (x y : DWord) : DWord := BitVec.ofInt 64 ((x.toInt * y.toInt) / (2 ^ 64 : Nat))

/-- Bits [127:64] of the unsigned product. -/
def aluMulhu (x y : DWord) : DWord := BitVec.ofNat 64 (x.toNat * y.toNat / 2 ^ 64)

/-- The least signed value. -/
def minS64 : DWord := 0x8000000000000000#64

def aluDiv (x y : DWord) : DWord :=
  if y = 0 then BitVec.allOnes 64
  else if x = minS64 ∧ y = BitVec.allOnes 64 then x
  else BitVec.ofInt 64 (x.toInt.tdiv y.toInt)

def aluDivu (x y : DWord) : DWord :=
  if y = 0 then BitVec.allOnes 64 else BitVec.ofNat 64 (x.toNat / y.toNat)

def aluRem (x y : DWord) : DWord :=
  if y = 0 then x
  else if x = minS64 ∧ y = BitVec.allOnes 64 then 0
  else BitVec.ofInt 64 (x.toInt - y.toInt * x.toInt.tdiv y.toInt)

def aluRemu (x y : DWord) : DWord :=
  if y = 0 then x else BitVec.ofNat 64 (x.toNat % y.toNat)

def aluMin (x y : DWord) : DWord := if ltS y x then y else x
def aluMax (x y : DWord) : DWord := if ltS x y then y else x
def aluMinu (x y : DWord) : DWord := if ltU y x then y else x
def aluMaxu (x y : DWord) : DWord := if ltU x y then y else x

/-- Leading zero bits among the low n bits of x. -/
def clzNat (x : Nat) : Nat → Nat
  | 0 => 0
  | n + 1 => if x.testBit n then 0 else 1 + clzNat x n

/-- Trailing zero bits, of the n bits from bit k up. -/
def ctzNat (x : Nat) : Nat → Nat → Nat
  | 0, _ => 0
  | n + 1, k => if x.testBit k then 0 else 1 + ctzNat x n (k + 1)

/-- One bits among the low n bits of x. -/
def popNat (x : Nat) : Nat → Nat
  | 0 => 0
  | n + 1 => (if x.testBit n then 1 else 0) + popNat x n

def aluClz (x : DWord) : DWord := BitVec.ofNat 64 (clzNat x.toNat 64)
def aluCtz (x : DWord) : DWord := BitVec.ofNat 64 (ctzNat x.toNat 64 0)
def aluPopc (x : DWord) : DWord := BitVec.ofNat 64 (popNat x.toNat 64)

/-- The low w + 1 bits set. -/
def lowMask (w : B6) : DWord := BitVec.ofNat 64 (2 ^ (w.toNat + 1) - 1)

def aluBext (x : DWord) (p w : B6) : DWord := (x >>> p.toNat) &&& lowMask w

def aluBins (x y : DWord) (p w : B6) : DWord :=
  let m := lowMask w <<< p.toNat
  (x &&& ~~~m) ||| ((y <<< p.toNat) &&& m)

def aluSel (x y z : DWord) : DWord := if z ≠ 0 then x else y

/-- LIH's value: bits [63:40] from the constant, bits [39:0] from the register. -/
def aluLih (x : DWord) (hi lo : B12) : DWord := hi ++ lo ++ x.setWidth 40

end Sys2Proof.Machine
end

