-- ==== Sys2Proof/Config.lean ====
section
/-! DEFINITION. What an implementation fixes, and the free values: results and times that the spec leaves
open, as constants without a body (log entries 3 to 8). Each is applied to a counter of the state, which the
step that takes the value advances, or to the data it depends on. Nothing in Lean can evaluate one. -/

namespace Sys2Proof

/-- Cores, LBPs, channels and ports of the device (01: R14, R18). -/
def Config.cores : Nat := 96
def Config.lbps : Nat := 64
def Config.channels : Nat := 16
def Config.ports : Nat := 20
def Config.partitions : Nat := 4

/-- Cycles in which an untimed access to which R106 gives no latency class reaches its bank: of the CE's remote unit, of the
copy of a completion word, of the management controller (04: R106; log entry 3). -/
opaque Config.accessDelay : Nat → Nat

/-- Cycles until an untimed write is offered to the other die's view (04: R113). -/
opaque Config.viewDelay : Nat → Nat

/-- Cycles that a step of the launch path takes, within its bound (02: R57). -/
opaque Config.launchDelay : Nat → Nat

/-- Cycles by which a TILEOUT claim, a TILEOUT publication or a window record follows its earliest cycle,
within the bounds of R340 and R344. -/
opaque Config.ingressDelay : Nat → Nat

/-- The value of a mode register of a DRAM sub-channel that the spec does not give (11: R308). -/
opaque Config.modeReg : Nat → Byte

/-- The verdicts of boot: modulo 11, the ERR code that verification, identity derivation and calibration of a boot
image end with, 0 for success (13: R363; 19: R462). -/
opaque Config.bootErr : Nat → Byte

/-- What a boot image holds: the management code from address 0 of its space, DTIM0 to DTIM3 and RRMAP of the
DRAM profile record with its run-time mode registers, the entries of the retirement list by channel, sub-channel,
bank and entry, its key certificates, and whether its PUF helper data is empty (13: R362). -/
structure BootImage where
  code : List Byte
  dtim : List DWord
  rrmap : DWord
  runMrs : List Nat
  retired : List ((Nat × Nat × Nat × Nat) × W32)
  certs : List (List Byte)
  noHelper : Bool
  deriving DecidableEq, Repr, Inhabited

/-- The contents of the sections of the image that boot SRAM holds: the spec orders the sections and gives no layout
of their table (13: R362). -/
opaque Config.bootImage : List (Nat × Byte) → BootImage

/-- The link, channel or port that a failed boot concerns (19: R462). -/
opaque Config.bootUnit : Nat → Byte

/-- Wall cycles from BOOTCTL.GO to READY, "about 40 ms" (13: R363). -/
opaque Config.bootDelay : Nat → Nat

/-- Wall cycles that a phase of self-calibration takes (13: R363, R364). -/
opaque Config.calDelay : Nat → Nat → Nat

/-- New PUF helper data; the SHA-384 digest of bytes; and the signature of an attestation report's fields by an identity
key, 0 RSA-3072 and 1 SLH-DSA: cryptography and the PUF give their bytes (13: R348, R363). -/
opaque Config.helperData : Nat → List Byte
opaque Config.digest : List Byte → List Byte
opaque Config.signature : Nat → Nat → List Byte → List Byte

/-- Whether A-PHY training of port p fails (19: R462). -/
opaque Config.aphyFails : Nat → Nat → Bool

/-- The bytes of a saved context: the spec gives its items and its place, and no layout (02: R63, R64). -/
opaque Config.ctxByte : Nat → Nat → Byte

/-- The draw word that a lane of an LBP takes under .SR: the spec gives an LBP no key, identity or counter
(08: R201, R211; 12: R329). -/
opaque Config.lbpDraw : Nat → W32

/-- The function-table version of LBP n less one, mod 3: the spec gives an LBP no FTV (05: R151). -/
opaque Config.lbpFtv : Nat → Nat

end Sys2Proof
end

