-- ==== Sys2Proof/Syntax.lean ====
section
/-! DEFINITION. The instructions and steps of the M9: one constructor of `Instr` for each row of
the opcode table, in the table's order but for those without fields, which come last (06: R152 to R164; 95). An
instruction's constructor carries the fields of its word 0 and of its extension word that its entry uses or
that a check of R428 looks at. An input from outside the device carries what arrives and where. A step that
the device makes by itself carries nothing: the unit it acts on stands in the state, as the sequencer that
issues an instruction does. -/

namespace Sys2Proof

/-- The dependency nibble and PAD of word 0 (06: R152; 02: R33). -/
structure Hdr where
  wp : Bool
  wn : Bool
  sp : Bool
  sn : Bool
  pad : B2
  deriving DecidableEq, Repr

/-- Format A3: d [17:12], a [11:6], b [5:0] (06: R156). -/
structure A3 where
  d : Code
  a : Code
  b : Code
  deriving DecidableEq, Repr

/-- The fields of layout XV but FN, which selects or parameterises the instruction (06: R159). -/
structure XV where
  t : B4
  t2 : B4
  rm : B3
  men : Bool
  msk : B3
  mz : Bool
  pm : Bool
  c : Code
  deriving DecidableEq, Repr

/-- Layout XM (06: R159). -/
structure XM where
  std : B12
  str : B2
  arr : Bool
  acc : B2
  ta : B4
  tb : B4
  rm : B3
  deriving DecidableEq, Repr

/-- Layout XS but FN (06: R159). -/
structure XS where
  bnd : B16
  ring : B8
  deriving DecidableEq, Repr

/-- Layout XB (06: R159). -/
structure XB where
  op : B4
  w : B2
  c : Code
  u : Bool
  deriving DecidableEq, Repr

/-- Layout XL (06: R159). -/
structure XL where
  tg : Bool
  tr : Code
  sd : Bool
  off : BitVec 20
  deriving DecidableEq, Repr

/-- The pin fields of a DRAM command: quarter-slot, sub-channel (false A, true B), bank (06: R164). -/
structure DQ where
  qs : B2
  sc : Bool
  bank : B4
  deriving DecidableEq, Repr

/-- The comparisons of AWCMP (06: R162, major 0x71). -/
inductive Cmp3 where
  | eq | ne | ge
  deriving DecidableEq, Repr

/-- The four sequencers of a tile core (02: R31), in the order K, L, C, S that the spec uses. -/
inductive SeqId where
  | k | l | c | s
  deriving DecidableEq, Repr

/-- What issues an instruction: a sequencer of tile core g, an LBP, a DCS, or the management
controller (06: R163). -/
inductive Actor where
  | core (g : Nat) (q : SeqId)
  | lbp (n : Nat)
  | dcs (ch : Nat)
  | mgmt
  deriving DecidableEq, Repr

/-- The kinds of sequencer that the profiles distinguish (06: R163). -/
inductive SeqKind where
  | tile (q : SeqId)
  | lbp
  | dcs
  | mgmt
  deriving DecidableEq, Repr

/-- The trap causes of TRAPCAUSE (16: R394). -/
inductive Cause where
  | lockstep | pipeErr | eccUncorr | illegalOp | illegalOperand | illegalExt | bounds
  | tagMismatch | regDrowsy | regGated | sparseMeta | phaseOverlap | race | dramTiming
  | awaitBudget | holdBudget | swTrap | sched
  deriving DecidableEq, Repr

/-- The outcome of a failed check of R428: its cause and DETAIL (18: R428, R429). -/
structure Reject where
  cause : Cause
  detail : B16
  deriving DecidableEq, Repr

/-- The instructions and steps of the device, one constructor per row of the opcode table. -/
inductive Instr where

  /-- `NOP` (R190). Does nothing for one issue slot. -/
  | nop (h : Hdr)
  /-- `ADD` (R178). Sets s(d) to s(a) + s(b) mod 2^64. -/
  | add (h : Hdr) (o : A3)
  /-- `SUB` (R178). Sets s(d) to s(a) - s(b) mod 2^64. -/
  | sub (h : Hdr) (o : A3)
  /-- `AND` (R178). Sets s(d) to the bitwise and of s(a) and s(b). -/
  | and (h : Hdr) (o : A3)
  /-- `OR` (R178). Sets s(d) to the bitwise or of s(a) and s(b). -/
  | or (h : Hdr) (o : A3)
  /-- `XOR` (R178). Sets s(d) to the bitwise exclusive or of s(a) and s(b). -/
  | xor (h : Hdr) (o : A3)
  /-- `SHL` (R178). Shifts s(a) left by s(b)[5:0] into s(d). -/
  | shl (h : Hdr) (o : A3)
  /-- `SHR` (R178). Shifts s(a) logically right by s(b)[5:0] into s(d). -/
  | shr (h : Hdr) (o : A3)
  /-- `SRA` (R178). Shifts s(a) arithmetically right by s(b)[5:0] into s(d). -/
  | sra (h : Hdr) (o : A3)
  /-- `ADDI` (R179). Adds a sign-extended 12-bit immediate to s(d) in place. -/
  | addi (h : Hdr) (d : Code) (imm : B12)
  /-- `ANDI` (R179). Ands s(d) with a zero-extended 12-bit immediate. -/
  | andi (h : Hdr) (d : Code) (imm : B12)
  /-- `ORI` (R179). Ors s(d) with a zero-extended 12-bit immediate. -/
  | ori (h : Hdr) (d : Code) (imm : B12)
  /-- `XORI` (R179). Exclusive-ors s(d) with a zero-extended 12-bit immediate. -/
  | xori (h : Hdr) (d : Code) (imm : B12)
  /-- `SHLI` (R179). Shifts s(d) left in place by an immediate amount. -/
  | shli (h : Hdr) (d : Code) (n : B6)
  /-- `SHRI` (R179). Shifts s(d) logically right in place by an immediate amount. -/
  | shri (h : Hdr) (d : Code) (n : B6)
  /-- `SRAI` (R179). Shifts s(d) arithmetically right in place by an immediate amount. -/
  | srai (h : Hdr) (d : Code) (n : B6)
  /-- `LIM` (R180). One-word form: loads a sign-extended 12-bit constant into s(d). -/
  | lim (h : Hdr) (d : Code) (imm : B12)
  /-- `LIM_X` (R180). Two-word form: loads a sign-extended 40-bit constant into s(d). -/
  | limX (h : Hdr) (d : Code) (imm : B12) (x : B28)
  /-- `LIH` (R180). Sets s(d)[63:40] from a 24-bit value, leaving the low bits. -/
  | lih (h : Hdr) (d : Code) (imm : B12) (x : B12)
  /-- `MOV` (R180). Copies s(a) into s(d). -/
  | mov (h : Hdr) (d : Code) (a : Code)
  /-- `MUL` (R181). Low 64 bits of the product of s(a) and s(b). -/
  | mul (h : Hdr) (o : A3)
  /-- `MULH` (R181). High 64 bits of the signed product. -/
  | mulh (h : Hdr) (o : A3)
  /-- `MULHU` (R181). High 64 bits of the unsigned product. -/
  | mulhu (h : Hdr) (o : A3)
  /-- `DIV` (R181). Signed division truncated toward zero with defined zero and overflow results. -/
  | div (h : Hdr) (o : A3)
  /-- `DIVU` (R181). Unsigned division with all ones on division by zero. -/
  | divu (h : Hdr) (o : A3)
  /-- `REM` (R181). Signed remainder with the sign of the dividend. -/
  | rem (h : Hdr) (o : A3)
  /-- `REMU` (R181). Unsigned remainder. -/
  | remu (h : Hdr) (o : A3)
  /-- `MIN` (R181). Signed minimum of s(a) and s(b). -/
  | min (h : Hdr) (o : A3)
  /-- `MAX` (R181). Signed maximum of s(a) and s(b). -/
  | max (h : Hdr) (o : A3)
  /-- `MINU` (R181). Unsigned minimum of s(a) and s(b). -/
  | minu (h : Hdr) (o : A3)
  /-- `MAXU` (R181). Unsigned maximum of s(a) and s(b). -/
  | maxu (h : Hdr) (o : A3)
  /-- `CLZ` (R181). Counts leading zero bits of s(a). -/
  | clz (h : Hdr) (d : Code) (a : Code)
  /-- `CTZ` (R181). Counts trailing zero bits of s(a). -/
  | ctz (h : Hdr) (d : Code) (a : Code)
  /-- `POPC` (R181). Counts one bits of s(a). -/
  | popc (h : Hdr) (d : Code) (a : Code)
  /-- `BEXT` (R181). Extracts a bit field of s(a) at position P and width W+1. -/
  | bext (h : Hdr) (d : Code) (a : Code) (p : B6) (w : B6)
  /-- `BINS` (R181). Inserts the low bits of s(b) into s(a) at a bit field. -/
  | bins (h : Hdr) (o : A3) (p : B6) (w : B6)
  /-- `SEQ` (R181). Sets s(d) to 1 when s(a) equals s(b). -/
  | seq (h : Hdr) (o : A3)
  /-- `SNE` (R181). Sets s(d) to 1 when s(a) differs from s(b). -/
  | sne (h : Hdr) (o : A3)
  /-- `SLT` (R181). Sets s(d) to 1 when s(a) is signed less than s(b). -/
  | slt (h : Hdr) (o : A3)
  /-- `SLTU` (R181). Sets s(d) to 1 when s(a) is unsigned less than s(b). -/
  | sltu (h : Hdr) (o : A3)
  /-- `SEL` (R181). Selects s(a) when s(C) is nonzero, else s(b). -/
  | sel (h : Hdr) (o : A3) (c : Code)
  /-- `BR` (R182). Branches unconditionally by a signed word offset. -/
  | br (h : Hdr) (off : B18)
  /-- `BZ` (R182). Branches when s(d) is zero. -/
  | bz (h : Hdr) (d : Code) (off : B12)
  /-- `BNZ` (R182). Branches when s(d) is nonzero. -/
  | bnz (h : Hdr) (d : Code) (off : B12)
  /-- `BLT` (R182). Branches when s(a) is signed less than s(b). -/
  | blt (h : Hdr) (a : Code) (b : Code) (off : B28)
  /-- `BGE` (R182). Branches when s(a) is signed greater than or equal to s(b). -/
  | bge (h : Hdr) (a : Code) (b : Code) (off : B28)
  /-- `BLTU` (R182). Branches when s(a) is unsigned less than s(b). -/
  | bltu (h : Hdr) (a : Code) (b : Code) (off : B28)
  /-- `BGEU` (R182). Branches when s(a) is unsigned greater than or equal to s(b). -/
  | bgeu (h : Hdr) (a : Code) (b : Code) (off : B28)
  /-- `BQS` (R183). Branches on the poison or emptiness of a queue's head entry without popping it. -/
  | bqs (h : Hdr) (q : Code) (cnd : B2) (off : B28)
  /-- `JAL` (R184). Sets LR to the next PC and jumps by a word offset. -/
  | jal (h : Hdr) (off : B18)
  /-- `JR` (R184). Jumps to the byte offset held in s(a). -/
  | jr (h : Hdr) (a : Code)
  /-- `LOOP` (R186). Activates a loop level with a count and stride pairs, or skips the body for a zero count. -/
  | loop (h : Hdr) (lev : B3) (nstr : B3) (cnt : Code) (sb : B6) (blen : B16)
  /-- `LBRK_C` (R189). Ends a loop level and cancels its unstarted engine commands. -/
  | lbrkC (h : Hdr) (lev : B3)
  /-- `LBRK_D` (R189). Ends a loop level and lets its engine commands drain. -/
  | lbrkD (h : Hdr) (lev : B3)
  /-- `QUAL_F` (R188). Executes the next instruction only on the first trip of a level. -/
  | qualF (h : Hdr) (lev : B3)
  /-- `QUAL_L` (R188). Executes the next instruction only on the last trip of a level. -/
  | qualL (h : Hdr) (lev : B3)
  /-- `IDLE` (R190). Delays the next issue by an idle count. -/
  | idle (h : Hdr) (n : B18)
  /-- `SPLD` (R191). Loads a doubleword from the sequencer's spill memory. -/
  | spld (h : Hdr) (d : Code) (idx : B10)
  /-- `SPST` (R191). Stores s(d) to the sequencer's spill memory. -/
  | spst (h : Hdr) (d : Code) (idx : B10)
  /-- `CSRR` (R193). Reads a CSR into s(d). -/
  | csrr (h : Hdr) (d : Code) (num : B10)
  /-- `CSRW` (R193). Writes s(d) into a CSR. -/
  | csrw (h : Hdr) (d : Code) (num : B10)
  /-- `CSRS` (R193). Sets the CSR bits that s(d) names. -/
  | csrs (h : Hdr) (d : Code) (num : B10)
  /-- `CSRC` (R193). Clears the CSR bits that s(d) names. -/
  | csrc (h : Hdr) (d : Code) (num : B10)
  /-- `RDCLK` (R192). Reads SCC, WCC or SCC - TSB into s(d). -/
  | rdclk (h : Hdr) (d : Code) (r : B2)
  /-- `VADD` (R212). Element-wise addition with one rounding. -/
  | vadd (h : Hdr) (o : A3) (x : XV)
  /-- `VSUB` (R212). Element-wise subtraction with one rounding. -/
  | vsub (h : Hdr) (o : A3) (x : XV)
  /-- `VMUL` (R212). Element-wise multiplication with one rounding. -/
  | vmul (h : Hdr) (o : A3) (x : XV)
  /-- `VMULH` (R213). Element-wise signed high half of an integer product. -/
  | vmulh (h : Hdr) (o : A3) (x : XV)
  /-- `VFMA` (R212). Fused multiply-add x x y + z with one rounding. -/
  | vfma (h : Hdr) (o : A3) (x : XV)
  /-- `VFMS` (R212). Fused multiply-subtract x x y - z. -/
  | vfms (h : Hdr) (o : A3) (x : XV)
  /-- `VFNMA` (R212). Fused negated multiply-add -(x x y) + z. -/
  | vfnma (h : Hdr) (o : A3) (x : XV)
  /-- `VMIN` (R214). Element-wise minimum. -/
  | vmin (h : Hdr) (o : A3) (x : XV)
  /-- `VMAX` (R214). Element-wise maximum. -/
  | vmax (h : Hdr) (o : A3) (x : XV)
  /-- `VABS` (R214). Element-wise absolute value. -/
  | vabs (h : Hdr) (o : A3) (x : XV)
  /-- `VNEG` (R214). Element-wise negation. -/
  | vneg (h : Hdr) (o : A3) (x : XV)
  /-- `VNOT` (R214). Element-wise bit inversion. -/
  | vnot (h : Hdr) (o : A3) (x : XV)
  /-- `VMOV` (R214). Element-wise copy of bit patterns. -/
  | vmov (h : Hdr) (o : A3) (x : XV)
  /-- `VCLAMP` (R215). Clamps each source lane between low and high bounds. -/
  | vclamp (h : Hdr) (o : A3) (x : XV)
  /-- `VSAT` (R215). Saturates each lane to the range of a second format. -/
  | vsat (h : Hdr) (o : A3) (x : XV)
  /-- `VAND` (R216). Element-wise bitwise and. -/
  | vand (h : Hdr) (o : A3) (x : XV)
  /-- `VOR` (R216). Element-wise bitwise or. -/
  | vor (h : Hdr) (o : A3) (x : XV)
  /-- `VXOR` (R216). Element-wise bitwise exclusive or. -/
  | vxor (h : Hdr) (o : A3) (x : XV)
  /-- `VSHL` (R216). Element-wise left shift. -/
  | vshl (h : Hdr) (o : A3) (x : XV)
  /-- `VSHR` (R216). Element-wise logical right shift. -/
  | vshr (h : Hdr) (o : A3) (x : XV)
  /-- `VSRA` (R216). Element-wise arithmetic right shift. -/
  | vsra (h : Hdr) (o : A3) (x : XV)
  /-- `VCMP` (R217). Compares lanes under a condition and writes a mask. -/
  | vcmp (h : Hdr) (cnd : B3) (o : A3) (x : XV)
  /-- `VSEL` (R218). Selects lanes of a or b by a mask. -/
  | vsel (h : Hdr) (o : A3) (x : XV)
  /-- `VBCAST` (R222). Broadcasts a scalar into active lanes. -/
  | vbcast (h : Hdr) (o : A3) (x : XV)
  /-- `VEXTR` (R222). Extracts one lane into a scalar register. -/
  | vextr (h : Hdr) (o : A3) (x : XV)
  /-- `VINS` (R222). Inserts a scalar into one lane. -/
  | vins (h : Hdr) (o : A3) (x : XV)
  /-- `VCVT` (R223). Converts lanes between formats with a rounding mode. -/
  | vcvt (h : Hdr) (o : A3) (x : XV)
  /-- `VSRND` (R223). Converts lanes with stochastic rounding from stream 1. -/
  | vsrnd (h : Hdr) (o : A3) (x : XV)
  /-- `VQNT` (R224). Quantises 32-lane blocks to a narrow format with a shared scale. -/
  | vqnt (h : Hdr) (o : A3) (x : XV)
  /-- `VDQNT` (R225). Dequantises block-scaled codes to a wide format. -/
  | vdqnt (h : Hdr) (o : A3) (x : XV)
  /-- `VPERM` (R226). Permutes lanes of a table register by index lanes. -/
  | vperm (h : Hdr) (o : A3) (x : XV)
  /-- `VSHUF` (R227). Interleaves, deinterleaves or transposes lanes by function code. -/
  | vshuf (h : Hdr) (fn : B3) (o : A3) (x : XV)
  /-- `VROT` (R228). Shifts lanes up, carrying in the top lanes of a second register. -/
  | vrot (h : Hdr) (o : A3) (x : XV)
  /-- `VCOMP` (R229). Compresses the active lanes to the bottom. -/
  | vcomp (h : Hdr) (o : A3) (x : XV)
  /-- `VEXPD` (R229). Expands consecutive lanes into the active lanes. -/
  | vexpd (h : Hdr) (o : A3) (x : XV)
  /-- `VRED` (R230). Reduces the active lanes by a fixed tree into a scalar. -/
  | vred (h : Hdr) (fn : B3) (o : A3) (x : XV)
  /-- `VSCAN` (R230). Computes inclusive prefix reductions per lane. -/
  | vscan (h : Hdr) (fn : B3) (o : A3) (x : XV)
  /-- `VDOT` (R231). Computes an exactly summed dot product into a scalar. -/
  | vdot (h : Hdr) (o : A3) (x : XV)
  /-- `VIOTA` (R220). Writes lane indices or active-lane counts. -/
  | viota (h : Hdr) (o : A3) (x : XV)
  /-- `MAND` (R219). Bitwise and of two masks. -/
  | mand (h : Hdr) (o : A3) (x : XV)
  /-- `MOR` (R219). Bitwise or of two masks. -/
  | mor (h : Hdr) (o : A3) (x : XV)
  /-- `MXOR` (R219). Bitwise exclusive or of two masks. -/
  | mxor (h : Hdr) (o : A3) (x : XV)
  /-- `MNOT` (R219). Inverts a mask. -/
  | mnot (h : Hdr) (o : A3) (x : XV)
  /-- `MPOP` (R219). Counts the active lanes of a mask. -/
  | mpop (h : Hdr) (o : A3) (x : XV)
  /-- `MFIRST` (R219). Finds the lowest active lane of a mask. -/
  | mfirst (h : Hdr) (o : A3) (x : XV)
  /-- `VSETVL` (R221). Sets VL to min(s(a), cap(T)) and returns it. -/
  | vsetvl (h : Hdr) (o : A3) (x : XV)
  /-- `VRAND` (R233). Fills lanes with draws of stream 0. -/
  | vrand (h : Hdr) (o : A3) (x : XV)
  /-- `VSAMP` (R234). Samples one lane index from weights using two draw words. -/
  | vsamp (h : Hdr) (o : A3) (x : XV)
  /-- `DEFER` (R235). Appends one record per active lane to the deferral queue. -/
  | defer (h : Hdr) (fn : B2) (o : A3) (x : XV)
  /-- `DRAIN` (R236). Pops up to 2,048 deferral records into registers and a mask. -/
  | drain (h : Hdr) (fn : B2) (o : A3) (x : XV)
  /-- `DCOUNT` (R237). Reads the deferral queue's record count. -/
  | dcount (h : Hdr) (o : A3) (x : XV)
  /-- `VEXP2` (R232). Table-based 2^x per lane. -/
  | vexp2 (h : Hdr) (o : A3) (x : XV)
  /-- `VLOG2` (R232). Table-based log2 per lane. -/
  | vlog2 (h : Hdr) (o : A3) (x : XV)
  /-- `VRCP` (R232). Table-based reciprocal per lane. -/
  | vrcp (h : Hdr) (o : A3) (x : XV)
  /-- `VRSQ` (R232). Table-based reciprocal square root per lane. -/
  | vrsq (h : Hdr) (o : A3) (x : XV)
  /-- `VSIN` (R232). Table-based sin πx per lane. -/
  | vsin (h : Hdr) (o : A3) (x : XV)
  /-- `VCOS` (R232). Table-based cos πx per lane. -/
  | vcos (h : Hdr) (o : A3) (x : XV)
  /-- `VTANH` (R232). Table-based tanh per lane. -/
  | vtanh (h : Hdr) (o : A3) (x : XV)
  /-- `VSIGM` (R232). Table-based logistic sigmoid per lane. -/
  | vsigm (h : Hdr) (o : A3) (x : XV)
  /-- `VERF` (R232). Table-based error function per lane. -/
  | verf (h : Hdr) (o : A3) (x : XV)
  /-- `TAP` (R336). Computes a KH x KW stencil over input-ring or work-slot samples. -/
  | tap (h : Hdr) (o : A3) (src : Bool) (inf : B2) (t : B4) (kh : B3) (kw : B3) (step : B6)
  /-- `ROWIN_WAIT` (R335). Waits until an input ordinal has arrived and returns its row metadata. -/
  | rowinWait (h : Hdr) (d : Code) (a : Code)
  /-- `ROWIN_REL` (R335). Releases input-ring rows. -/
  | rowinRel (h : Hdr) (a : Code)
  /-- `ROWIN_CNT` (R335). Reads the input ring's AIN. -/
  | rowinCnt (h : Hdr) (d : Code)
  /-- `ROWOUT_WR` (R338). Writes 64 lanes into the output row buffer. -/
  | rowoutWr (h : Hdr) (a : Code) (b : Code)
  /-- `ROWOUT_NEXT` (R338). Appends the output row buffer as a row of the next stage's input ring. -/
  | rowoutNext (h : Hdr) (a : Code) (b : Code)
  /-- `ROWOUT_SLOT` (R338). Copies the output row buffer into a work slot. -/
  | rowoutSlot (h : Hdr) (a : Code) (b : Code)
  /-- `REMAP` (R337). Resamples input rows by bilinear weights. -/
  | remap (h : Hdr) (o : A3) (inf : B2) (t : B4)
  /-- `TILEOUT` (R339). Claims a row-ring unit and writes a row and its tile header through ingress. -/
  | tileout (h : Hdr) (a : Code) (b : Code) (t : B4) (ring : B8) (ch : B4)
  /-- `MMUL` (R249). Issues a dense K-block product command into a stream. -/
  | mmul (h : Hdr) (o : A3) (x : XM)
  /-- `MMULS` (R249). Issues a 2:4-sparse K-block product command into a stream. -/
  | mmuls (h : Hdr) (o : A3) (x : XM)
  /-- `MSACC` (R251). Issues a scaled accumulation of a partial into a bank. -/
  | msacc (h : Hdr) (o : A3) (x : XM)
  /-- `MACC` (R251). Issues an unscaled accumulation of a partial into a bank. -/
  | macc (h : Hdr) (o : A3) (x : XM)
  /-- `MZERO` (R252). Issues the clearing of an accumulator bank. -/
  | mzero (h : Hdr) (o : A3) (x : XM)
  /-- `MRD` (R253). Issues the readout of accumulator rows into a register or mq. -/
  | mrd (h : Hdr) (o : A3) (x : XM)
  /-- `MWBL` (R256). Issues a 4 KiB raw copy into the weight buffer. -/
  | mwbl (h : Hdr) (o : A3) (x : XM)
  /-- `MWBD` (R257). Issues the setting of a weight-buffer page's mode. -/
  | mwbd (h : Hdr) (o : A3) (x : XM)
  /-- `MSCL` (R258). Issues a load of 512 scale slots. -/
  | mscl (h : Hdr) (o : A3) (x : XM)
  /-- `MCHK` (R259). Issues the setting of an array's checksum tolerance. -/
  | mchk (h : Hdr) (o : A3) (x : XM)
  /-- `MSTAT` (R261). Reads busy, poison and saturation status of a bank. -/
  | mstat (h : Hdr) (d : Code) (bank : B2)
  /-- `MFEN` (R262). Issues a barrier across all ME streams. -/
  | mfen (h : Hdr) (o : A3) (x : XM)
  /-- `LD_B` (R264). One-word byte load. -/
  | ldB (h : Hdr) (d : Code) (a : Code) (off : B6)
  /-- `LD_H` (R264). One-word halfword load. -/
  | ldH (h : Hdr) (d : Code) (a : Code) (off : B6)
  /-- `LD_W` (R264). One-word word load. -/
  | ldW (h : Hdr) (d : Code) (a : Code) (off : B6)
  /-- `LD_D` (R264). One-word doubleword load. -/
  | ldD (h : Hdr) (d : Code) (a : Code) (off : B6)
  /-- `ST_B` (R264). One-word byte store. -/
  | stB (h : Hdr) (d : Code) (a : Code) (off : B6)
  /-- `ST_H` (R264). One-word halfword store. -/
  | stH (h : Hdr) (d : Code) (a : Code) (off : B6)
  /-- `ST_W` (R264). One-word word store. -/
  | stW (h : Hdr) (d : Code) (a : Code) (off : B6)
  /-- `ST_D` (R264). One-word doubleword store. -/
  | stD (h : Hdr) (d : Code) (a : Code) (off : B6)
  /-- `LD_B_X` (R264). Two-word byte load with a 28-bit byte offset. -/
  | ldBX (h : Hdr) (d : Code) (a : Code) (off : B28)
  /-- `LD_H_X` (R264). Two-word halfword load with a 28-bit byte offset. -/
  | ldHX (h : Hdr) (d : Code) (a : Code) (off : B28)
  /-- `LD_W_X` (R264). Two-word word load with a 28-bit byte offset. -/
  | ldWX (h : Hdr) (d : Code) (a : Code) (off : B28)
  /-- `LD_D_X` (R264). Two-word doubleword load with a 28-bit byte offset. -/
  | ldDX (h : Hdr) (d : Code) (a : Code) (off : B28)
  /-- `ST_B_X` (R264). Two-word byte store with a 28-bit byte offset. -/
  | stBX (h : Hdr) (d : Code) (a : Code) (off : B28)
  /-- `ST_H_X` (R264). Two-word halfword store with a 28-bit byte offset. -/
  | stHX (h : Hdr) (d : Code) (a : Code) (off : B28)
  /-- `ST_W_X` (R264). Two-word word store with a 28-bit byte offset. -/
  | stWX (h : Hdr) (d : Code) (a : Code) (off : B28)
  /-- `ST_D_X` (R264). Two-word doubleword store with a 28-bit byte offset. -/
  | stDX (h : Hdr) (d : Code) (a : Code) (off : B28)
  /-- `VLD` (R265). Loads a whole vector register, contiguous or strided, optionally tag-checked. -/
  | vld (h : Hdr) (o : A3) (x : XL)
  /-- `VST` (R265). Stores a whole vector register, contiguous or strided. -/
  | vst (h : Hdr) (o : A3) (x : XL)
  /-- `VLDX` (R266). Gathers elements by index lanes into a register. -/
  | vldx (h : Hdr) (o : A3) (x : XV)
  /-- `VSTX` (R266). Scatters register elements by index lanes. -/
  | vstx (h : Hdr) (o : A3) (x : XV)
  /-- `RDQ` (R267). Reads one chunk from memory and pushes it into an operand queue. -/
  | rdq (h : Hdr) (o : A3) (x : XL)
  /-- `WRQ` (R268). Pushes chunks of a vector register into an operand queue. -/
  | wrq (h : Hdr) (d : Code) (a : Code) (cnt : B3) (first : B3)
  /-- `LBLK` (R270). Sets up an L1D load block and starts its fill. -/
  | lblk (h : Hdr) (o : A3) (x : XL)
  /-- `LBINV` (R271). Invalidates a load block and discards dirty lines. -/
  | lbinv (h : Hdr) (a : Code)
  /-- `LBWB` (R271). Writes a load block's dirty lines back to the tile store. -/
  | lbwb (h : Hdr) (a : Code)
  /-- `LBST` (R271). Reads a block directory entry. -/
  | lbst (h : Hdr) (d : Code) (a : Code)
  /-- `RCLAIM` (R272). Claims ring units if free, returning the old CLAIM or failure. -/
  | rclaim (h : Hdr) (o : A3) (x : XS)
  /-- `RPUB` (R272). Publishes ring units after earlier accesses perform. -/
  | rpub (h : Hdr) (o : A3) (x : XS)
  /-- `RREL` (R272). Releases ring units after earlier accesses perform. -/
  | rrel (h : Hdr) (o : A3) (x : XS)
  /-- `AWFILL` (R273). Registers or waits on a ring's filled count. -/
  | awfill (h : Hdr) (o : A3) (x : XS)
  /-- `AWFREE` (R273). Registers or waits on a ring's free count. -/
  | awfree (h : Hdr) (o : A3) (x : XS)
  /-- `AWROW` (R273). Registers or waits on a row ring's row counter. -/
  | awrow (h : Hdr) (o : A3) (x : XS)
  /-- `AWWIN` (R273). Registers or waits on a fusion set's window counter. -/
  | awwin (h : Hdr) (o : A3) (x : XS)
  /-- `AWCMP` (R273). Registers or waits on a doubleword compare. -/
  | awcmp (h : Hdr) (cnd : Cmp3) (o : A3) (x : XS)
  /-- `PHASE` (R275). Enters a phase barrier at a domain level. -/
  | phase (h : Hdr) (lev : B2)
  /-- `PSET` (R276). Declares a read or write range of an engine for the next phase. -/
  | pset (h : Hdr) (eng : B2) (wr : Bool) (idx : B3) (a : Code) (b : Code)
  /-- `FENCE` (R277). Orders the sequencer's accesses at a scope as release, acquire or full. -/
  | fence (h : Hdr) (scope : B3) (v : B2)
  /-- `BRMW` (R278). Performs an in-bank atomic read-modify-write. -/
  | brmw (h : Hdr) (o : A3) (x : XB)
  /-- `MONWAIT` (R279). Parks the sequencer on a sector until written or timed out. -/
  | monwait (h : Hdr) (a : Code)
  /-- `PUSH` (R280). Hands a 64-byte command to a CE stream, or reports the stream full. -/
  | push (h : Hdr) (o : A3) (x : XM)
  /-- `POP` (R281). Pops a completion word from cq in stall or not-ready mode. -/
  | pop (h : Hdr) (d : Code) (pm : Bool)
  /-- `DACT` (R304). Activates a row, redirected through the remap table. -/
  | dact (h : Hdr) (q : DQ) (row : B18)
  /-- `DRD` (R306). Reads one burst into the tile store. -/
  | drd (h : Hdr) (q : DQ) (col : B6) (addr : B23)
  /-- `DRD_WB` (R306). Reads one burst into a core's weight buffer. -/
  | drdWb (h : Hdr) (q : DQ) (col : B6) (core : B6) (off : B14)
  /-- `DWR` (R306). Writes one burst from the tile store. -/
  | dwr (h : Hdr) (q : DQ) (col : B6) (wb : Bool) (addr : B23)
  /-- `DPRE` (R305). Precharges one bank. -/
  | dpre (h : Hdr) (q : DQ)
  /-- `DPREA` (R305). Precharges every bank of a sub-channel. -/
  | dprea (h : Hdr) (qs : B2) (sc : Bool)
  /-- `DREF` (R307). Refreshes one bank and advances the refresh pointer. -/
  | dref (h : Hdr) (q : DQ)
  /-- `DMRW` (R308). Writes a run-time DRAM mode register. -/
  | dmrw (h : Hdr) (qs : B2) (sc : Bool) (mr : B8) (val : B8)
  /-- `DMRR` (R308). Reads a DRAM mode register into DCSSTAT. -/
  | dmrr (h : Hdr) (qs : B2) (sc : Bool) (mr : B8)
  /-- `DZQ` (R309). Starts or latches ZQ calibration. -/
  | dzq (h : Hdr) (qs : B2) (sc : Bool) (op : B2)
  /-- `DIDLE` (R310). Delays the DCS stream by an idle count. -/
  | didle (h : Hdr) (n : B18)
  /-- `DSYNC` (R310). Records a sync number in DCSSTAT. -/
  | dsync (h : Hdr) (n : B8)
  /-- `TRAP` (R198). Raises a software trap. -/
  | trap (h : Hdr) (code : B15)
  /-- `ERET` (R198). Returns from a handler, resuming or requesting a walker action. -/
  | eret (h : Hdr)
  /-- `HALT` (R196). Ends the sequencer's part in the iteration. -/
  | halt (h : Hdr)
  /-- `DBG` (R199). Stops the core for the debugger when enabled in tokened code. -/
  | dbg (h : Hdr) (code : B15)
  /-- `SAFEPT` (R197). Marks a safe point at which pre-emption may occur. -/
  | safept (h : Hdr) (bnd : B16)
  /-- `BBMARK` (R200). Appends a mark event to the core's mark buffer. -/
  | bbmark (h : Hdr) (a : Code) (code : B12)
  /-- `CONFIG_LOCK_REQUEST` (R358). Writing CFGLOCK.SET locks a partition unless a resource overlaps. -/
  | configLockRequest (v : DWord)
  /-- `PARTITION_RESET` (R359). Writing PRST stops and resets a partition's state. -/
  | partitionReset (v : DWord)
  /-- `HOST_MESSAGE` (R355). A write of HMSG's payload doubleword fires SRC = 4 records with the tag. -/
  | hostMessage (p : Nat) (v : DWord)
  /-- `PEER_MESSAGE` (R355). A 16-byte peer write at PMSGA fires SRC = 5 records. -/
  | peerMessage (p : Nat) (tag : Nat) (data : Bytes)
  /-- `PEER_WRITE` (R356). A peer-port write or request is applied within the receiver's bounds. -/
  | peerWrite (p : Nat) (tag : Nat) (addr : Nat) (op : Nat) (data : Bytes)
  /-- `QUEUE_NOTIFY` (R353). A notify register write sets a host queue's TAIL. -/
  | queueNotify (off : Nat) (v : W32)
  /-- `XLINV_WRITE` (R365). Drops cached translations of a range or all of a partition. -/
  | xlinvWrite (p : Nat) (v : DWord)
  /-- `DBGRES_WRITE` (R365). Resumes a core stopped by DBG. -/
  | dbgresWrite (v : DWord)
  /-- `TBSTEP_WRITE` (R327). Adds a signed step to the time base. -/
  | tbstepWrite (v : DWord)
  /-- `TIME_SYNC_MESSAGE` (R327). The 802.1AS follower adjusts INC or steps the time base. -/
  | timeSyncMessage (inc : DWord) (step : DWord)
  /-- `LBP_GO` (R330). Writing LBPCTL.GO starts an LBP's row program. -/
  | lbpGo (n : Nat)
  /-- `LBP_IMEM_WRITE` (R348). Writes an LBP's instruction memory only while it is stopped. -/
  | lbpImemWrite (off : Nat) (v : DWord)
  /-- `SCRATCHPAD_WINDOW_WRITE` (R479). Writes a core's scratchpad through BAR0 when no task of its partition is active. -/
  | scratchpadWindowWrite (off : Nat) (v : DWord)
  /-- `MIGCTL_GO` (R453). Starts the migration of a COPYING remap entry. -/
  | migctlGo (ch : Nat) (v : DWord)
  /-- `FRING_REL_WRITE` (R393). Advances a fault ring's REL unless it would pass PUB. -/
  | fringRelWrite (x : Nat) (v : DWord)
  /-- `FPIN_CLEAR` (R397). W1C write to FPIN, clearing FATAL bits only after partition reset. -/
  | fpinClear (v : DWord)
  /-- `REGISTER_WRITE` (R7). A write to a register with no behaviour of its own, per its Access codes and lock. -/
  | registerWrite (off : Nat) (n : Nat) (v : DWord)
  /-- `BAR2_WRITE` (R351). A host write through BAR2 is applied in the partition's host slots. -/
  | bar2Write (off : Nat) (data : Bytes)
  /-- `BAR2_READ` (R351). A host read through BAR2 returns the die's view in a host slot. -/
  | bar2Read (off : Nat) (len : Nat)
  /-- `HOST_ATOMIC` (R424). A host AtomicOp reads and writes in consecutive host cycles or completes as UR. -/
  | hostAtomic (off : Nat) (op : B4) (w : B2) (y : DWord) (z : DWord)
  /-- `SPI_READ` (R397). The safety island reads fault registers over SPI. -/
  | spiRead (off : Nat) (len : Nat)
  /-- `HOST_COMPLETION` (R460). A host read or atomic completion arrives, good or in error. -/
  | hostCompletion (tag : Nat) (st : Nat) (data : Bytes)
  /-- `HOST_COMPLETION_TIMEOUT` (R460). A host request times out after 1 ms with HOST_CPL. -/
  | hostCompletionTimeout (tag : Nat)
  /-- `PEER_LINK_CHANGE` (R441). The peer link goes up or down, setting MGMT_STATUS.PEER. -/
  | peerLinkChange (up : Bool)
  /-- `LINK_CRC_RETRY` (R459). A flit fails CRC and is retried under a link-retry hold. -/
  | linkCrcRetry (link : Nat)
  /-- `LINK_RETRY_COMPLETE` (R60). The retry completes and the link-retry hold is released. -/
  | linkRetryComplete (link : Nat) (ok : Bool)
  /-- `LINK_RETRAIN` (R459). After 16 failed retries the link retrains. -/
  | linkRetrain (link : Nat)
  /-- `LINK_RETRAIN_END` (R459). Retraining ends, resending the flit or withdrawing the link after three failures. -/
  | linkRetrainEnd (link : Nat) (ok : Bool)
  /-- `FRAME_START` (R326). A Frame Start packet stamps TFS and advances the frame counter. -/
  | frameStart (port : Nat) (vc : Nat)
  /-- `CAMERA_ROW` (R454). A camera long packet is stamped and appended, substituted, late-written or discarded. -/
  | cameraRow (port : Nat) (di : Nat) (data : Bytes) (bad : Bool)
  /-- `FRAME_END` (R454). A Frame End closes the frame, dropping rows not yet received. -/
  | frameEnd (port : Nat) (vc : Nat)
  /-- `LIDAR_DATAGRAM` (R324). A UDP datagram becomes one sweep row, possibly starting a sweep. -/
  | lidarDatagram (port : Nat) (udpp : Nat) (data : Bytes) (bad : Bool)
  /-- `SENSOR_LINK_LOSS` (R457). A sensor port loses its link. -/
  | sensorLinkLoss (port : Nat)
  /-- `SENSOR_LINK_RETURN` (R457). A sensor port's link returns. -/
  | sensorLinkReturn (port : Nat)
  /-- `PEER_COMPLETION` (R356). A completion or acknowledgement arrives from the peer M9 for a PEER = 1 copy, BATOM or COLL. -/
  | peerCompletion (tag : Nat) (ok : Bool) (data : Bytes)
  /-- `TILEOUT_PUBLISH` (R339). Advances the row ring's PUB once the row's bytes are written. -/
  | tileoutPublish
  /-- `ME_COMMAND_START` (R242). An ME command starts at its stamp or when its stream, resources and queues allow. -/
  | meCommandStart
  /-- `ME_COMMAND_COMPLETE` (R243). An ME command completes and pushes its completion word in stream order. -/
  | meCommandComplete
  /-- `MONITOR_RESUME` (R68). A parked sequencer resumes after a write to its sector or 4,096 sc. -/
  | monitorResume
  /-- `COPY1D` (R286). Copies LEN bytes in groups of 256. -/
  | copy1d
  /-- `COPYND` (R288). Copies runs described by a pattern record, with optional end markers. -/
  | copynd
  /-- `GATHER` (R289). Gathers indexed elements into a dense destination. -/
  | gather
  /-- `SCATTER` (R289). Scatters dense elements to indexed places. -/
  | scatter
  /-- `SHAPE` (R290). Moves one tile between a tensor and a dense buffer. -/
  | shape
  /-- `SCOPY` (R291). Copies scales by a pattern into scale memory. -/
  | scopy
  /-- `BATOM` (R292). Applies a batch of atomics to tile, peer or host targets. -/
  | batom
  /-- `COLL` (R293). Performs a collective reduce, gather or broadcast among matching participants. -/
  | coll
  /-- `CE_COMMAND_COMPLETE` (R295). A CE command completes and pushes its completion word, then its CWA copy. -/
  | ceCommandComplete
  /-- `CQ_WORD_ENTER` (R295). Completion words waiting for cq room enter when pops make room. -/
  | cqWordEnter
  /-- `COLL_MATCH_TIMEOUT` (R444). An unmatched COLL completes CANCELLED after AWAIT_LIMIT. -/
  | collMatchTimeout
  /-- `REFRESH_DUE` (R316). The refresh interval expires and OWED increases, raising debt faults at 7 and 16. -/
  | refreshDue
  /-- `HOLD_REFRESH` (R318). The DCS refreshes bank RP during a boundary hold while OWED > 0. -/
  | holdRefresh
  /-- `IDLE_REFRESH` (R320). A DCS running no stream refreshes while OWED > 0. -/
  | idleRefresh
  /-- `MR4_POLL` (R319). The DCS reads mode register 4 and updates MULT. -/
  | mr4Poll
  /-- `MIGRATION_PASS` (R453). The DCS copies dirty columns of a row to its spare and switches when clean. -/
  | migrationPass
  /-- `MARK_DRAIN` (R200). One buffered mark drains into the contact sheet. -/
  | markDrain
  /-- `TRAP_HANDLER_ENTRY` (R395). K enters the handler at TVEC once the core's issued results have landed. -/
  | trapHandlerEntry
  /-- `DOMAIN_BREAK` (R395). Members stop at c + λ, cancel unstarted commands and enter handlers. -/
  | domainBreak
  /-- `WALKER_RECOVERY` (R396). After every handler's ERET the walker replays, restarts or abandons the task. -/
  | walkerRecovery
  /-- `SCHED_SEGMENT_DEADLINE` (R406). At TSB + t0 a timed segment not yet reached traps SCHED. -/
  | schedSegmentDeadline
  /-- `AWAIT_HORIZON` (R40). At TSB + b - 32 registered awaits and throttle slots decide a hold. -/
  | awaitHorizon
  /-- `HOLD_BEGIN` (R40). At the period boundary the partition becomes held. -/
  | holdBegin
  /-- `HOLD_RELEASE_DECIDED` (R40). All await conditions become true and release is decided. -/
  | holdReleaseDecided
  /-- `HOLD_RELEASE` (R40). The 32 sc release countdown ends and the partition runs. -/
  | holdRelease
  /-- `THROTTLE_SLOT_END` (R41). An idle throttle slot ends and the frame position advances. -/
  | throttleSlotEnd
  /-- `THROTTLE_LEVEL_EFFECT` (R24). A written throttle level takes effect at a boundary at least 32 sc later. -/
  | throttleLevelEffect
  /-- `AWAIT_BUDGET_EXHAUSTED` (R408). An AWCMP exceeds AWAIT_LIMIT; its registration lapses and its domain breaks. -/
  | awaitBudgetExhausted
  /-- `HOLD_BUDGET_EXHAUSTED` (R409). A hold exceeds HOLD_LIMIT; false registrations lapse and domains break. -/
  | holdBudgetExhausted
  /-- `LATENCY_BUDGET_EXCEEDED` (R400). A timed iteration's wall time passes its allowed stretch. -/
  | latencyBudgetExceeded
  /-- `PHASE_CHANGE` (R47). All members have issued PHASE; after the level latency the phase flips. -/
  | phaseChange
  /-- `SAFEPOINT_PREEMPT` (R61). At a safe point's boundary with a higher launch pending the task enters SAVING. -/
  | safepointPreempt
  /-- `CONTEXT_SAVE_DONE` (R63). Every member's context is stored and the task becomes PREEMPTED. -/
  | contextSaveDone
  /-- `CONTEXT_RESTORE_DONE` (R65). The last member's context is loaded and TSB is set for resumption. -/
  | contextRestoreDone
  /-- `VRF_WAKE_DONE` (R72). 16 sc after a wake the group's WAKING bit clears. -/
  | vrfWakeDone
  /-- `WCC_COMPARE_TRIGGER` (R54). WCC reaches a record's THRESH and the record fires once. -/
  | wccCompareTrigger
  /-- `LAUNCH_START` (R55). A free domain takes its winning pending launch, checks records and hands off. -/
  | launchStart
  /-- `ITERATION_RETIRE` (R52). All four HALTs issued and commands complete; the core retires and takes its next iteration. -/
  | iterationRetire
  /-- `DEVICE_RESET` (R401). A warm device reset resets everything but the contact sheet. -/
  | deviceReset
  /-- `POWER_ON` (R401). Power-on resets the device including CSHEAD. -/
  | powerOn
  /-- `BOOT_GO` (R363). Writing BOOTCTL.GO verifies the image, derives identity and runs self-calibration. -/
  | bootGo
  /-- `BOOT_READY` (R397). Calibration ends, READY is set and the fault pins rise. -/
  | bootReady
  /-- `ATTEST_GO` (R348). Writing ATTCTL.GO builds a signed attestation report over the nonce. -/
  | attestGo
  /-- `PARTITION_RESET_DONE` (R463). Outstanding requests drain and the reset-end event is written. -/
  | partitionResetDone
  /-- `QUEUE_BIND` (R353). The mapper binds the oldest announced queue to a free slot. -/
  | queueBind
  /-- `QUEUE_ENTRY_READ` (R353). A bound slot reads entry HEAD into a pending launch and advances HEAD. -/
  | queueEntryRead
  /-- `QUEUE_MSIX` (R353). Once the CDA write is applied the MSI-X vector is sent. -/
  | queueMsix
  /-- `PAGE_WALK_COMPLETE` (R102). A translation walk's host reads return and the leaf is used or refused. -/
  | pageWalkComplete
  /-- `HOST_LINK_DOWN` (R460). The host link goes down and requests end with HOST_CPL. -/
  | hostLinkDown
  /-- `ROW_DEADLINE` (R326). A row deadline passes and a late-missing substitute is appended. -/
  | rowDeadline
  /-- `OVERRUN_SUBSTITUTE` (R454). As input slots free, kind-4 substitutes for lost rows are appended. -/
  | overrunSubstitute
  /-- `SHUTTER_DECIDE` (R344). A complete candidate writes its window record and advances WCNT. -/
  | shutterDecide
  /-- `SHUTTER_CANDIDATE_DEAD` (R458). An open candidate dies by later rows, deadline or a fifth candidate. -/
  | shutterCandidateDead
  /-- `UNTIMED_ACCESS_PERFORM` (R106). An untimed access from tokened code performs when its bank grants it an open cycle,
  no earlier than c + L + k. -/
  | untimedAccessPerform
  /-- `WRITE_APPLIED_IN_VIEW` (R113). An untimed write is applied in one die's view, or in host memory, once its causal
  predecessors have been applied there. -/
  | writeAppliedInView
  /-- `HOST_LINK_UP` (R345). The host port's PCIe link trains and comes up again. -/
  | hostLinkUp
  /-- `TSB_REACHED` (R59). SCC reaches a core's TSB and its iteration passes from ENTRY to BODY. -/
  | tsbReached
  /-- `PERIOD_BOUNDARY` (R41). An executed period ends at a boundary, the throttle frame position advances and the period's
  host slots come round again. -/
  | periodBoundary
  deriving DecidableEq, Repr

end Sys2Proof
end

