-- ==== Sys2Proof/Machine/Fields.lean ====
section
/-! DEFINITION. The operand forms of every instruction as its encoding gives them: which class each
operand code has, which formats and rounding codes the entry admits, which fields it leaves unused, and
which values lie beyond a limit of the entry (06: R155 to R164; 08: R203, R210; 18: R428 to R447).
Checks 6 to 11 of R428 are functions of the instruction; checks 1 to 5 look at words and are in
Decode.lean. -/

namespace Sys2Proof.Machine

/-- The class of an operand field: the codes of R157 that it admits, and whether it is read or written. -/
inductive Cls where
  | sr    -- class S, read
  | sw    -- class S, written
  | srw   -- class S, read and written
  | vr    -- class V source, a pop admitted
  | vreg  -- class V source that is a register, no pop
  | va    -- A operand of MMUL and MMULS: 0-55, 58, 63 (09: R245)
  | vw    -- class V destination, a register or vz
  | vwq   -- class V destination, q0-q7 admitted (08: R209)
  | vrw   -- class V register, read and written
  | mrdD  -- MRD destination: 0-47 or 56 (09: R245)
  | mr    -- class M, read
  | mw    -- class M, written
  | qd    -- destination queue 48-55 (10: R267, R268)
  | qb    -- queue of BQS, 48-58 (07: R183)
  | rmap  -- REMAP's first of two V registers, at most 30 (18: R447)
  | zw    -- unused field of word 0 (check 7)
  | zx    -- unused field of the extension word (check 6)
  deriving DecidableEq, Repr

/-- One operand field: its number in DETAIL (18: R429), its value and its class. -/
structure Field where
  no : Nat
  code : Code
  cls : Cls
  deriving DecidableEq, Repr

def fd (o : A3) (d a b : Cls) : List Field := [⟨0, o.d, d⟩, ⟨1, o.a, a⟩, ⟨2, o.b, b⟩]

/-- The fields of an instruction with layout XV: word 0's and the C field. -/
def fv (o : A3) (x : XV) (d a b c : Cls) : List Field := fd o d a b ++ [⟨3, x.c, c⟩]

/-- A source that DEFER uses only when FN exceeds its index (08: R235). -/
def deferSrc (fn : B2) (i : Nat) (unused : Cls) : Cls := if i < fn.toNat then .vr else unused

/-- The operand fields of every instruction (06: R160, with the entries of 07 to 12). -/
def fields (i : Instr) : List Field :=
  match i with
  | .add _ o | .sub _ o | .and _ o | .or _ o | .xor _ o | .shl _ o | .shr _ o | .sra _ o
  | .mul _ o | .mulh _ o | .mulhu _ o | .div _ o | .divu _ o | .rem _ o | .remu _ o | .min _ o
  | .max _ o | .minu _ o | .maxu _ o | .seq _ o | .sne _ o | .slt _ o | .sltu _ o
  | .bins _ o _ _ => fd o .sw .sr .sr
  | .sel _ o c => fd o .sw .sr .sr ++ [⟨3, c, .sr⟩]
  | .addi _ d _ | .andi _ d _ | .ori _ d _ | .xori _ d _ | .shli _ d _ | .shri _ d _ | .srai _ d _
  | .lih _ d _ _ => [⟨0, d, .srw⟩]
  | .lim _ d _ | .limX _ d _ _ | .spld _ d _ | .csrr _ d _ | .rdclk _ d _ | .mstat _ d _ => [⟨0, d, .sw⟩]
  | .spst _ d _ | .csrw _ d _ | .csrs _ d _ | .csrc _ d _ | .bz _ d _ | .bnz _ d _ => [⟨0, d, .sr⟩]
  | .mov _ d a | .clz _ d a | .ctz _ d a | .popc _ d a | .bext _ d a _ _ | .lbst _ d a =>
    [⟨0, d, .sw⟩, ⟨1, a, .sr⟩]
  | .blt _ a b _ | .bge _ a b _ | .bltu _ a b _ | .bgeu _ a b _ => [⟨1, a, .sr⟩, ⟨2, b, .sr⟩]
  | .bqs _ q _ _ => [⟨8, q, .qb⟩]
  | .jr _ a | .lbinv _ a | .lbwb _ a | .monwait _ a | .bbmark _ a _ | .rowinRel _ a => [⟨1, a, .sr⟩]
  | .loop _ _ _ cnt _ _ => [⟨8, cnt, .sr⟩]
  | .vadd _ o x | .vsub _ o x | .vmul _ o x | .vmulh _ o x | .vmin _ o x | .vmax _ o x
  | .vand _ o x | .vor _ o x | .vxor _ o x | .vshl _ o x | .vshr _ o x | .vsra _ o x
  | .vsel _ o x | .vdqnt _ o x => fv o x .vwq .vr .vr .zx
  | .vfma _ o x | .vfms _ o x | .vfnma _ o x | .vclamp _ o x => fv o x .vwq .vr .vr .vr
  | .vabs _ o x | .vneg _ o x | .vnot _ o x | .vmov _ o x | .vsat _ o x | .vcvt _ o x | .vsrnd _ o x
  | .vexp2 _ o x | .vlog2 _ o x | .vrcp _ o x | .vrsq _ o x | .vsin _ o x | .vcos _ o x
  | .vtanh _ o x | .vsigm _ o x | .verf _ o x => fv o x .vwq .vr .zw .zx
  | .vcmp _ _ o x => fv o x .mw .vr .vr .zx
  | .vbcast _ o x => fv o x .vwq .sr .zw .zx
  | .vextr _ o x => fv o x .sw .vr .sr .zx
  | .vins _ o x => fv o x .vw .sr .sr .zx
  | .vqnt _ o x => fv o x .vwq .vr .zw .vw
  | .vperm _ o x | .vcomp _ o x | .vexpd _ o x => fv o x .vw .vr .vr .zx
  | .vshuf _ fn o x => fv o x .vw .vr (if fn = 4 then .zw else .vr) .zx
  | .vrot _ o x => fv o x .vw .vr .sr .vr
  | .vred _ _ o x => fv o x .sw .vr .zw .zx
  | .vscan _ _ o x => fv o x .vw .vr .zw .zx
  | .vdot _ o x => fv o x .sw .vr .vr .zx
  | .viota _ o x | .vrand _ o x => fv o x .vwq .zw .zw .zx
  | .mand _ o x | .mor _ o x | .mxor _ o x => fv o x .mw .mr .mr .zx
  | .mnot _ o x => fv o x .mw .mr .zw .zx
  | .mpop _ o x | .mfirst _ o x => fv o x .sw .mr .zw .zx
  | .vsetvl _ o x => fv o x .sw .sr .zw .zx
  | .vsamp _ o x => fv o x .vw .vr .zw .zx
  | .defer _ fn o x =>
    fv o x .zw (deferSrc fn 0 .zw) (deferSrc fn 1 .zw) (deferSrc fn 2 .zx)
  | .drain _ _ o x => fv o x .vw .zw .zw .zx
  | .dcount _ o x => fv o x .sw .zw .zw .zx
  | .tap _ o _ _ _ _ _ _ => fd o .vw .sr .vr
  | .rowinWait _ d a => [⟨0, d, .sw⟩, ⟨1, a, .sr⟩]
  | .rowinCnt _ d => [⟨0, d, .sw⟩]
  | .rowoutWr _ a b => [⟨1, a, .vr⟩, ⟨2, b, .sr⟩]
  | .rowoutNext _ a b | .rowoutSlot _ a b | .tileout _ a b _ _ _ => [⟨1, a, .sr⟩, ⟨2, b, .sr⟩]
  | .remap _ o _ _ => fd o .vw .rmap .sr
  | .mmul _ o _ | .mmuls _ o _ => fd o .zw .va .sr
  | .msacc _ o _ | .mwbl _ o _ | .mwbd _ o _ | .mscl _ o _ => fd o .zw .sr .sr
  | .macc _ o _ | .mzero _ o _ | .mfen _ o _ => fd o .zw .zw .zw
  | .mrd _ o _ => fd o .mrdD .sr .zw
  | .mchk _ o _ => fd o .zw .sr .zw
  | .ldB _ d a _ | .ldH _ d a _ | .ldW _ d a _ | .ldD _ d a _
  | .ldBX _ d a _ | .ldHX _ d a _ | .ldWX _ d a _ | .ldDX _ d a _ => [⟨0, d, .sw⟩, ⟨1, a, .sr⟩]
  | .stB _ d a _ | .stH _ d a _ | .stW _ d a _ | .stD _ d a _
  | .stBX _ d a _ | .stHX _ d a _ | .stWX _ d a _ | .stDX _ d a _ => [⟨0, d, .sr⟩, ⟨1, a, .sr⟩]
  | .vld _ o x => fd o .vw .sr (if x.sd then .sr else .zw)
  | .vst _ o x => fd o .vreg .sr (if x.sd then .sr else .zw) ++ [⟨9, x.tr, .zx⟩]
  | .vldx _ o x => fv o x .vw .sr .vr .zx
  | .vstx _ o x => fv o x .vreg .sr .vr .zx
  | .rdq _ o x => fd o .qd .sr (if x.sd then .sr else .zw)
  | .wrq _ d a _ _ => [⟨0, d, .qd⟩, ⟨1, a, .vr⟩]
  | .lblk _ o _ => fd o .sr .sr .sr
  | .rclaim _ o _ => fd o .sw .sr .zw
  | .rpub _ o _ | .rrel _ o _ | .awfill _ o _ | .awfree _ o _ | .awrow _ o _ | .awwin _ o _ =>
    fd o .zw .sr .zw
  | .awcmp _ _ o _ => fd o .zw .sr .sr
  | .pset _ _ _ _ a b => [⟨1, a, .sr⟩, ⟨2, b, .sr⟩]
  | .brmw _ o x => fd o .sw .sr .sr ++ (if x.op = 6 then [⟨3, x.c, .sr⟩] else [⟨3, x.c, .zx⟩])
  | .push _ o _ => [⟨0, o.d, .sw⟩, ⟨1, o.a, .sr⟩]
  | .pop _ d _ => [⟨0, d, .sw⟩]
  | _ => []

/-! ### Check 8: operand codes -/

/-- Code c names a scalar register in sequencer kind k (06: R157). -/
def codeS (k : SeqKind) (c : Code) : Bool :=
  c.toNat < 32 || c = 38 || c = 39 || (decide (k = .tile .k) && decide (32 ≤ c.toNat ∧ c.toNat ≤ 37))

/-- Code c is a class V code that sequencer kind k does not reserve (06: R157; 18: R435 for an LBP). -/
def codeV (k : SeqKind) (c : Code) : Bool :=
  if k = .lbp then c.toNat < 32 || c = 63 else c.toNat ≤ 58 || c = 63

/-- What check 8 finds on one field: admitted, a reserved code (DETAIL 0x01ff), or a code of its class that
the entry does not admit (DETAIL 0x08ff). -/
def checkCode (k : SeqKind) (f : Field) : Option B16 :=
  let reserved := some (0x0100#16 + BitVec.ofNat 16 f.no)
  let inadmissible := some (0x0800#16 + BitVec.ofNat 16 f.no)
  let v (ok : Bool) := if !codeV k f.code then reserved else if ok then none else inadmissible
  let n := f.code.toNat
  match f.cls with
  | .sr | .sw | .srw => if codeS k f.code then none else reserved
  | .mr | .mw => if n < 8 then none else reserved
  | .vr => v true
  | .vreg | .vw | .vrw => v (n < 48 || n = 63)
  | .vwq => v (n < 56 || n = 63)
  | .va => v (n < 56 || n = 58 || n = 63)
  | .mrdD => v (n < 48 || n = 56)
  | .qd => v (48 ≤ n && n < 56)
  | .qb => v (48 ≤ n && n < 59)
  | .rmap => v (n ≤ 30)
  | .zw | .zx => none

def firstSome {α β : Type} (f : α → Option β) : List α → Option β
  | [] => none
  | a :: as => match f a with
    | some b => some b
    | none => firstSome f as

def check8 (k : SeqKind) (i : Instr) : Option Reject :=
  (firstSome (checkCode k) (fields i)).map fun d => ⟨.illegalOperand, d⟩

/-! ### Checks 6 and 7: unused fields and bits that depend on another field -/

/-- The XV field of an instruction that has one (06: R160). -/
def xvOf (i : Instr) : Option XV :=
  match i with
  | .vadd _ _ x | .vsub _ _ x | .vmul _ _ x | .vmulh _ _ x | .vmin _ _ x | .vmax _ _ x
  | .vand _ _ x | .vor _ _ x | .vxor _ _ x | .vshl _ _ x | .vshr _ _ x | .vsra _ _ x
  | .vsel _ _ x | .vdqnt _ _ x | .vfma _ _ x | .vfms _ _ x | .vfnma _ _ x | .vclamp _ _ x
  | .vabs _ _ x | .vneg _ _ x | .vnot _ _ x | .vmov _ _ x | .vsat _ _ x | .vcvt _ _ x | .vsrnd _ _ x
  | .vexp2 _ _ x | .vlog2 _ _ x | .vrcp _ _ x | .vrsq _ _ x | .vsin _ _ x | .vcos _ _ x
  | .vtanh _ _ x | .vsigm _ _ x | .verf _ _ x | .vcmp _ _ _ x | .vbcast _ _ x | .vextr _ _ x
  | .vins _ _ x | .vqnt _ _ x | .vperm _ _ x | .vcomp _ _ x | .vexpd _ _ x | .vshuf _ _ _ x
  | .vrot _ _ x | .vred _ _ _ x | .vscan _ _ _ x | .vdot _ _ x | .viota _ _ x | .vrand _ _ x
  | .mand _ _ x | .mor _ _ x | .mxor _ _ x | .mnot _ _ x | .mpop _ _ x | .mfirst _ _ x
  | .vsetvl _ _ x | .vsamp _ _ x | .defer _ _ _ x | .drain _ _ _ x | .dcount _ _ x
  | .vldx _ _ x | .vstx _ _ x => some x
  | _ => none

/-- How an instruction uses MEN, MSK and MZ. -/
inductive MaskUse where
  | full      -- masked, MZ free
  | noZero    -- masked, MZ 0
  | required  -- MEN 1, MZ 0 (08: R229)
  | select    -- MSK names the selecting mask, MEN and MZ 0 (08: R218)
  | never     -- MEN, MSK and MZ 0
  deriving DecidableEq, Repr

/-- The mask use of each XV instruction (08: R212 to R237, R222, R224, R219; 10: R266). VEXTR, VINS and the
mask and length instructions and VSHUF with FN 4 ignore the mask, and so do not use its fields. VRED, VDOT, VSAMP and DEFER
may carry nonzero mask fields (the model's choice, log entry 96). -/
def maskUse (i : Instr) : MaskUse :=
  match i with
  | .vsel _ _ _ => .select
  | .vcomp _ _ _ | .vexpd _ _ _ => .required
  | .viota _ _ _ | .drain _ _ _ _ => .noZero
  | .vextr _ _ _ | .vins _ _ _ | .vqnt _ _ _ | .mand _ _ _ | .mor _ _ _ | .mxor _ _ _ | .mnot _ _ _
  | .mpop _ _ _ | .mfirst _ _ _ | .vsetvl _ _ _ | .dcount _ _ _ => .never
  | .vshuf _ fn _ _ => if fn = 4 then .never else .full
  | .vred _ _ _ _ | .vdot _ _ _ | .vsamp _ _ _ | .defer _ _ _ _ | .vstx _ _ _ => .full
  | _ => .full

def maskFieldsOk (i : Instr) (x : XV) : Bool :=
  match maskUse i with
  | .full => x.men || (x.msk = 0 && !x.mz)
  | .noZero => !x.mz && (x.men || x.msk = 0)
  | .required => x.men && !x.mz
  | .select => !x.men && !x.mz
  | .never => !x.men && x.msk = 0 && !x.mz

/-- PM is 1 only beside an operand that pops mq (18: R435). -/
def pmOk (i : Instr) (x : XV) : Bool :=
  !x.pm || (fields i).any fun f => decide (f.cls = .vr) && f.code = 56

/-- The XM fields that each command does not use are 0 (09: R245; 10: R280). -/
def xmOk (i : Instr) : Bool :=
  match i with
  | .mmul _ _ x | .mmuls _ _ x => x.rm = 0
  | .msacc _ _ x | .macc _ _ x | .mzero _ _ x => x.ta = 0 && x.tb = 0 && x.rm = 0
  | .mrd _ _ x => !x.arr && x.tb = 0
  | .mwbl _ _ x | .mwbd _ _ x | .mfen _ _ x | .push _ _ x =>
    !x.arr && x.acc = 0 && x.ta = 0 && x.tb = 0 && x.rm = 0
  | .mscl _ _ x => !x.arr && x.acc = 0 && x.tb = 0 && x.rm = 0
  | .mchk _ _ x => x.acc = 0 && x.ta = 0 && x.tb = 0 && x.rm = 0
  | _ => true

/-- The remaining conditions of check 6 (18: R439). -/
def extOk (timed : Bool) (i : Instr) : Bool :=
  match i with
  | .vld _ _ x | .rdq _ _ x => x.tg || x.tr = 0
  | .vst _ _ x => !x.tg
  | .lblk _ _ x => !x.sd && x.off = 0 && (x.tg || x.tr = 0)
  | .rclaim _ _ x | .rpub _ _ x | .rrel _ _ x => x.bnd = 0
  | .awfill _ _ x | .awfree _ _ x | .awrow _ _ x | .awwin _ _ x => timed || x.bnd = 0
  | .awcmp _ _ _ x => (timed || x.bnd = 0) && x.ring = 0
  | .brmw _ _ x => !x.u || x.op = 1 || x.op = 2
  | _ => true

def check6 (timed : Bool) (i : Instr) : Option Reject :=
  let xv := match xvOf i with
    | some x => maskFieldsOk i x && pmOk i x
    | none => true
  let unused := (fields i).all fun f => f.cls ≠ .zx || f.code = 0
  if xv && unused && xmOk i && extOk timed i then none else some ⟨.illegalExt, 0x0002⟩

def check7 (timed : Bool) (i : Instr) : Option Reject :=
  match (fields i).find? fun f => f.cls = .zw && f.code ≠ 0 with
  | some f => some ⟨.illegalOperand, 0x0400#16 + BitVec.ofNat 16 f.no⟩
  | none => match i with
    | .safept _ bnd => if !timed && bnd ≠ 0 then some ⟨.illegalOperand, 0x0408⟩ else none
    | _ => none

/-! ### Checks 9 and 10: formats and rounding codes -/

/-- The format codes a type field admits, as a set of codes (05: R124). -/
abbrev FmtSet := List Nat

def floats : FmtSet := [0, 1, 2]
def ints : FmtSet := [8, 11, 12]
def arith : FmtSet := floats ++ ints
def narrows : FmtSet := [3, 4, 5, 6, 7]
def bytewise : FmtSet := [0, 1, 2, 3, 4, 8, 10, 11, 12]
def anyFmt : FmtSet := List.range 13
def quants : FmtSet := narrows ++ [8, 9]

/-- What an instruction admits in T, T2 and RM; `rmI` is what an integer T admits where it differs. -/
structure TypeRow where
  t : FmtSet
  t2 : FmtSet
  rm : Nat      -- RM codes 0 to rm - 1
  rmInt : Nat   -- the same for an integer T
  rmFrom : Nat  -- the least RM code
  deriving DecidableEq, Repr

/-- T admits `t`, T2 and RM are 0. -/
def rowT (t : FmtSet) : TypeRow := ⟨t, [0], 1, 1, 0⟩

/-- The formats that VSAT admits for T2 beside a given T (08: R210). -/
def satRange (t : B4) : FmtSet := if t.toNat ≤ 2 then floats ++ narrows else [8, 9, 11, 12]

/-- The row of R210 for an instruction; VLDX and VSTX take R266's formats. -/
def typeRow (i : Instr) : Option TypeRow :=
  match i with
  | .vadd _ _ _ | .vsub _ _ _ | .vmul _ _ _ | .vfma _ _ _ | .vfms _ _ _ | .vfnma _ _ _ =>
    some ⟨arith, [0], 5, 1, 0⟩
  | .vmulh _ _ _ | .vshl _ _ _ | .vshr _ _ _ | .vsra _ _ _ | .viota _ _ _ | .vperm _ _ _ =>
    some (rowT ints)
  | .vmin _ _ _ | .vmax _ _ _ | .vabs _ _ _ | .vneg _ _ _ | .vclamp _ _ _ | .vcmp _ _ _ _
  | .vrand _ _ _ => some (rowT arith)
  | .vsat _ _ x => some ⟨arith, satRange x.t, 1, 1, 0⟩
  | .vnot _ _ _ | .vmov _ _ _ | .vand _ _ _ | .vor _ _ _ | .vxor _ _ _ | .vsel _ _ _ | .vbcast _ _ _
  | .vextr _ _ _ | .vins _ _ _ | .vshuf _ _ _ _ | .vrot _ _ _ | .vcomp _ _ _ | .vexpd _ _ _
  | .vldx _ _ _ | .vstx _ _ _ => some (rowT bytewise)
  | .vcvt _ _ _ => some ⟨anyFmt, anyFmt, 4, 4, 0⟩
  | .vsrnd _ _ _ => some ⟨anyFmt, floats, 5, 5, 4⟩
  | .vqnt _ _ _ => some ⟨quants, floats, 5, 5, 0⟩
  | .vdqnt _ _ _ => some ⟨floats, quants, 5, 5, 0⟩
  | .vred _ fn _ _ | .vscan _ fn _ _ =>
    some ⟨if fn.toNat < 3 then arith else ints, [0], 4, 1, 0⟩
  | .vdot _ _ _ => some ⟨arith, [0], 4, 1, 0⟩
  | .vsetvl _ _ _ | .mpop _ _ _ | .mfirst _ _ _ => some (rowT anyFmt)
  | .mand _ _ _ | .mor _ _ _ | .mxor _ _ _ | .mnot _ _ _ | .drain _ _ _ _ | .dcount _ _ _ =>
    some (rowT [0])
  | .vsamp _ _ _ => some (rowT [0])
  | .vexp2 _ _ _ | .vlog2 _ _ _ | .vrcp _ _ _ | .vrsq _ _ _ | .vsin _ _ _ | .vcos _ _ _
  | .vtanh _ _ _ | .vsigm _ _ _ | .verf _ _ _ => some ⟨[0], [0], 5, 5, 0⟩
  | .defer _ _ _ _ => some (rowT [0, 12])
  | _ => none

/-- The multiply time of a type pair (09: R250), none for a pair that is not admitted. -/
def mulTime (sparse : Bool) (ta tb : B4) : Option Nat :=
  let a8 := [3, 4, 8].contains ta.toNat
  let n4 (t : B4) := [5, 6, 7, 9].contains t.toNat
  let b8 := [3, 4, 8].contains tb.toNat
  let h (t : B4) := t.toNat = 1 || t.toNat = 2
  if sparse then (if a8 && b8 then some 16 else none)
  else if a8 && (b8 || n4 tb) then some 32
  else if n4 ta && n4 tb then some 16
  else if a8 && tb.toNat = 10 then some 8
  else if h ta && h tb then some 128
  else none

/-- The field that a refused pair of MMUL or MMULS is blamed on: TA when no pair of R250 has it. -/
def pairField (sparse : Bool) (ta : B4) : Nat :=
  if (if sparse then [3, 4, 8] else [3, 4, 8, 5, 6, 7, 9, 1, 2]).contains ta.toNat then 5 else 4

def badFmt (field : Nat) : Option Reject := some ⟨.illegalOperand, 0x0200#16 + BitVec.ofNat 16 field⟩

def check9 (i : Instr) : Option Reject :=
  match typeRow i, xvOf i with
  | some r, some x =>
    if !r.t.contains x.t.toNat then badFmt 4
    else if !r.t2.contains x.t2.toNat then badFmt 5 else none
  | _, _ => match i with
    | .mmul _ _ x => if (mulTime false x.ta x.tb).isSome then none else badFmt (pairField false x.ta)
    | .mmuls _ _ x => if (mulTime true x.ta x.tb).isSome then none else badFmt (pairField true x.ta)
    | .mrd _ _ x => if x.ta.toNat ≤ 12 then none else badFmt 4
    | .mscl _ _ x => if x.ta.toNat ≤ 1 then none else badFmt 4
    | .tap _ _ _ _ t _ _ _ | .remap _ _ _ t => if [1, 2, 11].contains t.toNat then none else badFmt 4
    | .tileout _ _ _ t _ _ => if [1, 2, 11, 15].contains t.toNat then none else badFmt 4
    | _ => none

def check10 (i : Instr) : Option Reject :=
  let bad : Option Reject := some ⟨.illegalOperand, 0x0306⟩
  match typeRow i, xvOf i with
  | some r, some x =>
    let top := if ints.contains x.t.toNat then r.rmInt else r.rm
    if r.rmFrom ≤ x.rm.toNat && x.rm.toNat < top then none else bad
  | _, _ => match i with
    | .mrd _ _ x => if x.rm.toNat ≤ 4 then none else bad
    | _ => none

/-! ### Check 11: encoded values beyond the limit of the entry -/

/-- The owner of a CSR (07: R194): a tile-core sequencer, or each of them. -/
def csrOwner (num : Nat) : Option (Option SeqId) :=
  if [0x001, 0x002, 0x00C, 0x00D, 0x00E, 0x00F, 0x010, 0x022, 0x025, 0x040, 0x041, 0x042, 0x043,
      0x044, 0x048, 0x3F0].contains num then some (some .k)
  else if [0x008, 0x009, 0x00A, 0x020, 0x021].contains num then some (some .c)
  else if [0x000, 0x023, 0x024, 0x028, 0x030, 0x031, 0x032, 0x033, 0x034, 0x035, 0x036].contains num then
    some none
  else none

/-- CSR num is reached by an instruction of sequencer kind k. An LBP reaches its own VL beside the CSRs that
every sequencer has (12: R329). -/
def csrReach (k : SeqKind) (num : Nat) : Bool :=
  match csrOwner num with
  | none => false
  | some none => true
  | some (some q) => decide (k = .tile q) || (decide (k = .lbp) && num = 0x020)

def badVal (field : Nat) : Option Reject := some ⟨.illegalOperand, 0x0500#16 + BitVec.ofNat 16 field⟩

def check11 (k : SeqKind) (die : Nat) (timed : Bool) (i : Instr) : Option Reject :=
  match i with
  | .loop _ lev nstr _ sb blen =>
    if lev.toNat > 5 || nstr.toNat > 4 || sb.toNat > 31 || sb.toNat + nstr.toNat > 32 then badVal 8
    else if blen = 0 then badVal 9 else none
  | .lbrkC _ lev | .lbrkD _ lev | .qualF _ lev | .qualL _ lev =>
    if lev.toNat > 5 then badVal 8 else none
  | .csrr _ _ n | .csrw _ _ n | .csrs _ _ n | .csrc _ _ n =>
    if csrReach k n.toNat then none else badVal 8
  | .drain _ fn o _ => if o.d.toNat + fn.toNat > 47 then badVal 0 else none
  | .vld _ _ x | .rdq _ _ x | .lblk _ _ x => if x.tr.toNat > 30 then badVal 9 else none
  | .wrq _ _ _ cnt first => if first.toNat + cnt.toNat + 1 > 8 then badVal 8 else none
  | .awfill _ _ x | .awfree _ _ x | .awrow _ _ x | .awcmp _ _ _ x =>
    if timed && x.bnd = 0 then badVal 9 else none
  | .awwin _ _ x => if (timed && x.bnd = 0) || x.ring.toNat > 15 then badVal 9 else none
  | .pset _ eng _ _ _ _ => if eng = 3 then badVal 8 else none
  | .push _ o x =>
    if o.b ≠ 0 then badVal 2 else if o.a.toNat > 24 then badVal 1
    else if timed && x.std = 0 then badVal 9 else none
  | .mmul _ _ x | .mmuls _ _ x | .msacc _ _ x | .macc _ _ x | .mzero _ _ x | .mrd _ _ x | .mwbl _ _ x
  | .mwbd _ _ x | .mscl _ _ x | .mchk _ _ x | .mfen _ _ x => if timed && x.std = 0 then badVal 9 else none
  | .pop _ d _ => if d.toNat > 30 then badVal 0 else none
  | .safept _ bnd => if timed && bnd = 0 then badVal 8 else none
  | .tap _ _ _ inf _ kh kw step =>
    if inf = 3 || kh = 0 || kw = 0 || step = 0 then badVal 9 else none
  | .remap _ _ inf _ => if inf = 3 then badVal 9 else none
  | .dact _ _ row => if row.toNat > 131055 then badVal 9 else none
  | .drd _ _ _ addr => if (addr.getLsbD 22) = decide (die = 1) then none else badVal 9
  | .drdWb _ _ _ core _ => if core.toNat > 47 then badVal 9 else none
  | .dwr _ _ _ wb addr =>
    if wb then badVal 8 else if (addr.getLsbD 22) = decide (die = 1) then none else badVal 9
  | .dzq _ _ _ op => if op.toNat > 1 then badVal 9 else none
  | _ => none

/-- Checks 6 to 11 of R428 in their order, on the fields of the instruction. `die` is the die of the DCS
that issues a DRAM command. -/
def checkFields (k : SeqKind) (die : Nat) (timed : Bool) (i : Instr) : Option Reject :=
  firstSome id [check6 timed i, check7 timed i, check8 k i, check9 i, check10 i, check11 k die timed i]

end Sys2Proof.Machine
end

