-- ==== Sys2Proof/WellFormed.lean ====
section
/-! DEFINITION. Well-formed instructions: those whose fields pass checks 6 to 11 of R428 (18: R428) in a
sequencer of a given kind and mode, and whose function code is one the spec lists (check 4). A step of the
device has no encoding and is no instruction word. -/

namespace Sys2Proof

/-- The instruction has an encoding: it is no step of the device. -/
def Instr.isWord (i : Instr) : Bool :=
  match i with
  | .configLockRequest _ | .partitionReset _ | .hostMessage _ _ | .peerMessage _ _ _
  | .peerWrite _ _ _ _ _ | .queueNotify _ _ | .xlinvWrite _ _ | .dbgresWrite _ | .tbstepWrite _
  | .timeSyncMessage _ _ | .lbpGo _ | .lbpImemWrite _ _ | .scratchpadWindowWrite _ _ | .migctlGo _ _
  | .fringRelWrite _ _ | .fpinClear _ | .registerWrite _ _ _ | .bar2Write _ _ | .bar2Read _ _
  | .hostAtomic _ _ _ _ _ | .spiRead _ _ | .hostCompletion _ _ _ | .hostCompletionTimeout _
  | .peerLinkChange _ | .linkCrcRetry _ | .linkRetryComplete _ _ | .linkRetrain _
  | .linkRetrainEnd _ _ | .frameStart _ _ | .cameraRow _ _ _ _ | .frameEnd _ _ | .lidarDatagram _ _ _ _
  | .sensorLinkLoss _ | .sensorLinkReturn _ | .peerCompletion _ _ _ | .tileoutPublish
  | .meCommandStart | .meCommandComplete | .monitorResume | .copy1d | .copynd | .gather | .scatter
  | .shape | .scopy | .batom | .coll | .ceCommandComplete | .cqWordEnter | .collMatchTimeout
  | .refreshDue | .holdRefresh | .idleRefresh | .mr4Poll | .migrationPass | .markDrain
  | .trapHandlerEntry | .domainBreak | .walkerRecovery | .schedSegmentDeadline | .awaitHorizon
  | .holdBegin | .holdReleaseDecided | .holdRelease | .throttleSlotEnd | .throttleLevelEffect
  | .awaitBudgetExhausted | .holdBudgetExhausted | .latencyBudgetExceeded | .phaseChange
  | .safepointPreempt | .contextSaveDone | .contextRestoreDone | .vrfWakeDone | .wccCompareTrigger
  | .launchStart | .iterationRetire | .deviceReset | .powerOn | .bootGo | .bootReady | .attestGo
  | .partitionResetDone | .queueBind | .queueEntryRead | .queueMsix | .pageWalkComplete
  | .hostLinkDown | .rowDeadline | .overrunSubstitute | .shutterDecide | .shutterCandidateDead
  | .untimedAccessPerform | .writeAppliedInView | .hostLinkUp | .tsbReached | .periodBoundary => false
  | _ => true

/-- The function or condition code that the constructor carries is one of R162 (check 4). -/
def Instr.fnOk (i : Instr) : Bool :=
  match i with
  | .rdclk _ _ r => r.toNat ≤ 2
  | .vcmp _ cnd _ _ => cnd.toNat ≤ 5
  | .vshuf _ fn _ _ => fn.toNat ≤ 4
  | .vred _ fn _ _ | .vscan _ fn _ _ => fn.toNat ≤ 5
  | .fence _ scope v => scope.toNat ≤ 4 && v.toNat ≠ 0
  | .brmw _ _ x => x.op.toNat ≤ 6 && 2 ≤ x.w.toNat
  | _ => true

/-- The dependency nibble is 0: a DCS has no token ring (11: R303). -/
def Hdr.noTokens (h : Hdr) : Bool := !h.wp && !h.wn && !h.sp && !h.sn

/-- A DRAM command carries no dependency nibble (11: R303). -/
def Instr.nibbleOk (i : Instr) : Bool :=
  match i with
  | .dact h _ _ | .drd h _ _ _ | .drdWb h _ _ _ _ | .dwr h _ _ _ _ | .dpre h _ | .dprea h _ _ | .dref h _
  | .dmrw h _ _ _ _ | .dmrr h _ _ _ | .dzq h _ _ _ | .didle h _ | .dsync h _ => h.noTokens
  | _ => true

/-- Instruction i is well-formed in a sequencer of kind k of die `die`, in timed or tokened code. -/
def Instr.wf (k : SeqKind) (die : Nat) (timed : Bool) (i : Instr) : Bool :=
  i.isWord && i.fnOk && i.nibbleOk && (Machine.checkFields k die timed i).isNone

end Sys2Proof
end

