-- ==== Sys2Proof/Decode.lean ====
section
/-! DEFINITION. From words to instructions and back (06: R152 to R164; 18: R428 to R430). `decode` makes
checks 1 to 11 of R428 in their order and is total on any two words: it answers an instruction or the cause
and DETAIL of the first check that fails. `encode` is written from the same tables. -/

namespace Sys2Proof

/-! ### Fields of words -/

/-- Bits [lo+n-1 : lo] of a word. -/
def fld {m : Nat} (w : BitVec m) (lo n : Nat) : BitVec n := w.extractLsb' lo n

/-- One bit as a field. -/
def bit1 (b : Bool) : BitVec 1 := BitVec.ofBool b

/-- Word 0: the dependency nibble, PAD, X, OP and the operand field (06: R152). -/
def word0 (h : Hdr) (x : Bool) (op : BitVec 7) (f : BitVec 18) : W32 :=
  bit1 h.wp ++ bit1 h.wn ++ bit1 h.sp ++ bit1 h.sn ++ h.pad ++ bit1 x ++ op ++ f

def hdrOf (w : W32) : Hdr :=
  ⟨w.getLsbD 31, w.getLsbD 30, w.getLsbD 29, w.getLsbD 28, fld w 26 2⟩

/-- OP of word 0. -/
def opOf (w : W32) : BitVec 7 := fld w 18 7

def a3Bits (o : A3) : BitVec 18 := o.d ++ o.a ++ o.b

def a3Of (w : W32) : A3 := ⟨fld w 12 6, fld w 6 6, fld w 0 6⟩

/-- Layout XF (06: R159). -/
def xfBits (fn c p w : B6) : W32 := (0#4) ++ fn ++ c ++ p ++ w ++ (0#4)

def xvBits (fn : BitVec 5) (x : XV) : W32 :=
  (0#4) ++ fn ++ x.t ++ x.t2 ++ x.rm ++ bit1 x.men ++ x.msk ++ bit1 x.mz ++ bit1 x.pm ++ x.c

def xvOfWord (w : W32) : XV :=
  ⟨fld w 19 4, fld w 15 4, fld w 12 3, w.getLsbD 11, fld w 8 3, w.getLsbD 7, w.getLsbD 6, fld w 0 6⟩

def xmBits (x : XM) : W32 :=
  (0#4) ++ x.std ++ x.str ++ bit1 x.arr ++ x.acc ++ x.ta ++ x.tb ++ x.rm

def xmOfWord (w : W32) : XM :=
  ⟨fld w 16 12, fld w 14 2, w.getLsbD 13, fld w 11 2, fld w 7 4, fld w 3 4, fld w 0 3⟩

def xsBits (fn : B4) (x : XS) : W32 := (0#4) ++ x.bnd ++ fn ++ x.ring

def xsOfWord (w : W32) : XS := ⟨fld w 12 16, fld w 0 8⟩

def xbBits (x : XB) : W32 := (0#4) ++ x.op ++ x.w ++ x.c ++ bit1 x.u ++ (0#15)

def xbOfWord (w : W32) : XB := ⟨fld w 24 4, fld w 22 2, fld w 16 6, w.getLsbD 15⟩

def xlBits (x : XL) : W32 := (0#4) ++ bit1 x.tg ++ x.tr ++ bit1 x.sd ++ x.off

def xlOfWord (w : W32) : XL := ⟨w.getLsbD 27, fld w 21 6, w.getLsbD 20, fld w 0 20⟩

def xrBits (fn : B6) (t : B4) (kh kw : B3) (imm : B12) : W32 := (0#4) ++ fn ++ t ++ kh ++ kw ++ imm

/-- The operand field of a DRAM command (06: R160, major 0x7A; 11: R303). -/
def dramBits (fn : B4) (q : DQ) (low : BitVec 7) : BitVec 18 := fn ++ q.qs ++ bit1 q.sc ++ q.bank ++ low

def dqOf (w : W32) : DQ := ⟨fld w 12 2, w.getLsbD 11, fld w 7 4⟩

/-! ### Encoding -/

def enc1 (h : Hdr) (op : BitVec 7) (f : BitVec 18) : List W32 := [word0 h false op f]
def enc2 (h : Hdr) (op : BitVec 7) (f : BitVec 18) (x : W32) : List W32 := [word0 h true op f, x]
def encA3 (h : Hdr) (op : BitVec 7) (o : A3) : List W32 := enc1 h op (a3Bits o)
def encAI (h : Hdr) (op : BitVec 7) (d : Code) (imm : B12) : List W32 := enc1 h op (d ++ imm)
def encXF (h : Hdr) (o : A3) (fn c p w : B6) : List W32 := enc2 h 0x11 (a3Bits o) (xfBits fn c p w)
def encXV (h : Hdr) (op : BitVec 7) (fn : BitVec 5) (o : A3) (x : XV) : List W32 :=
  enc2 h op (a3Bits o) (xvBits fn x)
def encXM (h : Hdr) (op : BitVec 7) (o : A3) (x : XM) : List W32 := enc2 h op (a3Bits o) (xmBits x)
def encXS (h : Hdr) (op : BitVec 7) (fn : B4) (o : A3) (x : XS) : List W32 :=
  enc2 h op (a3Bits o) (xsBits fn x)
def encXL (h : Hdr) (op : BitVec 7) (o : A3) (x : XL) : List W32 := enc2 h op (a3Bits o) (xlBits x)
def encMem (h : Hdr) (op : BitVec 7) (d a : Code) (off : B6) : List W32 := enc1 h op (d ++ a ++ off)
def encMemX (h : Hdr) (op : BitVec 7) (d a : Code) (off : B28) : List W32 :=
  enc2 h op (d ++ a ++ 0#6) ((0#4) ++ off)
def encDram (h : Hdr) (fn : B4) (q : DQ) (low : BitVec 7) (xd : B28) : List W32 :=
  enc2 h 0x7A (dramBits fn q low) ((0#4) ++ xd)

/-- The words of an instruction, word 0 first; no words for a step of the device. -/
def encode (i : Instr) : List W32 :=
  match i with
  | .nop h => enc1 h 0x00 0
  | .add h o => encA3 h 0x01 o
  | .sub h o => encA3 h 0x02 o
  | .and h o => encA3 h 0x03 o
  | .or h o => encA3 h 0x04 o
  | .xor h o => encA3 h 0x05 o
  | .shl h o => encA3 h 0x06 o
  | .shr h o => encA3 h 0x07 o
  | .sra h o => encA3 h 0x08 o
  | .addi h d imm => encAI h 0x09 d imm
  | .andi h d imm => encAI h 0x0A d imm
  | .ori h d imm => encAI h 0x0B d imm
  | .xori h d imm => encAI h 0x0C d imm
  | .shli h d n => enc1 h 0x0D (d ++ 0#6 ++ n)
  | .shri h d n => enc1 h 0x0D (d ++ 1#6 ++ n)
  | .srai h d n => enc1 h 0x0D (d ++ 2#6 ++ n)
  | .lim h d imm => encAI h 0x0E d imm
  | .limX h d imm x => enc2 h 0x0E (d ++ imm) ((0#4) ++ x)
  | .lih h d imm x => enc2 h 0x0F (d ++ imm) ((0#20) ++ x)
  | .mov h d a => enc1 h 0x10 (d ++ a ++ 0#6)
  | .mul h o => encXF h o 0x00 0 0 0
  | .mulh h o => encXF h o 0x01 0 0 0
  | .mulhu h o => encXF h o 0x02 0 0 0
  | .div h o => encXF h o 0x03 0 0 0
  | .divu h o => encXF h o 0x04 0 0 0
  | .rem h o => encXF h o 0x05 0 0 0
  | .remu h o => encXF h o 0x06 0 0 0
  | .min h o => encXF h o 0x08 0 0 0
  | .max h o => encXF h o 0x09 0 0 0
  | .minu h o => encXF h o 0x0A 0 0 0
  | .maxu h o => encXF h o 0x0B 0 0 0
  | .clz h d a => encXF h ⟨d, a, 0⟩ 0x10 0 0 0
  | .ctz h d a => encXF h ⟨d, a, 0⟩ 0x11 0 0 0
  | .popc h d a => encXF h ⟨d, a, 0⟩ 0x12 0 0 0
  | .bext h d a p w => encXF h ⟨d, a, 0⟩ 0x14 0 p w
  | .bins h o p w => encXF h o 0x15 0 p w
  | .seq h o => encXF h o 0x18 0 0 0
  | .sne h o => encXF h o 0x19 0 0 0
  | .slt h o => encXF h o 0x1A 0 0 0
  | .sltu h o => encXF h o 0x1B 0 0 0
  | .sel h o c => encXF h o 0x1C c 0 0
  | .br h off => enc1 h 0x12 off
  | .bz h d off => encAI h 0x13 d off
  | .bnz h d off => encAI h 0x14 d off
  | .blt h a b off => enc2 h 0x15 (a ++ b ++ 0#6) ((0#4) ++ off)
  | .bge h a b off => enc2 h 0x15 (a ++ b ++ 0x10#6) ((0#4) ++ off)
  | .bltu h a b off => enc2 h 0x15 (a ++ b ++ 0x20#6) ((0#4) ++ off)
  | .bgeu h a b off => enc2 h 0x15 (a ++ b ++ 0x30#6) ((0#4) ++ off)
  | .bqs h q cnd off => enc2 h 0x16 (q ++ 0#2 ++ cnd ++ 0#8) ((0#4) ++ off)
  | .jal h off => enc1 h 0x17 off
  | .jr h a => enc1 h 0x18 ((0#6) ++ a ++ 0#6)
  | .loop h lev nstr cnt sb blen => enc2 h 0x19 (lev ++ nstr ++ cnt ++ sb) ((0#16) ++ blen)
  | .lbrkC h lev => enc1 h 0x1A (lev ++ 0#15)
  | .lbrkD h lev => enc1 h 0x1A (lev ++ 0x4000#15)
  | .qualF h lev => enc1 h 0x1B (lev ++ 0#15)
  | .qualL h lev => enc1 h 0x1B (lev ++ 0x4000#15)
  | .idle h n => enc1 h 0x1C n
  | .spld h d idx => enc1 h 0x1D (d ++ 0#2 ++ idx)
  | .spst h d idx => enc1 h 0x1D (d ++ 2#2 ++ idx)
  | .csrr h d num => enc1 h 0x1E (d ++ 0#2 ++ num)
  | .csrw h d num => enc1 h 0x1E (d ++ 1#2 ++ num)
  | .csrs h d num => enc1 h 0x1E (d ++ 2#2 ++ num)
  | .csrc h d num => enc1 h 0x1E (d ++ 3#2 ++ num)
  | .rdclk h d r => enc1 h 0x1F (d ++ 0#10 ++ r)
  | .vadd h o x => encXV h 0x20 0 o x
  | .vsub h o x => encXV h 0x21 0 o x
  | .vmul h o x => encXV h 0x22 0 o x
  | .vmulh h o x => encXV h 0x23 0 o x
  | .vfma h o x => encXV h 0x24 0 o x
  | .vfms h o x => encXV h 0x24 1 o x
  | .vfnma h o x => encXV h 0x24 2 o x
  | .vmin h o x => encXV h 0x25 0 o x
  | .vmax h o x => encXV h 0x26 0 o x
  | .vabs h o x => encXV h 0x27 0 o x
  | .vneg h o x => encXV h 0x27 1 o x
  | .vnot h o x => encXV h 0x27 2 o x
  | .vmov h o x => encXV h 0x27 3 o x
  | .vclamp h o x => encXV h 0x28 0 o x
  | .vsat h o x => encXV h 0x29 0 o x
  | .vand h o x => encXV h 0x2A 0 o x
  | .vor h o x => encXV h 0x2A 1 o x
  | .vxor h o x => encXV h 0x2A 2 o x
  | .vshl h o x => encXV h 0x2B 0 o x
  | .vshr h o x => encXV h 0x2B 1 o x
  | .vsra h o x => encXV h 0x2B 2 o x
  | .vcmp h cnd o x => encXV h 0x2C ((0#2) ++ cnd) o x
  | .vsel h o x => encXV h 0x2D 0 o x
  | .vbcast h o x => encXV h 0x2E 0 o x
  | .vextr h o x => encXV h 0x2F 0 o x
  | .vins h o x => encXV h 0x30 0 o x
  | .vcvt h o x => encXV h 0x31 0 o x
  | .vsrnd h o x => encXV h 0x32 0 o x
  | .vqnt h o x => encXV h 0x33 0 o x
  | .vdqnt h o x => encXV h 0x34 0 o x
  | .vperm h o x => encXV h 0x35 0 o x
  | .vshuf h fn o x => encXV h 0x36 ((0#2) ++ fn) o x
  | .vrot h o x => encXV h 0x37 0 o x
  | .vcomp h o x => encXV h 0x38 0 o x
  | .vexpd h o x => encXV h 0x39 0 o x
  | .vred h fn o x => encXV h 0x3A ((0#2) ++ fn) o x
  | .vscan h fn o x => encXV h 0x3B ((0#2) ++ fn) o x
  | .vdot h o x => encXV h 0x3C 0 o x
  | .viota h o x => encXV h 0x3D 0 o x
  | .mand h o x => encXV h 0x3E 0 o x
  | .mor h o x => encXV h 0x3E 1 o x
  | .mxor h o x => encXV h 0x3E 2 o x
  | .mnot h o x => encXV h 0x3E 3 o x
  | .mpop h o x => encXV h 0x3F 0 o x
  | .mfirst h o x => encXV h 0x3F 1 o x
  | .vsetvl h o x => encXV h 0x40 0 o x
  | .vrand h o x => encXV h 0x41 0 o x
  | .vsamp h o x => encXV h 0x42 0 o x
  | .defer h fn o x => encXV h 0x43 ((0#3) ++ fn) o x
  | .drain h fn o x => encXV h 0x44 ((0#3) ++ fn) o x
  | .dcount h o x => encXV h 0x45 0 o x
  | .vexp2 h o x => encXV h 0x46 0 o x
  | .vlog2 h o x => encXV h 0x46 1 o x
  | .vrcp h o x => encXV h 0x46 2 o x
  | .vrsq h o x => encXV h 0x46 3 o x
  | .vsin h o x => encXV h 0x46 4 o x
  | .vcos h o x => encXV h 0x46 5 o x
  | .vtanh h o x => encXV h 0x46 6 o x
  | .vsigm h o x => encXV h 0x46 7 o x
  | .verf h o x => encXV h 0x46 8 o x
  | .tap h o src inf t kh kw step =>
    enc2 h 0x47 (a3Bits o) (xrBits ((0#3) ++ bit1 src ++ inf) t kh kw ((0#6) ++ step))
  | .rowinWait h d a => enc2 h 0x48 (d ++ a ++ 0#6) (xrBits 0 0 0 0 0)
  | .rowinRel h a => enc2 h 0x48 ((0#6) ++ a ++ 0#6) (xrBits 1 0 0 0 0)
  | .rowinCnt h d => enc2 h 0x48 (d ++ 0#12) (xrBits 2 0 0 0 0)
  | .rowoutWr h a b => enc2 h 0x49 ((0#6) ++ a ++ b) (xrBits 0 0 0 0 0)
  | .rowoutNext h a b => enc2 h 0x49 ((0#6) ++ a ++ b) (xrBits 1 0 0 0 0)
  | .rowoutSlot h a b => enc2 h 0x49 ((0#6) ++ a ++ b) (xrBits 2 0 0 0 0)
  | .remap h o inf t => enc2 h 0x4A (a3Bits o) (xrBits ((0#4) ++ inf) t 0 0 0)
  | .tileout h a b t ring ch => enc2 h 0x4B ((0#6) ++ a ++ b) (xrBits 0 t 0 0 (ch ++ ring))
  | .mmul h o x => encXM h 0x50 o x
  | .mmuls h o x => encXM h 0x51 o x
  | .msacc h o x => encXM h 0x52 o x
  | .macc h o x => encXM h 0x53 o x
  | .mzero h o x => encXM h 0x54 o x
  | .mrd h o x => encXM h 0x55 o x
  | .mwbl h o x => encXM h 0x56 o x
  | .mwbd h o x => encXM h 0x57 o x
  | .mscl h o x => encXM h 0x58 o x
  | .mchk h o x => encXM h 0x59 o x
  | .mstat h d bank => enc1 h 0x5A (d ++ 0#10 ++ bank)
  | .mfen h o x => encXM h 0x5B o x
  | .ldB h d a off => encMem h 0x60 d a off
  | .ldH h d a off => encMem h 0x61 d a off
  | .ldW h d a off => encMem h 0x62 d a off
  | .ldD h d a off => encMem h 0x63 d a off
  | .stB h d a off => encMem h 0x64 d a off
  | .stH h d a off => encMem h 0x65 d a off
  | .stW h d a off => encMem h 0x66 d a off
  | .stD h d a off => encMem h 0x67 d a off
  | .ldBX h d a off => encMemX h 0x60 d a off
  | .ldHX h d a off => encMemX h 0x61 d a off
  | .ldWX h d a off => encMemX h 0x62 d a off
  | .ldDX h d a off => encMemX h 0x63 d a off
  | .stBX h d a off => encMemX h 0x64 d a off
  | .stHX h d a off => encMemX h 0x65 d a off
  | .stWX h d a off => encMemX h 0x66 d a off
  | .stDX h d a off => encMemX h 0x67 d a off
  | .vld h o x => encXL h 0x68 o x
  | .vst h o x => encXL h 0x69 o x
  | .vldx h o x => encXV h 0x6A 0 o x
  | .vstx h o x => encXV h 0x6B 0 o x
  | .rdq h o x => encXL h 0x6C o x
  | .wrq h d a cnt first => enc1 h 0x6D (d ++ a ++ cnt ++ first)
  | .lblk h o x => encXL h 0x6E o x
  | .lbinv h a => enc1 h 0x6F ((0#6) ++ a ++ 0#6)
  | .lbwb h a => enc1 h 0x6F ((0#6) ++ a ++ 0x10#6)
  | .lbst h d a => enc1 h 0x6F (d ++ a ++ 0x20#6)
  | .rclaim h o x => encXS h 0x70 0 o x
  | .rpub h o x => encXS h 0x70 1 o x
  | .rrel h o x => encXS h 0x70 2 o x
  | .awfill h o x => encXS h 0x71 0 o x
  | .awfree h o x => encXS h 0x71 1 o x
  | .awrow h o x => encXS h 0x71 2 o x
  | .awwin h o x => encXS h 0x71 3 o x
  | .awcmp h cnd o x =>
    encXS h 0x71 (match cnd with | .eq => 4 | .ne => 5 | .ge => 6) o x
  | .phase h lev => enc1 h 0x72 ((0#16) ++ lev)
  | .pset h eng wr idx a b => enc1 h 0x73 (eng ++ bit1 wr ++ idx ++ a ++ b)
  | .fence h scope v => enc1 h 0x74 ((0#13) ++ scope ++ v)
  | .brmw h o x => enc2 h 0x75 (a3Bits o) (xbBits x)
  | .monwait h a => enc1 h 0x76 ((0#6) ++ a ++ 0#6)
  | .push h o x => encXM h 0x78 o x
  | .pop h d pm => enc1 h 0x79 (d ++ 0#11 ++ bit1 pm)
  | .dact h q row => encDram h 0 q 0 ((0#10) ++ row)
  | .drd h q col addr => encDram h 1 q (col ++ 0#1) ((0#5) ++ addr)
  | .drdWb h q col core off => encDram h 1 q (col ++ 1#1) ((0#8) ++ core ++ off)
  | .dwr h q col wb addr => encDram h 2 q (col ++ bit1 wb) ((0#5) ++ addr)
  | .dpre h q => encDram h 3 q 0 0
  | .dprea h qs sc => encDram h 4 ⟨qs, sc, 0⟩ 0 0
  | .dref h q => encDram h 5 q 0 0
  | .dmrw h qs sc mr val => encDram h 6 ⟨qs, sc, 0⟩ 0 ((0#12) ++ mr ++ val)
  | .dmrr h qs sc mr => encDram h 7 ⟨qs, sc, 0⟩ 0 ((0#12) ++ mr ++ 0#8)
  | .dzq h qs sc op => encDram h 8 ⟨qs, sc, 0⟩ 0 ((0#26) ++ op)
  | .didle h n => encDram h 9 ⟨0, false, 0⟩ 0 ((0#10) ++ n)
  | .dsync h n => encDram h 10 ⟨0, false, 0⟩ 0 ((0#20) ++ n)
  | .trap h code => enc1 h 0x7C ((0#3) ++ code)
  | .eret h => enc1 h 0x7C ((1#3) ++ 0#15)
  | .halt h => enc1 h 0x7C ((2#3) ++ 0#15)
  | .dbg h code => enc1 h 0x7C ((3#3) ++ code)
  | .safept h bnd => enc1 h 0x7D ((0#2) ++ bnd)
  | .bbmark h a code => enc1 h 0x7E (a ++ code)
  | _ => []

/-! ### Checks 1 to 3 -/

/-- Check 1: the reserved majors (06: R160). -/
def reservedMajor (op : Nat) : Bool :=
  (0x4C ≤ op && op ≤ 0x4F) || (0x5C ≤ op && op ≤ 0x5F) || op = 0x77 || op = 0x7B || op = 0x7F

/-- Check 2: the profile of the issuing sequencer, and the sequencer its entry names (06: R163; 08: R201;
09: R241; 18: R428, R431). `fn` is bits [17:15] of word 0, the function of major 0x7C. -/
def inProfile (k : SeqKind) (op fn : Nat) : Bool :=
  match k with
  | .tile q =>
    (op ≤ 0x46 || (0x50 ≤ op && op ≤ 0x76) || op = 0x78 || op = 0x79 || op = 0x7C || op = 0x7D || op = 0x7E)
      && (q = .c || !((0x20 ≤ op && op ≤ 0x46) || (0x50 ≤ op && op ≤ 0x5B)))
      && (q = .k || !(op = 0x72 || op = 0x7D || (op = 0x7C && fn = 1)))
  | .lbp =>
    (op ≤ 0x4B && !(0x41 ≤ op && op ≤ 0x45)) || (op = 0x7C && fn = 2)
  | .dcs => op = 0x00 || op = 0x7A || (op = 0x7C && fn = 2)
  | .mgmt =>
    (op ≤ 0x1F || (0x60 ≤ op && op ≤ 0x67) || op = 0x74 || op = 0x76 || op = 0x7C || op = 0x7E)
      && !(op = 0x7C && fn = 1)

/-- How many words a major has (06: R160, column Words). -/
inductive Words where
  | one | two | either
  deriving DecidableEq, Repr

def wordsOf (op : Nat) : Words :=
  if op = 0x0E || (0x60 ≤ op && op ≤ 0x67) then .either
  else if op = 0x0F || op = 0x11 || op = 0x15 || op = 0x16 || op = 0x19 || (0x20 ≤ op && op ≤ 0x4B)
      || (0x50 ≤ op && op ≤ 0x59) || op = 0x5B || (0x68 ≤ op && op ≤ 0x6C) || op = 0x6E || op = 0x70
      || op = 0x71 || op = 0x75 || op = 0x78 || op = 0x7A then .two
  else .one

def wordsAgree (op : Nat) (x : Bool) : Bool :=
  match wordsOf op with
  | .one => !x
  | .two => x
  | .either => true

/-! ### Check 4 and the building of the instruction -/

/-- An instruction read from its words, with the bits of each word that its layout marks zero and that the
instruction does not carry: for word 0 with the field number that DETAIL names. -/
structure Built where
  i : Instr
  z0 : List (W32 × Nat)
  z1 : W32
  deriving Repr

def plain (i : Instr) : Option Built := some ⟨i, [], 0⟩
def zero0 (i : Instr) (m : W32) (no : Nat) : Option Built := some ⟨i, [(m, no)], 0⟩
def zero1 (i : Instr) (m : W32) : Option Built := some ⟨i, [], m⟩

/-- Major 0x11 by FN (06: R162). -/
def buildXF (w0 w1 : W32) : Option Built :=
  let h := hdrOf w0
  let o := a3Of w0
  let c : Code := fld w1 16 6
  let p : B6 := fld w1 10 6
  let w : B6 := fld w1 4 6
  let two (i : Instr) : Option Built := zero1 i 0x003FFFFF
  let one (i : Instr) : Option Built := some ⟨i, [(0x3F, 2)], 0x003FFFFF⟩
  match (fld w1 22 6 : B6).toNat with
  | 0x00 => two (.mul h o) | 0x01 => two (.mulh h o) | 0x02 => two (.mulhu h o)
  | 0x03 => two (.div h o) | 0x04 => two (.divu h o) | 0x05 => two (.rem h o) | 0x06 => two (.remu h o)
  | 0x08 => two (.min h o) | 0x09 => two (.max h o) | 0x0A => two (.minu h o) | 0x0B => two (.maxu h o)
  | 0x10 => one (.clz h o.d o.a) | 0x11 => one (.ctz h o.d o.a) | 0x12 => one (.popc h o.d o.a)
  | 0x14 => some ⟨.bext h o.d o.a p w, [(0x3F, 2)], 0x003F000F⟩
  | 0x15 => zero1 (.bins h o p w) 0x003F000F
  | 0x18 => two (.seq h o) | 0x19 => two (.sne h o) | 0x1A => two (.slt h o) | 0x1B => two (.sltu h o)
  | 0x1C => zero1 (.sel h o c) 0x0000FFFF
  | _ => none

/-- The majors with layout XV, by FN where they share one (06: R160, R162). A major without FN has its FN
bits among the zero bits of the extension. -/
def buildXV (op : Nat) (w0 w1 : W32) : Option Built :=
  let h := hdrOf w0
  let o := a3Of w0
  let x := xvOfWord w1
  let fn := (fld w1 23 5 : BitVec 5).toNat
  let f3 : B3 := fld w1 23 3
  let noFn (i : Instr) : Option Built := zero1 i 0x0F800000
  match op with
  | 0x20 => noFn (.vadd h o x) | 0x21 => noFn (.vsub h o x) | 0x22 => noFn (.vmul h o x)
  | 0x23 => noFn (.vmulh h o x)
  | 0x24 => match fn with
    | 0 => plain (.vfma h o x) | 1 => plain (.vfms h o x) | 2 => plain (.vfnma h o x) | _ => none
  | 0x25 => noFn (.vmin h o x) | 0x26 => noFn (.vmax h o x)
  | 0x27 => match fn with
    | 0 => plain (.vabs h o x) | 1 => plain (.vneg h o x) | 2 => plain (.vnot h o x)
    | 3 => plain (.vmov h o x) | _ => none
  | 0x28 => noFn (.vclamp h o x) | 0x29 => noFn (.vsat h o x)
  | 0x2A => match fn with
    | 0 => plain (.vand h o x) | 1 => plain (.vor h o x) | 2 => plain (.vxor h o x) | _ => none
  | 0x2B => match fn with
    | 0 => plain (.vshl h o x) | 1 => plain (.vshr h o x) | 2 => plain (.vsra h o x) | _ => none
  | 0x2C => if fn ≤ 5 then plain (.vcmp h f3 o x) else none
  | 0x2D => noFn (.vsel h o x) | 0x2E => noFn (.vbcast h o x) | 0x2F => noFn (.vextr h o x)
  | 0x30 => noFn (.vins h o x) | 0x31 => noFn (.vcvt h o x) | 0x32 => noFn (.vsrnd h o x)
  | 0x33 => noFn (.vqnt h o x) | 0x34 => noFn (.vdqnt h o x) | 0x35 => noFn (.vperm h o x)
  | 0x36 => if fn ≤ 4 then plain (.vshuf h f3 o x) else none
  | 0x37 => noFn (.vrot h o x) | 0x38 => noFn (.vcomp h o x) | 0x39 => noFn (.vexpd h o x)
  | 0x3A => if fn ≤ 5 then plain (.vred h f3 o x) else none
  | 0x3B => if fn ≤ 5 then plain (.vscan h f3 o x) else none
  | 0x3C => noFn (.vdot h o x) | 0x3D => noFn (.viota h o x)
  | 0x3E => match fn with
    | 0 => plain (.mand h o x) | 1 => plain (.mor h o x) | 2 => plain (.mxor h o x)
    | 3 => plain (.mnot h o x) | _ => none
  | 0x3F => match fn with
    | 0 => plain (.mpop h o x) | 1 => plain (.mfirst h o x) | _ => none
  | 0x40 => noFn (.vsetvl h o x) | 0x41 => noFn (.vrand h o x) | 0x42 => noFn (.vsamp h o x)
  | 0x43 => if fn ≤ 3 then plain (.defer h (fld w1 23 2) o x) else none
  | 0x44 => if fn ≤ 3 then plain (.drain h (fld w1 23 2) o x) else none
  | 0x45 => noFn (.dcount h o x)
  | 0x46 => match fn with
    | 0 => plain (.vexp2 h o x) | 1 => plain (.vlog2 h o x) | 2 => plain (.vrcp h o x)
    | 3 => plain (.vrsq h o x) | 4 => plain (.vsin h o x) | 5 => plain (.vcos h o x)
    | 6 => plain (.vtanh h o x) | 7 => plain (.vsigm h o x) | 8 => plain (.verf h o x) | _ => none
  | 0x6A => noFn (.vldx h o x) | 0x6B => noFn (.vstx h o x)
  | _ => none

/-- The row-profile majors (12: R333). -/
def buildXR (op : Nat) (w0 w1 : W32) : Option Built :=
  let h := hdrOf w0
  let o := a3Of w0
  let fn := (fld w1 22 6 : B6).toNat
  match op with
  | 0x47 => zero1 (.tap h o (w1.getLsbD 24) (fld w1 22 2) (fld w1 18 4) (fld w1 15 3) (fld w1 12 3)
      (fld w1 0 6)) 0x0E000FC0
  | 0x48 => match fn with
    | 0 => some ⟨.rowinWait h o.d o.a, [(0x3F, 2)], 0x003FFFFF⟩
    | 1 => some ⟨.rowinRel h o.a, [(0x3F000, 0), (0x3F, 2)], 0x003FFFFF⟩
    | 2 => some ⟨.rowinCnt h o.d, [(0xFC0, 1), (0x3F, 2)], 0x003FFFFF⟩
    | _ => none
  | 0x49 => match fn with
    | 0 => some ⟨.rowoutWr h o.a o.b, [(0x3F000, 0)], 0x003FFFFF⟩
    | 1 => some ⟨.rowoutNext h o.a o.b, [(0x3F000, 0)], 0x003FFFFF⟩
    | 2 => some ⟨.rowoutSlot h o.a o.b, [(0x3F000, 0)], 0x003FFFFF⟩
    | _ => none
  | 0x4A => zero1 (.remap h o (fld w1 22 2) (fld w1 18 4)) 0x0F03FFFF
  | 0x4B => some ⟨.tileout h o.a o.b (fld w1 18 4) (fld w1 0 8) (fld w1 8 4), [(0x3F000, 0)], 0x0FC3F000⟩
  | _ => none

/-- Major 0x7A by FN (06: R164; 11: R303). -/
def buildDram (w0 w1 : W32) : Option Built :=
  let h := hdrOf w0
  let q := dqOf w0
  let col : B6 := fld w0 1 6
  let row (i : Instr) (m0 m1 : W32) : Option Built := some ⟨i, [(0xF0000000#32 ||| m0, 8)], m1⟩
  match (fld w0 14 4 : B4).toNat with
  | 0 => row (.dact h q (fld w1 0 18)) 0x7F 0x0FFC0000
  | 1 => if w0.getLsbD 0 then row (.drdWb h q col (fld w1 14 6) (fld w1 0 14)) 0 0x0FF00000
         else row (.drd h q col (fld w1 0 23)) 0 0x0F800000
  | 2 => row (.dwr h q col (w0.getLsbD 0) (fld w1 0 23)) 0 (if w0.getLsbD 0 then 0x0FF00000 else 0x0F800000)
  | 3 => row (.dpre h q) 0x7F 0x0FFFFFFF
  | 4 => row (.dprea h q.qs q.sc) 0x7FF 0x0FFFFFFF
  | 5 => row (.dref h q) 0x7F 0x0FFFFFFF
  | 6 => row (.dmrw h q.qs q.sc (fld w1 8 8) (fld w1 0 8)) 0x7FF 0x0FFF0000
  | 7 => row (.dmrr h q.qs q.sc (fld w1 8 8)) 0x7FF 0x0FFF00FF
  | 8 => row (.dzq h q.qs q.sc (fld w1 0 2)) 0x7FF 0x0FFFFFFC
  | 9 => row (.didle h (fld w1 0 18)) 0x3FFF 0x0FFC0000
  | 10 => row (.dsync h (fld w1 0 8)) 0x3FFF 0x0FFFFF00
  | _ => none

/-- The loads and stores (06: R160; 10: R264). -/
def buildMem (op : Nat) (w0 w1 : W32) : Option Built :=
  let h := hdrOf w0
  let o := a3Of w0
  let x : B28 := fld w1 0 28
  if w0.getLsbD 25 then
    let two (i : Instr) : Option Built := zero0 i 0x3F 2
    match op with
    | 0x60 => two (.ldBX h o.d o.a x) | 0x61 => two (.ldHX h o.d o.a x)
    | 0x62 => two (.ldWX h o.d o.a x) | 0x63 => two (.ldDX h o.d o.a x)
    | 0x64 => two (.stBX h o.d o.a x) | 0x65 => two (.stHX h o.d o.a x)
    | 0x66 => two (.stWX h o.d o.a x) | 0x67 => two (.stDX h o.d o.a x)
    | _ => none
  else
    match op with
    | 0x60 => plain (.ldB h o.d o.a o.b) | 0x61 => plain (.ldH h o.d o.a o.b)
    | 0x62 => plain (.ldW h o.d o.a o.b) | 0x63 => plain (.ldD h o.d o.a o.b)
    | 0x64 => plain (.stB h o.d o.a o.b) | 0x65 => plain (.stH h o.d o.a o.b)
    | 0x66 => plain (.stW h o.d o.a o.b) | 0x67 => plain (.stD h o.d o.a o.b)
    | _ => none

/-- The matrix and copy commands (09: R245; 10: R280). -/
def buildXM (op : Nat) (w0 w1 : W32) : Option Built :=
  let h := hdrOf w0
  let o := a3Of w0
  let x := xmOfWord w1
  match op with
  | 0x50 => plain (.mmul h o x) | 0x51 => plain (.mmuls h o x) | 0x52 => plain (.msacc h o x)
  | 0x53 => plain (.macc h o x) | 0x54 => plain (.mzero h o x) | 0x55 => plain (.mrd h o x)
  | 0x56 => plain (.mwbl h o x) | 0x57 => plain (.mwbd h o x) | 0x58 => plain (.mscl h o x)
  | 0x59 => plain (.mchk h o x) | 0x5B => plain (.mfen h o x) | 0x78 => plain (.push h o x)
  | _ => none

/-- Rings and awaits by FN (06: R162). -/
def buildXS (op : Nat) (w0 w1 : W32) : Option Built :=
  let h := hdrOf w0
  let o := a3Of w0
  let x := xsOfWord w1
  match op, (fld w1 8 4 : B4).toNat with
  | 0x70, 0 => plain (.rclaim h o x)
  | 0x70, 1 => plain (.rpub h o x)
  | 0x70, 2 => plain (.rrel h o x)
  | 0x71, 0 => plain (.awfill h o x)
  | 0x71, 1 => plain (.awfree h o x)
  | 0x71, 2 => plain (.awrow h o x)
  | 0x71, 3 => plain (.awwin h o x)
  | 0x71, 4 => plain (.awcmp h .eq o x)
  | 0x71, 5 => plain (.awcmp h .ne o x)
  | 0x71, 6 => plain (.awcmp h .ge o x)
  | _, _ => none

/-- Every other major (06: R160). -/
def buildRest (op : Nat) (w0 w1 : W32) : Option Built :=
  let h := hdrOf w0
  let o := a3Of w0
  let imm : B12 := fld w0 0 12
  let f18 : B18 := fld w0 0 18
  let x28 : B28 := fld w1 0 28
  let lev : B3 := fld w0 15 3
  match op with
  | 0x00 => zero0 (.nop h) 0x3FFFF 8
  | 0x01 => plain (.add h o) | 0x02 => plain (.sub h o) | 0x03 => plain (.and h o)
  | 0x04 => plain (.or h o) | 0x05 => plain (.xor h o) | 0x06 => plain (.shl h o)
  | 0x07 => plain (.shr h o) | 0x08 => plain (.sra h o)
  | 0x09 => plain (.addi h o.d imm) | 0x0A => plain (.andi h o.d imm)
  | 0x0B => plain (.ori h o.d imm) | 0x0C => plain (.xori h o.d imm)
  | 0x0D => match (fld w0 6 2 : B2).toNat with
    | 0 => zero0 (.shli h o.d o.b) 0xF00 8
    | 1 => zero0 (.shri h o.d o.b) 0xF00 8
    | 2 => zero0 (.srai h o.d o.b) 0xF00 8
    | _ => none
  | 0x0E => if w0.getLsbD 25 then plain (.limX h o.d imm x28) else plain (.lim h o.d imm)
  | 0x0F => zero1 (.lih h o.d imm (fld w1 0 12)) 0x0FFFF000
  | 0x10 => zero0 (.mov h o.d o.a) 0x3F 2
  | 0x12 => plain (.br h f18)
  | 0x13 => plain (.bz h o.d imm) | 0x14 => plain (.bnz h o.d imm)
  | 0x15 => match (fld w0 4 2 : B2).toNat with
    | 0 => zero0 (.blt h o.d o.a x28) 0xF 8
    | 1 => zero0 (.bge h o.d o.a x28) 0xF 8
    | 2 => zero0 (.bltu h o.d o.a x28) 0xF 8
    | _ => zero0 (.bgeu h o.d o.a x28) 0xF 8
  | 0x16 => if (fld w0 10 2 : B2) = 0 then zero0 (.bqs h o.d (fld w0 8 2) x28) 0xFF 8 else none
  | 0x17 => plain (.jal h f18)
  | 0x18 => some ⟨.jr h o.a, [(0x3F000, 0), (0x3F, 2)], 0⟩
  | 0x19 => zero1 (.loop h lev (fld w0 12 3) o.a o.b (fld w1 0 16)) 0x0FFF0000
  | 0x1A => if w0.getLsbD 14 then zero0 (.lbrkD h lev) 0x3FFF 8 else zero0 (.lbrkC h lev) 0x3FFF 8
  | 0x1B => if w0.getLsbD 14 then zero0 (.qualL h lev) 0x3FFF 8 else zero0 (.qualF h lev) 0x3FFF 8
  | 0x1C => plain (.idle h f18)
  | 0x1D => if w0.getLsbD 11 then zero0 (.spst h o.d (fld w0 0 10)) 0x400 8
            else zero0 (.spld h o.d (fld w0 0 10)) 0x400 8
  | 0x1E => match (fld w0 10 2 : B2).toNat with
    | 0 => plain (.csrr h o.d (fld w0 0 10)) | 1 => plain (.csrw h o.d (fld w0 0 10))
    | 2 => plain (.csrs h o.d (fld w0 0 10)) | _ => plain (.csrc h o.d (fld w0 0 10))
  | 0x1F => if (fld w0 0 2 : B2) = 3 then none else zero0 (.rdclk h o.d (fld w0 0 2)) 0xFFC 8
  | 0x5A => zero0 (.mstat h o.d (fld w0 0 2)) 0xFFC 8
  | 0x68 => plain (.vld h o (xlOfWord w1)) | 0x69 => plain (.vst h o (xlOfWord w1))
  | 0x6C => plain (.rdq h o (xlOfWord w1)) | 0x6E => plain (.lblk h o (xlOfWord w1))
  | 0x6D => plain (.wrq h o.d o.a (fld w0 3 3) (fld w0 0 3))
  | 0x6F => match (fld w0 4 2 : B2).toNat with
    | 0 => some ⟨.lbinv h o.a, [(0x3F000, 0), (0xF, 8)], 0⟩
    | 1 => some ⟨.lbwb h o.a, [(0x3F000, 0), (0xF, 8)], 0⟩
    | 2 => zero0 (.lbst h o.d o.a) 0xF 8
    | _ => none
  | 0x72 => zero0 (.phase h (fld w0 0 2)) 0x3FFFC 8
  | 0x73 => plain (.pset h (fld w0 16 2) (w0.getLsbD 15) (fld w0 12 3) o.a o.b)
  | 0x74 => if 4 < (fld w0 2 3 : B3).toNat || (fld w0 0 2 : B2) = 0 then none
            else zero0 (.fence h (fld w0 2 3) (fld w0 0 2)) 0x3FFE0 8
  | 0x75 =>
    let x := xbOfWord w1
    if 6 < x.op.toNat || x.w.toNat < 2 then none else zero1 (.brmw h o x) 0x00007FFF
  | 0x76 => some ⟨.monwait h o.a, [(0x3F000, 0), (0x3F, 2)], 0⟩
  | 0x79 => zero0 (.pop h o.d (w0.getLsbD 0)) 0xFFE 8
  | 0x7C => match lev.toNat with
    | 0 => plain (.trap h (fld w0 0 15))
    | 1 => zero0 (.eret h) 0x7FFF 8
    | 2 => zero0 (.halt h) 0x7FFF 8
    | 3 => plain (.dbg h (fld w0 0 15))
    | _ => none
  | 0x7D => zero0 (.safept h (fld w0 0 16)) 0x30000 8
  | 0x7E => plain (.bbmark h o.d imm)
  | _ => none

/-- Check 4: none when a function, condition, variant or sub-operation code is reserved. -/
def build (w0 w1 : W32) : Option Built :=
  let op := (opOf w0).toNat
  if op = 0x11 then buildXF w0 w1
  else if (0x20 ≤ op && op ≤ 0x46) || op = 0x6A || op = 0x6B then buildXV op w0 w1
  else if 0x47 ≤ op && op ≤ 0x4B then buildXR op w0 w1
  else if (0x50 ≤ op && op ≤ 0x59) || op = 0x5B || op = 0x78 then buildXM op w0 w1
  else if 0x60 ≤ op && op ≤ 0x67 then buildMem op w0 w1
  else if op = 0x70 || op = 0x71 then buildXS op w0 w1
  else if op = 0x7A then buildDram w0 w1
  else buildRest op w0 w1

/-! ### All the checks -/

/-- The zero bits of word 0 that the instruction does not carry (check 7): the lowest field number that has
a nonzero bit. -/
def zeroBits0 (w0 : W32) (z : List (W32 × Nat)) : Option Reject :=
  (z.find? fun p => w0 &&& p.1 ≠ 0).map fun p => ⟨.illegalOperand, 0x0400#16 + BitVec.ofNat 16 p.2⟩

/-- Check 7 takes the lowest field number that the two parts of the check find. -/
def least7 (a b : Option Reject) : Option Reject :=
  match a, b with
  | some x, some y => some (if x.detail.toNat ≤ y.detail.toNat then x else y)
  | some x, none => some x
  | none, y => y

/-- Checks 5 to 11 on an instruction that has been built. -/
def checkBuilt (k : SeqKind) (die : Nat) (timed : Bool) (w0 w1 : W32) (b : Built) : Option Reject :=
  let two := w0.getLsbD 25
  if two && (fld w1 28 4 : B4) ≠ 0 then some ⟨.illegalExt, 0x0001⟩
  else if two && (w1 &&& b.z1) ≠ 0 then some ⟨.illegalExt, 0x0002⟩
  else
    Machine.firstSome id
      [Machine.check6 timed b.i, least7 (zeroBits0 w0 b.z0) (Machine.check7 timed b.i), Machine.check8 k b.i,
       Machine.check9 b.i, Machine.check10 b.i, Machine.check11 k die timed b.i]

/-- Checks 1 to 11 of R428, in their order (18: R428): the instruction, or the first check that fails. -/
def decode (k : SeqKind) (die : Nat) (timed : Bool) (w0 w1 : W32) : Except Reject Instr :=
  let op := (opOf w0).toNat
  if reservedMajor op then .error ⟨.illegalOp, 0x0001⟩
  else if !inProfile k op (fld w0 15 3 : B3).toNat then .error ⟨.illegalOp, 0x0003⟩
  else if !wordsAgree op (w0.getLsbD 25) then .error ⟨.illegalOp, 0x0004⟩
  else match build w0 w1 with
    | none => .error ⟨.illegalOp, 0x0002⟩
    | some b => match checkBuilt k die timed w0 w1 b with
      | some r => .error r
      | none => .ok b.i

/-- The length in words that X gives (06: R153). -/
def wordCount (w0 : W32) : Nat := if w0.getLsbD 25 then 2 else 1

/-! ### The bytes of words, and the host's question about one table row -/

/-- A word's four bytes, least significant first (00: R3). -/
def wordBytes (w : W32) : Bytes := [fld w 0 8, fld w 8 8, fld w 16 8, fld w 24 8]

/-- The word that four bytes hold. -/
def bytesWord (b0 b1 b2 b3 : Byte) : W32 := b3 ++ b2 ++ b1 ++ b0

/-- The sequencer kinds and modes in which `decodeTableWord` tries a word, in this order. -/
def tableContexts : List (SeqKind × Bool) :=
  [(.tile .k, false), (.tile .c, false), (.tile .k, true), (.tile .c, true), (.lbp, false), (.dcs, true),
   (.mgmt, false)]

def firstOk (w0 w1 : W32) : List (SeqKind × Bool) → Option Instr
  | [] => none
  | (k, timed) :: cs => match decode k 0 timed w0 w1 with
    | .ok i => some i
    | .error _ => firstOk w0 w1 cs

/-- What the decoder reads from an instruction whose bits are w, bit 0 the least significant bit of word 0
and bit 32 that of the extension word, in the first sequencer kind whose profile has it. -/
def decodeTableWord (_nbits w : Nat) : Option Instr :=
  firstOk (BitVec.ofNat 32 w) (BitVec.ofNat 32 (w / 2 ^ 32)) tableContexts

end Sys2Proof
end

