-- ==== Sys2Proof/Machine/State.lean ====
section
/-! DEFINITION. The state of the M9: every register, memory, queue, table and work in progress that the spec
gives the device, as plain data; the faults and refusals; the state after device reset. -/

namespace Sys2Proof.Machine

/-! ### Sequencers -/

/-- One level of a loop engine (07: R185). `ord` orders activations. -/
structure LoopLev where
  act : Bool := false
  n : Nat := 0
  trip : Nat := 0
  start : Nat := 0
  fin : Nat := 0
  pairs : List (BitVec 5 × BitVec 56) := []
  ord : Nat := 0
  deriving DecidableEq, Repr

/-- A segment of a stream: the byte offset of its first instruction, its mode and t0 (06: R173, R174). -/
structure Seg where
  start : Nat
  timed : Bool
  t0 : Nat
  deriving DecidableEq, Repr

/-- A sequencer parked on a 64-byte sector until `upTo` (02: R68; 10: R279). -/
structure Park where
  sector : Nat
  upTo : Nat
  deriving DecidableEq, Repr

/-- A load issued in tokened code: its number, its offset in the stream, its address, and its value once it has landed. -/
structure SpinLoad where
  id : Nat
  pc : Nat
  addr : Nat
  v : Option DWord := none
  deriving DecidableEq, Repr

/-- The last backward branch taken, the registers then, and the loads of the trip of the loop before it (02: R68). -/
structure Spin where
  pc : Nat
  regs : SMap DWord
  loads : List SpinLoad
  deriving DecidableEq, Repr

/-- A FENCE issued and not yet complete (04: R115): its number, its scope and its variant. -/
structure Fence where
  id : Nat
  scope : Nat
  v : Nat
  deriving DecidableEq, Repr

/-- Who made an access or a command: the sequencer, and the instruction it came from (18: R432). -/
structure Origin where
  q : SeqId
  pc : Nat
  w0 : W32
  timed : Bool
  at_ : Nat                       -- and the cycle in which that issued
  deriving DecidableEq, Repr

/-- A load's finding that is not decided (17: R421): the sector, the load and the writer. -/
structure RaceCand where
  sec : Nat
  org : Origin
  w : Nat
  deriving DecidableEq, Repr

/-- How a sequencer stands in the cycle, where what others of its core issue in it may decide whether it issues: not looked at,
kept until they have issued (for a full token queue that its nibble signals alone, with that nibble), or looked at again
with the signal granted, or with nothing more to come of the others (02: R33; 03: R77; 10: R281). -/
inductive Turn where
  | free
  | kept (h : Option Hdr)
  | granted
  | denied
  deriving DecidableEq, Repr

/-- One sequencer: of a tile core (02: R31), an LBP (12: R329), a DCS (11: R299) or the management
controller (13: R346). A token queue lists its tokens; each carries, by sequencer of the core, the number of
the last access that the signaller's later consumer must follow (04: R110) and, from key 1,000 on, the signaller's
`clock` (16: R403). -/
structure Seqr where
  run : Bool := false                -- it has a stream and has not issued its final HALT
  pc : Nat := 0                      -- byte offset of the next instruction
  regs : SMap DWord := []            -- s0-s31 at 0-31, i0-i5 at 32-37, LR at 38
  loops : SMap LoopLev := []
  spill : Mem := []
  spillEcc : SMap Bool := []         -- uncorrectable doublewords of it (18: R434)
  tokP : List (SMap Nat) := []
  tokN : List (SMap Nat) := []
  csr : SMap DWord := []             -- the CSRs this sequencer owns, by number (07: R194)
  base : Nat := 0                    -- address of the stream's first word
  len : Nat := 0                     -- length of the stream in bytes
  segs : List Seg := []
  nextAt : Nat := 0                  -- first cycle in which the next instruction may issue
  blocked : Bool := false            -- found in this cycle that its instruction cannot issue yet
  turn : Turn := .free               -- and whether what others of its core issue in this cycle may still let it
  qual : Option Bool := none         -- a QUAL governs the next instruction: whether it is executed
  park : Option Park := none
  spin : Option Spin := none
  loads : List SpinLoad := []        -- the last loads issued since the last backward branch
  after : SMap Nat := []             -- by sequencer: later accesses follow its accesses up to here (04: R110)
  seen : List Nat := []              -- writes that an earlier load may have returned (04: R115)
  fences : List Fence := []
  lastAcc : Nat := 0                 -- the number of its last access
  syncs : Nat := 0                   -- acquires made: its synchronisation interval (16: R403)
  clock : SMap Nat := []             -- by writing agent, the number up to which an observed release covers its writes
  cand : Option RaceCand := none     -- an undecided load finding (17: R421)
  wait0 : Option Nat := none         -- wall cycle in which a tokened AWCMP was first evaluated false (17: R408)
  missed : Option Nat := none        -- a timed segment whose first cycle it has missed (17: R406)
  deriving DecidableEq, Repr

/-! ### Queues of a core -/

/-- An operand-queue or mq entry: one chunk and its poison word (03: R74). -/
structure QEntry where
  data : Mem := []
  poison : W32 := 0
  deriving DecidableEq, Repr

/-- A completion word (10: R294), where its copy goes (R295), and the number of the CE command that it completes, 0 of an ME
command. -/
structure CqWord where
  word : BitVec 128
  cwa : Nat := 0
  cmd : Nat := 0
  deriving DecidableEq, Repr

/-- A directory entry of the L1D (03: R81). -/
structure L1Ent where
  valid : Bool := false
  flag : Bool := false
  anyd : Bool := false
  nm1 : Nat := 0
  line : Nat := 0
  base : Nat := 0          -- device address of the first line
  no : Nat := 0            -- the number of the fill that made it: the model's own
  deriving DecidableEq, Repr

/-- What a memory access does when it performs. -/
inductive MemOp where
  | load (d : Code) (a w : Nat)                       -- scalar load of w bytes
  | store (cells : List (Nat × Byte))                 -- bytes to device addresses
  | scatter (els : List (Nat × Bytes))                -- elements to device addresses, each an access of its own
  | vload (v k : Nat) (runs : List (Nat × Nat × Nat)) -- chunk k of v: (address, offset, length) runs
  | vgather (v k : Nat) (els : List (Nat × Nat × Nat)) (zero : List Nat)
  | qload (qn : Nat) (runs : List (Nat × Nat × Nat))
  | tag (hdr exp n : Nat)                             -- header compare for the next n accesses (10: R269)
  | rmw (d : Code) (a w op : Nat) (u : Bool) (y z : DWord)
  | rmwWrite (cells : List (Nat × Byte))
  | held (a w : Nat)                                  -- the bank of a BRMW that read an uncorrectable word (18: R439)
  | ring (fn rn n : Nat) (d : Code)
  deriving DecidableEq, Repr

/-- What lands in a core at the end of a cycle, or is done in it. -/
inductive Eff where
  | reg (q : SeqId) (d : Code) (v : DWord)
  | regAdd (q : SeqId) (t : BitVec 5) (v : DWord)     -- a stride (07: R187)
  | vrf (cells : List (Nat × Byte))
  | vrfRun (lo : Nat) (bs : Bytes)
  | vrfBits (lo n clear set : Nat)                    -- the n bytes at lo ← them ∧ ¬clear ∨ set
  | mrd (lo : Nat) (bs : Bytes)                       -- a readout, which prevails over VE results (09: R240)
  | mask (m : Nat) (clear set : Nat)                  -- m ← m ∧ ¬clear ∨ set
  | push (qn : Nat) (e : QEntry)
  | pushTo (qn : Nat) (e : QEntry)                    -- sent to the partner core of qn (03: R75)
  | csr (q : SeqId) (num : Nat) (v : DWord)           -- a CSR instruction's write
  | csrAdd (q : SeqId) (num : Nat)                    -- a hardware count (07: R195)
  | csrOr (q : SeqId) (num : Nat) (v : DWord)         -- a hardware set
  | tokP (q : SeqId) (upTo : SMap Nat)
  | tokN (q : SeqId) (upTo : SMap Nat)
  | dq (recs : List (BitVec 128))
  | perform (m : MemOp)                               -- a timed access performs
  | vstChunk (v k : Nat) (runs : List (Nat × Nat × Nat)) (at_ : Nat) -- read chunk k of v, write at cycle at_
  | vscatter (v k : Nat) (els : List (Nat × Nat × Nat)) (at_ : Nat)
  | wrqChunk (qn v k : Nat)                           -- read a chunk and push it (10: R268)
  | qpop (c : Code) (n : Nat) (again : Bool) (push : Option Nat) -- the queue that code c names is popped (06: R157)
  | l1Set (e : Nat) (x : L1Ent)                       -- steps 1 and 2 of LBLK (03: R82)
  | l1Inv (e : Nat)                                   -- LBINV (10: R271)
  | l1Fill (no e line addr n : Nat) (last : Bool)     -- a line pair of LBLK (10: R270)
  | l1Back (e line addr n : Nat) (last : Bool)        -- a line pair of LBWB (10: R271)
  | cqPop (q : SeqId) (d : Code) (nr : Bool)          -- POP (10: R281)
  | orb (lo : Nat) (bs : Bytes)                       -- ROWOUT.WR: bytes of the output row buffer (12: R338)
  deriving DecidableEq, Repr

/-- Work of a core that is due at a cycle of schedule time. `id` orders landings by issue. -/
structure Landing where
  due : Nat
  id : Nat
  org : Origin
  eff : Eff
  after : SMap Nat := []           -- by sequencer: accesses that it follows, as a `UReq` has them (04: R110)
  deriving DecidableEq, Repr

/-- A vector instruction in flight (08: R205): its operands are read chunk by chunk into `snap`, by field
number; `n` lanes, `nch` chunks, the draw counter taken at issue and the scalars read at issue. -/
structure VOp where
  id : Nat
  c : Nat
  i : Instr
  org : Origin
  n : Nat
  nch : Nat
  draw : Nat                    -- the draw counter taken at issue, or the records that a DRAIN popped
  s1 : DWord                    -- s(a), or FTV, or the records that a DEFER has room for
  s2 : DWord                    -- s(b)
  key : List W32                -- the key and the identity of its draws at issue (05: R147)
  ident : Nat
  due : Nat := 0                -- the cycle at whose end its scalar result lands
  snap : SMap Nat := []         -- each operand as read so far, as one number
  poison : SMap Nat := []       -- by field number, the poison bits of popped entries, one for 32 bytes
  mask : Nat := 0               -- bit j: lane j is active
  drop : List Nat := []         -- registers whose group was gated at issue: writes are discarded
  popped : Bool := false        -- it has popped mq or nq
  dead : Option Nat := none     -- the chunk that a fault of timed code stopped it at
  cut : Option Nat := none      -- the chunk of its result that a mismatch stopped it at (18: R433)
  noPush : Bool := false        -- an entry of it found its queue full: its later entries are discarded (17: R476)
  deriving DecidableEq, Repr

/-! ### Engines of a core -/

/-- An ME command from issue on (09: R240 to R244). -/
structure MCmd where
  id : Nat
  i : Instr
  org : Origin
  c : Nat
  stamp : Option Nat            -- the cycle of its start stamp
  s1 : DWord
  s2 : DWord
  draw : Nat
  key : List W32                -- the key and the identity of its draws at issue (05: R147)
  ident : Nat
  gated : Bool                  -- the group of its vector operand was gated at issue (17: R415)
  iter : Nat
  seq : Nat
  levs : List Nat               -- activation numbers of C's loop levels that it belongs to (07: R189)
  s : Option Nat := none        -- the cycle it started in
  doneAt : Option Nat := none   -- the cycle at whose end it completes
  status : Nat := 0
  count : Nat := 0
  abuf : Nat := 0               -- the A operand as read, as one number
  apoi : Nat := 0               -- poison bits of its entries, one for 32 bytes
  bbuf : Nat := 0               -- the raw B operand as read
  atStart : Nat := 0            -- 0 runs; otherwise the status it was refused with at its start
  rows : SMap W32 := []         -- rows latched at s by MRD, or the scale slots of MSACC
  rpoi : SMap Bool := []
  mode : Nat := 0               -- the page mode that governs its B operand
  ecc : Bool := false           -- a word that it read was uncorrectable
  slip : Nat := 0               -- cycles by which its tile-store reads have fallen behind (04: R106)
  stall : Bool := false         -- it does nothing in this cycle
  reused : Bool := false        -- a reissue that takes A from the replay buffer (16: R399)
  detail : Nat := 0             -- DETAIL of the record that its status writes
  pushed : Bool := false        -- its completion word has gone to cq's entrance
  deriving DecidableEq, Repr

/-- A CE command from acceptance on (10: R280 to R285). -/
structure CCmd where
  id : Nat
  org : Origin
  str : Nat
  c : Nat
  stamp : Option Nat
  d : List DWord                -- D0 to D7
  iter : Nat
  seq : Nat
  levs : List Nat
  rcdAt : Option Nat := none    -- the cycle in which its record at D3 is read, until it is (18: R441)
  rcd : Mem := []               -- that record, or the index list as read
  bad : Nat := 0                -- status of a null command, 0 for none
  badDetail : Nat := 0
  remote : Bool := false
  s : Option Nat := none        -- the cycle it started in
  start0 : Nat := 0             -- and its wall cycle
  doneAt : Option Nat := none   -- the cycle at whose end it has completed
  groups : Nat := 0
  li : Nat := 0                 -- the class latencies of R285 and R289
  ls : Nat := 0
  ld : Nat := 0
  slip : Nat := 0               -- cycles by which it has fallen behind R285 (04: R106; 11: R306)
  stall : Bool := false         -- it does nothing in this cycle
  fly : List (Nat × Bytes) := []  -- groups read and not yet written
  t : Nat := 0                  -- groups or elements carried out
  ph : Nat := 0                 -- the step of a remote command
  buf : Mem := []               -- what the group or element in hand has read; a COLL's source or result
  outs : List Nat := []         -- tags of its host and peer requests outstanding
  from_ : Nat := 0              -- what such a request brings to byte o of `buf` lies at device address from_ + o
  lost : List Nat := []         -- addresses of sectors it has begun that a stamped command has since written (04: R119)
  hostWrite : Bool := false     -- it has written host memory
  behind : Bool := false        -- and has sent the read that shows those writes applied (04: R115)
  late : Nat := 0               -- the status that a request has ended it with
  lateDetail : Nat := 0
  lateAddr : Nat := 0
  count : Nat := 0
  status : Nat := 0
  ordinal : Nat := 0            -- among the COLLs of its stream
  pushed : Bool := false
  deriving DecidableEq, Repr

/-- An A operand kept for a reissue (16: R399). -/
structure Replay where
  id : Nat
  str : Nat
  i : Instr
  kept : Bool                   -- among the last two of its stream to start
  failed : Bool
  abuf : Nat
  apoi : Nat
  again : Bool                  -- a word that it read was uncorrectable: a reissue reads its sources again (18: R438)
  deriving DecidableEq, Repr

/-! ### Cores -/

/-- The states of a core for one iteration (02: R59). -/
inductive CoreSt where
  | wait | entry | body | drain | retired
  deriving DecidableEq, Repr

/-- A registered await (02: R40; 10: R273). `kind` 0 fill, 1 free, 2 row, 3 window, 4 to 6 compare. -/
structure Await where
  b : Nat                         -- the boundary as an offset from TSB
  at_ : Nat                       -- and as SCC
  kind : Nat
  ring : Nat
  x : DWord
  addr : Nat
  org : Origin
  deriving DecidableEq, Repr

/-- A mark waiting in a core's buffer (07: R200). -/
structure Mark where
  q : SeqId
  code : B12
  v : DWord
  scc : Nat
  wcc : Nat
  deriving DecidableEq, Repr

/-- The trap state of a core (16: R395): since when it is stopped, when K enters the handler, whether it
runs one, and a pending break of its domain with the cycle after which members stop. -/
structure TrapSt where
  stopAfter : Option Nat := none
  handlerAt : Option Nat := none
  before : Option Nat := none      -- of a software trap: the number below which results were issued before it (07: R198)
  inHandler : Bool := false
  handlerDone : Bool := false
  breakAt : Option Nat := none
  brk : Bool := false
  dbgStop : Option Nat := none     -- the cycle in which a DBG stopped the core (07: R199)
  kRun : Bool := false             -- K had not issued its final HALT when it entered the handler
  kQual : Option Bool := none      -- the QUAL that governed K's next instruction then
  deriving DecidableEq, Repr

/-- What the leading core of a lockstep pair has issued and its checking core issues 2 sc later (01: R27; 02: R66). -/
structure Trail where
  at_ : Nat                        -- the leading core's issue cycle
  org : Origin
  cmp : Option (List DWord) := none -- the operands of a store, a queue write or an engine command
  full : Bool := false             -- with the registers too
  handler : Bool := false          -- the leading core runs a handler then
  move : List (SeqId × Seqr) := [] -- no instruction: the sequencers are placed as a hand-off or a trap places them
  deriving DecidableEq, Repr

/-- Data of a leading core that its checking core's must equal 2 sc later (01: R27). -/
inductive Shown where
  | vrf (lo : Nat) (bs : Bytes)    -- bytes of the vector register file that a store or a WRQ has read
  | entry (qn : Nat) (e : QEntry)  -- an entry that a vector instruction has pushed
  | recs (l : List (BitVec 128))   -- the records of a DEFER
  | gone                           -- the instruction's later entries are discarded (17: R476)
  deriving DecidableEq, Repr

structure Core where
  k : Seqr := {}
  l : Seqr := {}
  c : Seqr := {}
  s : Seqr := {}
  st : CoreSt := .wait
  task : Option Nat := none        -- the task whose iteration it runs
  iter : Nat := 0
  rank : Nat := 0
  tsb : Nat := 0
  tsbWcc : Nat := 0                -- wall cycle of TSB, for the latency budget (16: R400)
  lateSent : Bool := false
  vrf : Mem := []                  -- v(n) at 8192 n
  masks : SMap Nat := []           -- m(n): 8,192 bits as a number
  queues : SMap (List QEntry) := []  -- q0-q7 at 0-7, mq at 8
  onWay : SMap Nat := []           -- entries reserved and not yet entered, by queue (03: R77)
  cq : List CqWord := []
  cqWait : List (Nat × CqWord) := [] -- words that wait for room: engine and stream, word
  dq : List (BitVec 128) := []
  dqOnWay : Nat := 0
  wb : Mem := []
  wbMode : SMap Nat := []
  wbUse : Nat := 0                 -- 32-byte writes of the weight-buffer port by copies in this cycle (11: R306)
  smUse : Bool := false            -- a copy has the scale-memory port in this cycle (09: R238)
  sm : Mem := []
  acc : SMap W32 := []             -- element (i, j) of bank b at 16384 b + 128 i + j
  accP : SMap Bool := []
  accEcc : SMap Bool := []         -- uncorrectable accumulator elements (18: R438)
  vrfEcc : SMap Bool := []         -- uncorrectable chunks of the vector register file: 8 n + k (18: R438)
  sat : SMap Bool := []
  part : SMap W32 := []            -- partial registers: 16384 arr + 128 i + j
  partP : SMap Bool := []
  partBad : SMap Bool := []        -- an array's partial is marked failed (16: R399)
  chktol : SMap W32 := []
  l1d : Mem := []                  -- line x at 128 x
  l1Dirty : SMap Bool := []
  l1Dir : SMap L1Ent := []
  l1Fill : SMap Nat := []          -- entry → lines filled so far, while a fill runs
  smEcc : SMap Bool := []          -- uncorrectable scale slots
  l1Ecc : SMap Bool := []          -- lines written with uncorrectable ECC (18: R439)
  pend : List Landing := []
  vops : List VOp := []
  veFree : Nat := 0
  portFree : Nat := 0
  ceFree : Nat := 0
  mcmds : SMap (List MCmd) := []   -- by stream, in command order
  ccmds : SMap (List CCmd) := []
  replay : List Replay := []
  mulFree : SMap Nat := []         -- by array, first cycle the multiply stage is free
  accFree : SMap Nat := []
  rdFree : Nat := 0
  phNum : Nat := 0
  phWait : Option Nat := none      -- the level of a PHASE issued and not yet complete
  phAt : Nat := 0
  phPc : Nat := 0
  phHold : Bool := false           -- K waits at a tokened PHASE (10: R275)
  psets : SMap (Nat × Nat) := []   -- 32 eng + 8 wr + idx → (base, length)
  awaits : List Await := []
  trap : TrapSt := {}
  marks : List Mark := []
  drainAt : Nat := 0               -- first wall cycle in which a mark may drain (07: R200)
  wake : SMap (Nat × Nat) := []    -- group → (cycle it is awake from, state it wakes from)
  iterCmds : SMap Nat := []        -- ordinals of commands per engine and stream in the iteration
  colls : SMap Nat := []           -- COLLs accepted per stream
  collBad : List (Nat × Nat) := [] -- stream and ordinal of COLLs refused at acceptance
  actNo : Nat := 0                 -- loop activations so far
  safepts : List (Nat × Nat) := [] -- timed SAFEPTs issued: the boundary from TSB, where each stands in K's stream
  safept : Option Nat := none      -- the boundary of the SAFEPT that the core stopped at, 0 of a tokened one
  safeptPc : Nat := 0              -- where that SAFEPT stands in K's stream
  frozen : Bool := false           -- its context is being saved or loaded
  replays : Nat := 0               -- replays of the current iteration asked for (16: R402)
  trail : List Trail := []         -- of a leading core: what its checking core has not issued yet
  shown : List (Nat × Origin × Shown) := [] -- and data, with the cycle in which it read or pushed them
  back : List (SMap (List QEntry) × SMap Nat × List (BitVec 128)) := [] -- its queues at the starts of this cycle and of
                                    -- the two before, which its checking core sees 2 sc later
  misses : Nat := 0                -- lockstep mismatches in the iteration (16: R402)
  csrWas : SMap DWord := []        -- what CSRs of K that hardware has changed in this cycle held at its start (07: R195)
  hwCsr : List (Nat × Nat × Nat) := [] -- fields of K's CSRs that hardware has set in this cycle: CSR, mask, value (07: R193)
  deriving DecidableEq, Repr

/-! ### Partitions and tasks -/

/-- The states of a task (02: R58). -/
inductive TaskSt where
  | armed | pending | running | saving | preempted | restoring | done
  deriving DecidableEq, Repr

/-- A task instance and its loop-nest record as read (02: R49, R58). -/
structure Task where
  part : Nat
  trig : Option Nat := none       -- trigger index
  queue : Option Nat := none      -- host queue
  slot : Nat := 0
  since : Nat := 0                -- wall cycle in which it became pending
  st : TaskSt := .pending
  tid : Nat := 0
  lnoff : Nat := 0
  lrec : Mem := []                -- the launch record as read
  ln : Mem := []                  -- the loop-nest record as read
  arg0 : Option DWord := none
  prio : Nat := 0
  dlev : Nat := 0
  slen : Nat := 0
  members : List Nat := []
  kt : Nat := 0
  nextK : SMap Nat := []          -- by rank, the next k
  doneAt : Nat := 0
  startAt : Nat := 0              -- earliest wall cycle of its hand-off
  dead : SMap Nat := []           -- by rank: ACT asked for at ERET plus 1, while a break is open
  broken : Bool := false
  brkOrig : Nat := 0
  brkCause : Nat × Nat × DWord := (0, 0, 0) -- TRAPCAUSE, TRAPPC and TRAPVAL of a break that a DCS began (18: R431)
  restarts : Nat := 0
  restartMark : Bool := false     -- an error in the context: restart when it wins again (17: R414)
  depth : SMap Nat := []           -- by member, the depth of nesting at which it was pre-empted (02: R64)
  b : Nat := 0                    -- boundary offset of the safe point it stopped at
  saveAt : Nat := 0               -- cycle at whose end the save or load of every member is done
  ctx : SMap Core := []           -- by member, the core as its context was saved (02: R63)
  ctxSpad : SMap (List (Nat × Bytes)) := [] -- and its scratchpad live ranges
  ctxDcs : SMap (Seqr × SMap Nat) := [] -- stream position and refresh pointers of each owned DCS
  deriving DecidableEq, Repr

/-- The hold state of a partition (02: R40 to R42, R60). -/
structure Hold where
  held : Bool := false
  off : Bool := false             -- it began off a boundary, by a link retry
  aw : Bool := false
  th : Bool := false
  lr : Bool := false
  first : Nat := 0                -- first held wall cycle
  awaitOpen : Bool := false       -- an await was false at the horizon and release is not decided
  decided : Option Nat := none    -- wall cycle in which release was decided
  slotEnd : Option Nat := none    -- wall cycle after the idle slot
  b : Nat := 0                    -- the boundary, as SCC
  horizon : Nat := 0              -- wall cycle of the horizon
  budgetHit : Bool := false
  lapsed : List (Nat × Await) := []  -- registrations, by core, that lapsed by the hold budget (17: R409)
  lapsedA : List (Nat × Await) := [] -- and by the await budget (17: R408)
  statAt : DWord := 0             -- HOLD_STAT at exhaustion
  deriving DecidableEq, Repr

/-- A cached leaf translation (03: R104). -/
structure Xlat where
  page : Nat
  size : Nat
  pa : Nat
  flags : Nat
  deriving DecidableEq, Repr

structure Part where
  scc : Nat := 0
  hold : Hold := {}
  awHit : Bool := false            -- at the last horizon: an await was false
  slotHit : Bool := false          -- at the last horizon: an idle slot begins at the boundary
  horizonDone : Nat := 0           -- the boundary whose horizon has been evaluated, as SCC
  boundDone : Nat := 0             -- the boundary that PERIOD_BOUNDARY has passed
  level : Nat := 0
  newLevel : List (Nat × Nat) := []  -- written levels not yet in effect, with SCC of the write, oldest first
  pos : Nat := 0
  total : Nat := 0
  retry : List (Nat × Nat) := []   -- links whose retry holds the partition, and the wall cycle of the request
  linkBreak : Bool := false        -- its timed domains break at the next boundary it executes (19: R459)
  slots : SMap Nat := []           -- queue slot → queue + 1
  announced : List Nat := []
  preempt : List Nat := []         -- tasks that stop at the coming boundary (02: R61)
  xl0 : List Xlat := []            -- cached translations on CD0 and CD1
  xl1 : List Xlat := []
  resetting : Option Nat := none   -- wall cycle by which a reset's requests have drained
  msgTag : Nat := 0
  deriving DecidableEq, Repr

/-! ### DRAM -/

/-- The states of a bank (11: R298); a time is a quarter-slot of wall time or of schedule time. -/
inductive BankSt where
  | idle
  | active (row : Nat)
  | precharging (upTo : Nat) (wall : Bool)
  | refreshing (upTo : Nat) (wall : Bool)
  deriving DecidableEq, Repr

/-- A command in the history that the timing checker looks at (11: R313): its kind is a function code of
R162, its quarter-slot in schedule and in wall time, and whether it was a hold or idle refresh. -/
structure PinCmd where
  kind : Nat
  sub : Nat
  bank : Nat
  qs : Nat
  qw : Nat
  own : Bool
  deriving DecidableEq, Repr

/-- A DRD whose data has not landed, or a DWR whose source has not been read (11: R306). -/
structure ColOp where
  c : Nat                          -- its issue cycle
  wr : Bool
  burst : Nat
  wb : Option Nat                  -- the core, for a weight-buffer destination
  addr : Nat
  due : Nat                        -- the cycle of its tile-store or weight-buffer access
  data : Option Bytes := none      -- a DRD's burst, once it is fixed
  bad : Bool := false              -- whether that is uncorrectable,
  weak : Bool := false             -- or corrected (19: R451)
  deriving DecidableEq, Repr

structure Dcs where
  seqr : Seqr := {}
  task : Option Nat := none
  tsb : Nat := 0
  banks : SMap BankSt := []        -- 16 x + bank
  hist : List PinCmd := []
  cad : SMap Nat := []             -- by sub-channel, the beat from which the burst cadence admits a burst (11: R314)
  mem : Mem := []                  -- 32 burst + byte, where burst is ((16 x + bank) 131072 + row) 64 + col
  bad : SMap Bool := []            -- uncorrectable bursts
  weak : SMap Bool := []           -- bursts with an error that a read corrects (19: R451)
  lands : List ColOp := []         -- in stream order
  mrr : List (Nat × Nat × Nat × Byte) := [] -- (wall quarter-slot, sub-channel, number, value)
  e : SMap Nat := []               -- by sub-channel, the wall quarter-slot in which OWED last increased (11: R316)
  owed : SMap Int := []
  mult : SMap Nat := []            -- decoded by sub-channel
  multAt : Nat := 0                -- wall quarter-slot in which MULT last changed (11: R316)
  mrs : SMap Byte := []            -- mode registers written: 256 x + number
  rp : SMap Nat := []
  closing : List Nat := []         -- sub-channels on which DPREA is due (16: R395 step 5; 19: R448)
  poll : Nat := 0                  -- wall cycle of the next poll of mode register 4
  polled : Nat := 0                -- one more than the first cycle of the last hold that it polled at
  busyTo : Nat := 0                -- wall quarter-slot at which the row copy under way ends
  mig : Option (Nat × Nat × Nat) := none -- sub-channel, bank and entry of the copy that MIGCTL.GO started (19: R453)
  deriving DecidableEq, Repr

/-! ### The sensor front die -/

/-- The row-table entry of an input slot (12: R331). -/
structure RowMeta where
  frame : Nat := 0
  row : Nat := 0
  tcap : Nat := 0
  tmid : Nat := 0
  port : Nat := 0
  width : Nat := 0
  sub : Bool := false
  deriving DecidableEq, Repr

/-- An LBP row on its way to the next stage, a slot or the tile store (12: R340). A claim carries the cycle of
its publication; `row` is the row index in the frame. -/
inductive SendOp where
  | next (dst : Nat) (rm : RowMeta) (data : Bytes)
  | slot (slot : Nat) (data : Bytes)
  | claim (ring : Nat) (rm : RowMeta) (t ch row : Nat) (data : Bytes) (pubAt : Nat)
  | publish (ring q row : Nat) (rm : RowMeta)
  deriving DecidableEq, Repr

structure Lbp where
  seqr : Seqr := {}
  vrf : Mem := []
  masks : SMap Nat := []
  buf : Mem := []                  -- slot k, sample x at 8192 k + 2 x
  rows : SMap RowMeta := []
  ain : Nat := 0
  rin : Nat := 0
  relNow : Nat := 0                -- rows that a ROWIN.REL of this cycle releases
  orb : Mem := []
  fb : DWord := 0                  -- the ordinal of the current frame's row 0, mod 2^64
  cf : Nat := 0
  claimed : Nat := 0               -- ordinals below were observed by ROWIN.WAIT or ROWIN.CNT (19: R455)
  pend : List Landing := []
  vops : List VOp := []
  veFree : Nat := 0
  sendFree : Nat := 0
  sends : List (Nat × SendOp) := []  -- (wall cycle, what is done at its end)
  imem : Mem := []
  stopped : Bool := false          -- a cause has stopped the stage, which takes no further row until LBPCTL.GO (18: R431)
  deriving DecidableEq, Repr

/-- A sensor port (12: R326, R341; 19: R454). -/
structure Port where
  frame : Nat := 0
  started : Bool := false          -- a frame has started since EN went to 1
  open_ : Bool := false            -- a frame is open: its rows are taken
  ix : Nat := 0                    -- rows of the frame received
  col : Nat := 0                   -- lidar: the column index of the previous row
  fb : Nat := 0                    -- ordinal of row 0
  tfs : Nat := 0
  lastTcap : Nat := 0
  app : Nat := 0                   -- rows of the frame appended
  na : Nat := 0                    -- rows of the frame appended or lost: the index of the next row due
  lost : List (Nat × Nat) := []    -- rows lost to overrun, as frame and index, whose substitutes wait
  late : List Nat := []            -- rows of the frame appended as late-missing substitutes
  off : Bool := false              -- its link is lost
  deriving DecidableEq, Repr

/-- A counted row (12: R343). -/
structure Counted where
  ord : Nat
  tmid : Nat
  frame : Nat
  deriving DecidableEq, Repr

structure FusionSet where
  hist : SMap (List Counted) := []  -- by port, newest last
  cands : List Counted := []        -- open candidates, oldest first
  last : SMap Nat := []             -- by port, the match of the last record
  due : List (Nat × Bytes) := []   -- records of decided candidates: the cycle in which WCNT advances, the record
  deriving DecidableEq, Repr

/-! ### Untimed accesses and views -/

/-- An untimed access that has not performed everywhere (04: R106): `parts` are its sectors still to be
served, as byte addresses of sectors. -/
structure UReq where
  id : Nat
  own : Actor
  org : Origin
  after : SMap Nat                 -- by sequencer of its core: accesses that perform before it (04: R110)
  arrive : Nat                     -- first cycle in which its bank may grant it, in its owner's time
  parts : List Nat
  op : MemOp
  ready : Mem := []
  deriving DecidableEq, Repr

/-- An untimed write that some view has not applied (04: R112, R113). -/
structure VWrite where
  id : Nat
  own : Actor
  cmd : Nat := 0                   -- the CE command that made it, 0 for none
  part : Nat
  origin : Nat                     -- 0 SFD, 1 CD0, 2 CD1, 3 EXT
  num : Nat
  stamp : List Nat
  acc : Nat := 0                   -- the number of the sequencer's access that made it, 0 for none
  agent : Nat := 0                 -- the agent that made it, as the race detector numbers agents (17: R421)
  due : Nat
  left0 : Option (List (Nat × Byte))  -- bytes not yet applied in CD0's view
  left1 : Option (List (Nat × Byte))
  deriving DecidableEq, Repr

/-- An untimed access that no sequencer's request makes: of the CE or the ME (`me`) of core g, of the line pairs of its
tokened LBLK and LBWB, or of the management controller (03: R82, R84, R89). `id` is the number of the command or the landing that
it serves, and `parts` are its sectors still to be served. -/
structure EReq where
  id : Nat
  g : Nat
  sfd : Bool := false              -- SFD traffic
  me : Bool := false
  org : Option Origin := none      -- where the instruction stands whose line pair it moves
  agent : Nat := 0                 -- the writing agent, as the race detector numbers agents (17: R421)
  arrive : Nat
  parts : List Nat
  rd : List (Nat × Nat × Nat) := []  -- what it reads: (address, offset in `got`, length)
  wr : List (Nat × Byte) := []     -- what it writes
  back : Option (Nat × Nat × Nat) := none -- a pair of LBWB, whose dirty lines it writes: line, address, lines
  atom : Option (Nat × Nat × Bool × Nat × Nat) := none -- an atomic on its bytes: operation, width, U, y and z
  cmd : Nat := 0                   -- the CE command that writes, 0 for none
  orig : Nat := 0                  -- the origin that its writes enter (04: R112)
  copy : Option Nat := none        -- the copy of a completion word: its stream (10: R295)
  got : Mem := []                  -- what it has read; of a pair of LBWB, what it has written
  deriving DecidableEq, Repr

/-! ### The host and the peer -/

/-- What the device sends to the host or to the peer. -/
inductive Msg where
  | read (tag addr len : Nat)
  | write (addr : Nat) (data : Bytes)
  | atomic (tag addr op w : Nat) (y z : DWord)
  | msix (vec : Nat)
  | cpl (id : Nat) (data : Bytes)   -- completion of a host read or atomic, by the number of its access
  | ur (id : Nat)                   -- Unsupported Request
  | peerWrite (tag addr : Nat) (data : Bytes)
  | peerAtomic (tag addr op w : Nat) (y z : DWord)
  | peerColl (tag : Nat) (data : Bytes)
  | peerAck (tag : Nat) (data : Bytes) -- a request of the peer's is done, with an atomic's old value
  | peerNak (tag : Nat)                -- or refused
  deriving DecidableEq, Repr

/-- Why a host or peer request is outstanding: a walk's table read, a CE command's read, atomic, flush or peer
access, by core, stream and offset in its buffer; a queue entry of a slot; the flush behind a queue's completion
doubleword. -/
inductive Purpose where
  | walk (no : Nat)
  | ceRead (g str off len : Nat)
  | cePeer (g str : Nat)
  | entry (p slot : Nat)
  | cda (queue : Nat)
  deriving DecidableEq, Repr

/-- Who waits for a translation (03: R104). -/
inductive Waiter where
  | ce (g str id : Nat)
  | slot (p slot : Nat)
  | cda (queue : Nat)
  deriving DecidableEq, Repr

/-- A page-table walk (03: R102): the level whose entry is being read, the leaf found, or the DETAIL it is
refused with (19: R460). -/
structure Walk where
  no : Nat
  die : Nat
  part : Nat
  va : Nat
  lev : Nat
  who : Waiter
  leaf : Option Xlat := none
  refused : Option Nat := none
  deriving DecidableEq, Repr

structure Outstanding where
  tag : Nat
  since : Nat
  why : Purpose
  deriving DecidableEq, Repr

/-- A BAR2 access that waits for its host cycles or open cycles (13: R351), or a request of the peer's that waits for
open cycles (R356), with the peer's tag. -/
structure Bar2Op where
  id : Nat
  kind : Nat                        -- 0 write, 1 read, 2 atomic
  p : Nat
  addr : Nat
  data : Bytes
  len : Nat
  op : Nat
  w : Nat
  y : DWord
  z : DWord
  got : Option DWord := none        -- the value read by an atomic, before its write
  parts : List Nat := []
  acc : Mem := []
  peer : Option Nat := none
  arrive : Nat := 0                 -- the cycle of its partition in which it was received
  deriving DecidableEq, Repr

/-! ### The whole device -/

/-- Why a step of the machine stops. -/
inductive Fault where
  /-- Raised by exec of a step of the device whose conditions do not hold in the state: the spec gives it no
  occurrence there. Safe: `step` never asks for one. -/
  | notDue (mnemonic : String)
  /-- Raised by exec of an instruction in a state whose actor is no sequencer that runs: nothing issues it.
  Safe. -/
  | noIssuer
  /-- Raised by an input from outside that names a unit the device does not have. Safe. -/
  | noUnit (n : Nat)
  deriving DecidableEq, Repr

/-- Instructions without a meaning in this model. -/
inductive Refusal where
  /-- Raised by `exec` for an instruction whose meaning has not been written. Safe. -/
  | notModelled (mnemonic : String)
  deriving DecidableEq, Repr

/-- A mismatch that a residue or parity checker will find (16: R391, DET 1; 18: R433): in cycle `at_`, in the result of the
scalar unit of `unit`, or of the accumulate stage of array `arr` of its core, at element 128 i + j of the bank. What
corrupts a result lies outside the device: no step makes one. -/
structure Mismatch where
  unit : Actor
  arr : Option Nat := none
  at_ : Nat
  lane : Nat := 0
  deriving DecidableEq, Repr

structure State where
  wcc : Nat := 0
  readDone : Bool := false          -- the scheduled reads of this cycle have performed
  worked : Bool := false            -- what performs and lands in this cycle has; its end remains
  actor : Actor := .mgmt            -- the sequencer whose instruction is being executed
  unit : Nat := 0                   -- the unit on which a step of the device acts
  sub : Nat := 0                    -- and its stream, group, record or slot
  cores : SMap Core := []
  parts : SMap Part := []
  tasks : SMap Task := []
  taskNo : Nat := 0
  dcs : SMap Dcs := []
  lbps : SMap Lbp := []
  ports : SMap Port := []
  sets : SMap FusionSet := []
  mgmt : Seqr := {}                 -- the management controller
  mgmtMem : Mem := []               -- its 4 MiB of SFD memory (13: R346)
  mgmtPend : List Landing := []
  bar0 : Mem := []                  -- memory-mapped registers, tables, rings, fault rings, boot SRAM,
                                    -- by BAR0 offset; an unlisted offset reads as its reset value
  view0 : Mem := []                 -- tile stores and scratchpads in CD0's view, by device address
  view1 : Mem := []
  tsEcc : SMap Nat := []            -- errors in tile-store and scratchpad words, by address / 8: 1 corrected
                                    -- when read, 2 uncorrectable, 3 uncorrectable and injected (16: R399)
  wEcc : SMap Bool := []            -- uncorrectable weight-buffer granules: 8192 g + granule
  mismatch : List Mismatch := []
  ctlEcc : SMap Nat := []           -- errors in the state of ring units, trigger tables and walkers: 1 corrected, 2 not
                                    -- (16: R391, DET 3)
  advisory : Bool := false          -- the advisory non-fatal error in the device's PCIe error status (19: R461)
  reqs : List UReq := []
  ereqs : List EReq := []
  reserved : List Nat := []         -- banks that scheduled accesses name in this cycle (03: R89)
  banksUsed : List Nat := []        -- banks that served an untimed request in this cycle
  vwrites : List VWrite := []
  applied : SMap Nat := []          -- 4 die + origin (+ 8 part): writes applied in the view
  sentNo : SMap Nat := []           -- by origin: writes entered
  know : SMap Nat := []             -- 8 part + 4 o + p: the knowledge vectors of SFD (0) and EXT (1)
  fresh : Nat := 0                  -- free values taken so far: the model's own field
  effNo : Nat := 1                  -- the number of the next landing or access
  cycleNo : Nat := 1                -- and that of the first one of this cycle
  race : SMap (Nat × Nat × Nat) := [] -- sector → writer agent, its write number, its interval (16: R403)
  pubs : SMap (SMap Nat) := []      -- 8 agent + scope → what its last release at that scope covers
  tileW : SMap Nat := []            -- by ring (256 part + number), the width of row 0 of the current tile (12: R339)
  freeSeen : SMap (Nat × Nat) := [] -- by ring, the free count as last reported to the SFD less what TILEOUTs have
                                    -- taken since, and the cycle of the next report (12: R340)
  tb : Nat := 0                     -- the time base in 2^-28 ns (12: R327)
  tbAdd : DWord := 0                -- a step written in this cycle
  host : List Msg := []             -- sent to the host so far, newest first
  peer : List Msg := []
  outst : List Outstanding := []
  walks : List Walk := []
  bar2 : List Bar2Op := []
  hostUp : Bool := true
  peerUp : Bool := false
  linkRetry : SMap Nat := []        -- by link: consecutive failed retries of the flit; 17 while it retrains
  linkTrain : SMap Nat := []        -- by link: retrainings of the flit failed
  linkGone : SMap Bool := []
  csPend : List (Nat × Bytes) := [] -- contact-sheet events of this cycle, by sort key
  notified : List Nat := []         -- queues notified and not yet looked at by the mapper (13: R353)
  cdaWait : List (Nat × Nat × Nat) := [] -- (queue, completion doubleword, 0 to be written, 1 written, 2 applied)
  bootAt : Option Nat := none       -- wall cycle in which READY is set
  bootPh : List Nat := []           -- wall cycles from which CALPH reads 1 to 4 in the boot under way (13: R364)
  imgReport : Bytes := []           -- what an attestation report says of the image that booted (13: R363)
  pinNow : Nat := 0                 -- FPIN bits that a fault of this wall cycle has set (16: R397)
  spi : Bytes := []                 -- what the SPI port has last returned (16: R397)
  runMrs : SMap Bool := []          -- run-time mode registers of the loaded DRAM profile (11: R308)
  warm : Bool := false              -- the last device reset was a warm one
  seqReset : List Nat := []         -- partitions reset since their FATAL bit was set (16: R397)
  inputs : List (Nat × Instr) := [] -- inputs from outside, stamped by the wall cycle they arrive in
  deriving DecidableEq, Repr

/-- The state after device reset: counters 0, nothing running, every register at its reset value (13: R361;
00: R8), memories with nothing listed. Registers are unlisted bytes of `bar0`, whose default is their
reset value. -/
def State.reset : State := {}

end Sys2Proof.Machine
end

