-- ==== Sys2Proof/Machine/Regs.lean ====
section
/-! DEFINITION. The memory-mapped registers: where each lies in BAR0, its reset value, which of its bits a
write changes, and which partition's lock makes it read-only (13: R346 to R348, R357, R358, R478; 11: R311
to R322; 12: R325, R330, R342; 16: R393, R397; 02: R43, R45, R64; 03: R101, R102). -/

namespace Sys2Proof.Machine

/-! ### Offsets (13: R346, R347) -/

def offStatus : Nat := 0x000
def offBootctl : Nat := 0x008
def offBootstat : Nat := 0x010
def offCfglock : Nat := 0x018
def offPrst : Nat := 0x020
def offPeercfg : Nat := 0x028
def offAttctl : Nat := 0x040
def offNonce : Nat := 0x080
def offTbctl : Nat := 0x1000
def offTbnow : Nat := 0x1008
def offTbstep : Nat := 0x1010
def offPba : Nat := 0x8000
def offMsix (v : Nat) : Nat := 0x9000 + 16 * v
/-- A register of partition p's block. -/
def offPart (p r : Nat) : Nat := 0x10000 + 0x1000 * p + r
def rHoldLimit : Nat := 0x000
def rAwaitLimit : Nat := 0x008
def rHoldStat : Nat := 0x010
def rPtsmask : Nat := 0x018
def rPhwin : Nat := 0x020
def rPtroot : Nat := 0x028
def rHslot : Nat := 0x030
def rPthr : Nat := 0x038
def rPpwr : Nat := 0x040
def rPslot : Nat := 0x048
def rQslot : Nat := 0x050
def rChown : Nat := 0x058
def rLsmask : Nat := 0x060
def rXlinv : Nat := 0x068
def rHmsg0 : Nat := 0x070
def rHmsg1 : Nat := 0x078
def rPmsga : Nat := 0x080
def rPctx (die : Nat) : Nat := 0x088 + 8 * die
def rPxslot : Nat := 0x098
def rPport : Nat := 0x0A0
def rPlbp : Nat := 0x0A8
def offTrig (p i : Nat) : Nat := 0x20000 + 0x4000 * p + 64 * i
def offRing (p n : Nat) : Nat := 0x30000 + 0x4000 * p + 64 * n
def offDmr (g : Nat) : Nat := 0x40000 + 8 * g
def offDbgres : Nat := 0x40400
def offSpwin : Nat := 0x40408
def offCamcfg (p : Nat) : Nat := 0x50000 + 8 * p
def offLidcfg (l : Nat) : Nat := 0x50080 + 8 * l
def offPtim (p : Nat) : Nat := 0x50100 + 8 * p
def offRpol (p : Nat) : Nat := 0x50200 + 8 * p
def offLbpcfg (n : Nat) : Nat := 0x60000 + 8 * n
def offLbpctl (n : Nat) : Nat := 0x60200 + 8 * n
def offLbpimw : Nat := 0x60400
def offLbpImem : Nat := 0x64000
def offFscfg (s : Nat) : Nat := 0x70000 + 8 * s
def offFscnt (s : Nat) : Nat := 0x70080 + 8 * s
/-- A register of the block of the DCS of channel h. -/
def offDcs (h r : Nat) : Nat := 0x80000 + 0x4000 * h + r
def rDtim (i : Nat) : Nat := 8 * i
def rDrfstat : Nat := 0x020
def rRrmap : Nat := 0x028
def rDcsstat : Nat := 0x030
def rDcsflt : Nat := 0x038
def rMigctl : Nat := 0x040
def rRemap (x n j : Nat) : Nat := 0x1000 + 4 * (256 * x + 16 * n + j)
def rDirty (x n j : Nat) : Nat := 0x2000 + 8 * (256 * x + 16 * n + j)
def offFpin : Nat := 0xC0000
def offCshead : Nat := 0xC0008
def offFctl (p : Nat) : Nat := 0xC0100 + 0x20 * p
def offFring (x : Nat) : Nat := 0xC0108 + 0x20 * x
def offFrec (x i : Nat) : Nat := 0xC1000 + 0x4000 * x + 64 * i
def offCsheet : Nat := 0xE0000
def offQdesc (n : Nat) : Nat := 0x100000 + 64 * n
def offBar2map (e : Nat) : Nat := 0x110000 + 8 * e
def offSpw : Nat := 0x180000
def offBootSram : Nat := 0x200000

/-! ### Reset values -/

/-- LBPCFG at reset: NIN 128 and the default chains (12: R330). -/
def lbpcfgReset (n : Nat) : Nat :=
  let src := if n < 48 then (if n % 3 = 0 then 0x80 + n / 3 else n - 1)
             else (if n % 4 = 0 then 0x80 + 16 + (n - 48) / 4 else n - 1)
  let next := if n < 48 then (if n % 3 = 2 then 0xFF else n + 1)
              else (if n % 4 = 3 then 0xFF else n + 1)
  next * 2 ^ 24 + src * 2 ^ 16 + 128 * 2 ^ 8

/-- The reset value of the 8-byte register at an 8-byte aligned offset; 0 where the spec gives 0, and for a
register whose reset column reads boot (log entry 1). -/
def regReset (off : Nat) : Nat :=
  if off = offTbctl then 0x2800000000000000
  else if off = offFpin then 0x1001F03
  else if 0x10000 ≤ off && off < 0x14000 then
    let r := off % 0x1000
    if r = rHoldLimit then 0x7A1200 else if r = rAwaitLimit then 0xC3500
    else if r = rHslot then 0x4E0 else 0
  else if 0x60000 ≤ off && off < 0x60200 then lbpcfgReset ((off - 0x60000) / 8)
  else if 0x80000 ≤ off && off < 0xC0000 then
    if off % 0x4000 = rDrfstat then 2 * 2 ^ 24 else 0
  else if 0x9000 ≤ off && off < 0x9200 && off % 16 = 8 then 2 ^ 32
  else 0

/-- What an unlisted byte of BAR0 reads as. -/
def bar0Reset (off : Nat) : Byte := BitVec.ofNat 8 (regReset (off / 8 * 8) / 2 ^ (8 * (off % 8)))

def State.bar0Byte (s : State) (off : Nat) : Byte := sget (bar0Reset off) s.bar0 off

def State.setBar0Byte (s : State) (off : Nat) (b : Byte) : State :=
  { s with bar0 := sset (bar0Reset off) s.bar0 off b }

def bar0Read (s : State) : Nat → Nat → Bytes
  | _, 0 => []
  | off, n + 1 => s.bar0Byte off :: bar0Read s (off + 1) n

def bar0Write : State → Nat → Bytes → State
  | s, _, [] => s
  | s, off, b :: bs => bar0Write (s.setBar0Byte off b) (off + 1) bs

/-- The stored value of an 8-byte register, as a number. -/
def State.reg (s : State) (off : Nat) : Nat := leNat (bar0Read s off 8)

def State.setReg (s : State) (off v : Nat) : State := bar0Write s off (natLe 8 v)

def State.reg32 (s : State) (off : Nat) : Nat := leNat (bar0Read s off 4)

def State.setReg32 (s : State) (off v : Nat) : State := bar0Write s off (natLe 4 v)

/-- A field of an 8-byte register. -/
def State.fieldOf (s : State) (off hi lo : Nat) : Nat := bits (s.reg off) hi lo

def State.setField (s : State) (off hi lo v : Nat) : State := s.setReg off (setBits (s.reg off) hi lo v)

/-! ### The bits that a plain write changes (00: R7) -/

/-- The RW bits of the 8-byte register at an 8-byte aligned offset whose writes have no other effect. -/
def regWritable (off : Nat) : Nat :=
  let all := 2 ^ 64 - 1
  if off = offPeercfg then 0x7
  else if offNonce ≤ off && off < offNonce + 0x30 then all
  else if off = offTbctl then 0xFFFFFFFF000000E0
  else if 0x9000 ≤ off && off < 0x9200 then all
  else if 0x10000 ≤ off && off < 0x14000 then
    let r := off % 0x1000
    if r = rHoldLimit || r = rAwaitLimit || r = rQslot || r = rPxslot then 0xFFFFFFFF
    else if r = rPtsmask || r = rPlbp then all
    else if r = rPhwin then 0x07FFFFFF07FFFFFF
    else if r = rPtroot then 0x000FFFFFFFFFF001
    else if r = rHslot || r = rPpwr || r = rChown then 0xFFFF
    else if r = rPthr then 0xF
    else if r = rPslot || r = rPmsga then 0xFFFFFFFFFFFF
    else if r = rLsmask then 0x0FFF0FFF
    else if r = rPctx 0 || r = rPctx 1 then 0x000FFF0FFFFFFFFF
    else if r = rPport then 0xFFFFF
    else 0
  else if 0x20000 ≤ off && off < 0x30000 then all
  else if 0x30000 ≤ off && off < 0x40000 then
    let r := off % 64
    if r = 0 then 0x0FFFFFFFFFFFFFFF else if r = 8 || r = 16 then all else if r = 24 then 0xFFFFFFFFFFFF else 0
  else if 0x40000 ≤ off && off < 0x40300 then 0xFC
  else if off = offSpwin then 0x7F
  else if 0x50000 ≤ off && off < 0x50080 then 0xFFFFFFFFFCF00001
  else if 0x50080 ≤ off && off < 0x500A0 then 0xFFFFFFFFFFFF3FFF
  else if 0x50100 ≤ off && off < 0x501A0 then all
  else if 0x50200 ≤ off && off < 0x502A0 then 0x3
  else if 0x60000 ≤ off && off < 0x60200 then 0xFFFFFFFFFFFFFF00
  else if off = offLbpimw then 0x3F
  else if 0x70000 ≤ off && off < 0x70080 then 0xFFFFFFFFFF0FFFFF
  else if 0x80000 ≤ off && off < 0xC0000 then
    let r := off % 0x4000
    if 0x1000 ≤ r && r < 0x1800 then 0x000FFFFF000FFFFF else if r = rMigctl then 0x1FF else 0
  else if 0xC0100 ≤ off && off < 0xC0180 && off % 0x20 = 0 then 0xFF0180
  else if 0x100000 ≤ off && off < 0x110000 then
    let r := off % 64
    if r = 0 then 0xFFFFFFFFFFFF else if r = 8 then 0xFF else if r = 24 then 0xFFFFFFFFFFFF0000
    else if r = 32 then 0xFF8000000000 else 0
  else if 0x110000 ≤ off && off < 0x110400 then 0xF00000000000007F
  else if offBootSram ≤ off && off < 0x400000 then all
  else 0

/-! ### Ownership and locks (13: R357, R358, R478) -/

/-- The partition of core g (02: R45). -/
def State.partOfCore (s : State) (g : Nat) : Nat := s.fieldOf (offDmr g) 7 6

def State.locked (s : State) (p : Nat) : Bool := s.fieldOf offCfglock p p = 1

/-- Partition p's register r names resource i. -/
def State.namesBit (s : State) (r i p : Nat) : Bool := decide (s.fieldOf (offPart p r) i i = 1)

/-- The partition that owns resource i of register r: ownership is exclusive (01: R25), and the lock admits no overlap
(13: R358), so a locked partition that names the resource has it whatever an unlocked one holds in its register; of
several that are not locked the lowest counts (log entry 83). -/
def State.ownerBit (s : State) (r i : Nat) : Option Nat :=
  match (List.range 4).find? fun p => s.locked p && s.namesBit r i p with
  | some p => some p
  | none => (List.range 4).find? (s.namesBit r i)

def State.portOwner (s : State) (p : Nat) : Option Nat := s.ownerBit rPport p
def State.lbpOwner (s : State) (n : Nat) : Option Nat := s.ownerBit rPlbp n
def State.chOwner (s : State) (h : Nat) : Option Nat := s.ownerBit rChown h

def State.lockedOpt (s : State) (p : Option Nat) : Bool :=
  match p with
  | some p => s.locked p
  | none => false

/-- The partition whose lock makes the configuration register at this 8-byte aligned offset read-only. HOLD_LIMIT and
AWAIT_LIMIT stay writable after the lock: neither R23's list of run-time registers nor R43 or R357 says whether they do
(the model's choice, log entry 84). -/
def State.regOwner (s : State) (off : Nat) : Option Nat :=
  if 0x10000 ≤ off && off < 0x14000 then
    let r := off % 0x1000
    if r = rHoldLimit || r = rAwaitLimit || r = rPthr || r = rXlinv || r = rHmsg0 || r = rHmsg1 then none
    else some ((off - 0x10000) / 0x1000)
  else if 0x40000 ≤ off && off < 0x40300 then some (s.partOfCore ((off - 0x40000) / 8))
  else if 0x50000 ≤ off && off < 0x500A0 then s.portOwner ((off - 0x50000) / 8)
  else if 0x50100 ≤ off && off < 0x501A0 then s.portOwner ((off - 0x50100) / 8)
  else if 0x50200 ≤ off && off < 0x502A0 then s.portOwner ((off - 0x50200) / 8)
  else if 0x60000 ≤ off && off < 0x60200 then s.lbpOwner ((off - 0x60000) / 8)
  else if 0x70000 ≤ off && off < 0x70080 then some (s.fieldOf off 31 30)
  else if 0xC0100 ≤ off && off < 0xC0180 then some ((off - 0xC0100) / 0x20)
  else if 0x110000 ≤ off && off < 0x110400 then some (s.fieldOf off 61 60)
  else none

/-- A write to the register at this 8-byte aligned offset is ignored because a lock is set. -/
def State.regLocked (s : State) (off : Nat) : Bool :=
  if off = offPeercfg then (List.range 4).any s.locked else s.lockedOpt (s.regOwner off)

end Sys2Proof.Machine
end

