-- ==== Sys2Proof/Machine/Ops.lean ====
section
/-! DEFINITION. The named operations over the state: the units and their clocks, registers and CSRs, fault
records and the contact sheet, taking a trap and returning from one, the break of a domain (16: R392 to
R396, R401; 07: R194, R198; 02: R38, R44, R46, R47; 18: R431). -/

namespace Sys2Proof.Machine

/-- The core of an actor. -/
def coreOf (a : Actor) : Nat :=
  match a with
  | .core g _ => g
  | _ => 0

/-! ### Units -/

def State.core (s : State) (g : Nat) : Core := sget {} s.cores g
def State.setCore (s : State) (g : Nat) (c : Core) : State := { s with cores := sset {} s.cores g c }
def State.modCore (s : State) (g : Nat) (f : Core → Core) : State := s.setCore g (f (s.core g))
def State.part (s : State) (p : Nat) : Part := sget {} s.parts p
def State.setPart (s : State) (p : Nat) (x : Part) : State := { s with parts := sset {} s.parts p x }
def State.modPart (s : State) (p : Nat) (f : Part → Part) : State := s.setPart p (f (s.part p))
def State.task (s : State) (t : Nat) : Task := sget ({ part := 0 } : Task) s.tasks t
def State.setTask (s : State) (t : Nat) (x : Task) : State := { s with tasks := insert s.tasks t x }
def State.modTask (s : State) (t : Nat) (f : Task → Task) : State := s.setTask t (f (s.task t))
def State.dcsAt (s : State) (h : Nat) : Dcs := sget {} s.dcs h
def State.setDcs (s : State) (h : Nat) (x : Dcs) : State := { s with dcs := sset {} s.dcs h x }
def State.lbp (s : State) (n : Nat) : Lbp := sget {} s.lbps n
def State.setLbp (s : State) (n : Nat) (x : Lbp) : State := { s with lbps := sset {} s.lbps n x }
def State.port (s : State) (p : Nat) : Port := sget {} s.ports p
def State.setPort (s : State) (p : Nat) (x : Port) : State := { s with ports := sset {} s.ports p x }
def State.fset (s : State) (n : Nat) : FusionSet := sget {} s.sets n
def State.setFset (s : State) (n : Nat) (x : FusionSet) : State := { s with sets := sset {} s.sets n x }

def Core.seqr (c : Core) (q : SeqId) : Seqr :=
  match q with
  | .k => c.k
  | .l => c.l
  | .c => c.c
  | .s => c.s

def Core.setSeqr (c : Core) (q : SeqId) (x : Seqr) : Core :=
  match q with
  | .k => { c with k := x }
  | .l => { c with l := x }
  | .c => { c with c := x }
  | .s => { c with s := x }

def Core.modSeqr (c : Core) (q : SeqId) (f : Seqr → Seqr) : Core := c.setSeqr q (f (c.seqr q))

def allSeq : List SeqId := [.k, .l, .c, .s]

/-- The sequencer of an actor. -/
def State.seqr (s : State) (a : Actor) : Seqr :=
  match a with
  | .core g q => (s.core g).seqr q
  | .lbp n => (s.lbp n).seqr
  | .dcs h => (s.dcsAt h).seqr
  | .mgmt => s.mgmt

def State.setSeqr (s : State) (a : Actor) (x : Seqr) : State :=
  match a with
  | .core g q => s.modCore g fun c => c.setSeqr q x
  | .lbp n => s.setLbp n { s.lbp n with seqr := x }
  | .dcs h => s.setDcs h { s.dcsAt h with seqr := x }
  | .mgmt => { s with mgmt := x }

def State.modSeqr (s : State) (a : Actor) (f : Seqr → Seqr) : State := s.setSeqr a (f (s.seqr a))

/-- The die of core g (01: R15). -/
def dieOf (g : Nat) : Nat := if g < 48 then 0 else 1

def kindOf (a : Actor) : SeqKind :=
  match a with
  | .core _ q => .tile q
  | .lbp _ => .lbp
  | .dcs _ => .dcs
  | .mgmt => .mgmt

def dieOfActor (a : Actor) : Nat :=
  match a with
  | .core g _ => dieOf g
  | .dcs h => if h < 8 then 0 else 1
  | _ => 0

/-- The partition that an actor belongs to; 4 for none (16: R392). -/
def State.partOf (s : State) (a : Actor) : Nat :=
  match a with
  | .core g _ => s.partOfCore g
  | .lbp n => (s.lbpOwner n).getD 4
  | .dcs h => (s.chOwner h).getD 4
  | .mgmt => 4

def State.sccOf (s : State) (p : Nat) : Nat := if p < 4 then (s.part p).scc else 0

/-- The cycle as an actor counts it: schedule time in a tile core and a DCS, wall time in the SFD (02: R38,
R39; 12: R329). -/
def State.now (s : State) (a : Actor) : Nat :=
  match a with
  | .core g _ => s.sccOf (s.partOfCore g)
  | .dcs h => s.sccOf ((s.chOwner h).getD 4)
  | _ => s.wcc

def State.held (s : State) (p : Nat) : Bool := (s.part p).hold.held

/-- A Slonos link has been withdrawn (19: R459): 0 SL-A, 1 SL-B, 2 SL-C. What would cross it is discarded. -/
def State.gone (s : State) (link : Nat) : Bool := sget false s.linkGone link

/-- The next free value's number, and the state that has taken it. -/
def State.takeFresh (s : State) : Nat × State := (s.fresh, { s with fresh := s.fresh + 1 })

/-! ### Scalar registers (07: R175) -/

/-- Code 39 reads as zero. -/
def readS (q : Seqr) (c : Code) : DWord := if c = 39 then 0 else sget 0 q.regs c.toNat

/-- A result written to code 39 is discarded. -/
def writeS (q : Seqr) (c : Code) (v : DWord) : Seqr :=
  if c = 39 then q else { q with regs := sset 0 q.regs c.toNat v }

/-! ### The timed and tokened segments of a stream (06: R173, R174) -/

/-- The last segment that starts at or before byte offset pc. -/
def segAt (segs : List Seg) (pc : Nat) : Option Seg := (segs.filter fun x => x.start ≤ pc).getLast?

/-- The segment that follows it in the stream. -/
def segAfter (segs : List Seg) (pc : Nat) : Option Seg := segs.find? fun x => pc < x.start

def timedAt (q : Seqr) (pc : Nat) : Bool :=
  match segAt q.segs pc with
  | some x => x.timed
  | none => false

/-- The sequencer is in a timed segment: it has not issued its final HALT and its next instruction belongs
to one (16: R395). -/
def inTimed (q : Seqr) : Bool := q.run && timedAt q q.pc

/-! ### Domains (02: R44 to R47) -/

/-- Core g is the checking core of a lockstep pair: the odd core of a lockstep cluster (01: R27). -/
def State.checker (s : State) (g : Nat) : Bool :=
  let cl := g % 48 / 4
  g % 2 = 1 && s.fieldOf (offPart (s.partOfCore g) rLsmask) (cl + 16 * dieOf g) (cl + 16 * dieOf g) = 1

/-- Core g is the leading core of a lockstep pair. -/
def State.leads (s : State) (g : Nat) : Bool := g % 2 = 0 && s.checker (g + 1)

/-- The checking core of a leading core g places its sequencers qs as they now stand in g, 2 sc later (02: R66). -/
def State.noteMove (s : State) (g : Nat) (full : Bool) (qs : List SeqId) : State :=
  if s.leads g then
    s.modCore g fun x => { x with trail := x.trail ++
      [{ at_ := s.sccOf (s.partOfCore g), org := ⟨.k, 0, 0, false, 0⟩, full := full, handler := x.trap.inHandler, move := qs.map fun q => (q, x.seqr q) }] }
  else s

/-- The result of an instruction whose word 0 is w0 comes from memory, a queue, an engine or the machine's time: the
checking core of a lockstep pair receives its leading core's (01: R27; 07: R192; log entry 64). -/
def byLeader (w0 : W32) : Bool :=
  let op := bits w0.toNat 24 18
  0x50 ≤ op || op = 0x1F || (op = 0x1E && bits w0.toNat 11 10 = 0)

def State.dgv (s : State) (g : Nat) : Bool := s.fieldOf (offDmr g) 5 5 = 1
def State.dg (s : State) (g : Nat) : Nat := s.fieldOf (offDmr g) 4 2

/-- Cores g and h are in one level-lev domain (02: R44). -/
def State.sameDomain (s : State) (lev g h : Nat) : Bool :=
  match lev with
  | 0 => g = h
  | 1 => g / 4 = h / 4
  | 2 => g / 4 = h / 4 || (g / 48 = h / 48 && s.dgv g && s.dgv h && s.dg g = s.dg h)
  | _ => s.partOfCore g = s.partOfCore h

/-- The ranked members of the level-lev domain of core g, by ascending g. -/
def State.members (s : State) (lev g : Nat) : List Nat :=
  (List.range 96).filter fun h => s.sameDomain lev g h && !s.checker h

/-- The domain that DLEV and DID name (02: R46): every core of it. -/
def State.domainCores (s : State) (lev did : Nat) : List Nat :=
  (List.range 96).filter fun h =>
    match lev with
    | 0 => h = did
    | 1 => 12 * (h / 48) + h % 48 / 4 = did
    | 2 => s.dgv h && 8 * (h / 48) + s.dg h = did
    | _ => s.partOfCore h = did

/-- The latency of a level (02: R47). -/
def levLatency (lev : Nat) : Nat :=
  match lev with
  | 0 => 1
  | 1 => 2
  | 2 => 8
  | _ => 32

/-! ### CSRs (07: R194) -/

def csrSeqid : Nat := 0x000
def csrTaskid : Nat := 0x001
def csrIter : Nat := 0x002
def csrDraw0 : Nat := 0x008
def csrDraw1 : Nat := 0x009
def csrFtv : Nat := 0x00A
def csrKey (i : Nat) : Nat := 0x00C + i
def csrIdent : Nat := 0x010
def csrVl : Nat := 0x020
def csrVrfpwr : Nat := 0x021
def csrQmap : Nat := 0x022
def csrQstat : Nat := 0x023
def csrMoncnt : Nat := 0x024
def csrBblost : Nat := 0x025
def csrPhnum : Nat := 0x028
def csrLtrip (i : Nat) : Nat := 0x030 + i
def csrLact : Nat := 0x036
def csrTvec : Nat := 0x040
def csrKepc : Nat := 0x041
def csrTrapcause : Nat := 0x042
def csrTrappc : Nat := 0x043
def csrTrapval : Nat := 0x044
def csrDbgctl : Nat := 0x048
def csrDiaginj : Nat := 0x3F0

def getCsr (q : Seqr) (n : Nat) : DWord := sget 0 q.csr n
def setCsr (q : Seqr) (n : Nat) (v : DWord) : Seqr := { q with csr := sset 0 q.csr n v }

def csrNat (q : Seqr) (n : Nat) : Nat := (getCsr q n).toNat
def setCsrNat (q : Seqr) (n v : Nat) : Seqr := setCsr q n (BitVec.ofNat 64 v)

def seqNum (q : SeqId) : Nat :=
  match q with
  | .k => 0
  | .l => 1
  | .c => 2
  | .s => 3

def seqOfNum (n : Nat) : SeqId :=
  match n with
  | 0 => .k
  | 1 => .l
  | 2 => .c
  | _ => .s

/-! ### The contact sheet and fault records (16: R392, R393, R401) -/

/-- An event of the contact sheet waits for the end of its wall cycle, where the events of the cycle enter in
KIND order and by PART and SRC within a kind. -/
def csEvent (s : State) (kind part flags src arg : Nat) (val : Nat) : State :=
  let rcd := natLe 4 (kind + part * 2 ^ 8 + flags * 2 ^ 11 + src * 2 ^ 16) ++ natLe 4 arg
    ++ natLe 8 s.wcc ++ natLe 8 (s.sccOf part) ++ natLe 8 val
  { s with csPend := s.csPend ++ [((kind * 8 + part) * 2 ^ 16 + src, rcd)] }

/-- One event into the sheet (16: R401). -/
def csWrite (s : State) (rcd : Bytes) : State :=
  let n := s.reg offCshead
  let s := bar0Write s (offCsheet + 32 * (n % 4096)) rcd
  s.setReg offCshead ((n + 1) % 2 ^ 32)

def insertKey (k : Nat) (b : Bytes) : List (Nat × Bytes) → List (Nat × Bytes)
  | [] => [(k, b)]
  | (j, c) :: l => if k < j then (k, b) :: (j, c) :: l else (j, c) :: insertKey k b l

/-- The events of the cycle enter the sheet. -/
def csFlush (s : State) : State :=
  let sorted := s.csPend.foldl (fun l e => insertKey e.1 e.2 l) []
  sorted.foldl (fun s e => csWrite s e.2) { s with csPend := [] }

/-- A fault record (16: R392). -/
structure Rcd where
  det : Nat
  sev : Nat
  part : Nat
  ukind : Nat
  unit : Nat
  code : Nat := 0
  detail : Nat := 0
  addr : Nat := 0
  tid : Nat := 0
  iter : Nat := 0
  val : Nat := 0
  pc : Nat := 0
  deriving DecidableEq, Repr

def rcdBytes (s : State) (r : Rcd) : Bytes :=
  natLe 8 (r.det % 256 + r.sev * 2 ^ 8 + r.part * 2 ^ 10 + r.ukind * 2 ^ 16 + r.unit * 2 ^ 24
      + r.code * 2 ^ 32 + r.detail * 2 ^ 48)
    ++ natLe 8 s.wcc ++ natLe 8 (s.sccOf r.part) ++ natLe 6 r.addr ++ natLe 2 r.tid
    ++ natLe 4 (r.iter % 2 ^ 24) ++ natLe 8 r.val ++ natLe 4 r.pc ++ natLe 16 0

/-- FPIN with its pin copies FP and WP recomputed (16: R397). -/
def fpinSettle (v : Nat) : Nat :=
  let fp := if bits v 24 20 ≠ 0 then 1 else 0
  let wp := if bits v 12 8 ≠ 0 then 1 else 0
  setBits (setBits v 1 1 fp) 0 0 wp

/-- The pin that a severity drives (16: R390, R397). -/
def drivePin (s : State) (sev part : Nat) : State :=
  let pin (i : Nat) : State :=
    { s.setReg offFpin (fpinSettle (setBits (s.reg offFpin) i i 1)) with pinNow := setBits s.pinNow i i 1 }
  if sev = 2 then pin (8 + part)
  else if sev = 3 then
    (if part < 4 then { pin (20 + part) with seqReset := s.seqReset.filter (· ≠ part) } else pin 24)
  else s

/-- A fault record enters the ring of its partition, drives its pin and writes its contact-sheet event; a
record that finds the ring full is lost, and its pin and event are not (16: R392, R393). -/
def record (s : State) (r : Rcd) : State :=
  let off := offFring r.part
  let pub := s.fieldOf off 15 0
  let rel := s.fieldOf off 31 16
  let s := if (pub + 65536 - rel) % 65536 < 256 then
      (bar0Write s (offFrec r.part (pub % 256)) (rcdBytes s r)).setField off 15 0 ((pub + 1) % 65536)
    else s.setField off 63 48 ((s.fieldOf off 63 48 + 1) % 65536)
  let s := drivePin s r.sev r.part
  csEvent s 1 r.part 0 r.unit (r.det + r.code * 2 ^ 16) (s.fieldOf off 15 0)

/-! The state of ring n and of trigger record i of partition p and of core g's walker, as error correction numbers it -/

def ctlRing (p n : Nat) : Nat := 256 * p + n
def ctlTrig (p i : Nat) : Nat := 1024 + 256 * p + i
def ctlWalker (g : Nat) : Nat := 2048 + g

/-- The state of a ring unit, of a trigger table or of a walker is used: an error of one bit is corrected and recorded, one
of two bits is recorded as fatal (16: R391, DET 3). The unit that the record names, and that the use goes on, are the model's
choice (log entry 115). -/
def ctlUse (s : State) (key p ukind unit : Nat) : State :=
  let r : Rcd := { det := 3, sev := 0, part := p, ukind := ukind, unit := unit }
  match sget 0 s.ctlEcc key with
  | 0 => s
  | 1 => record { s with ctlEcc := erase s.ctlEcc key } r
  | _ => record s { r with sev := 3 }

/-! ### Causes (16: R394) -/

def causeCode (c : Cause) : Nat :=
  match c with
  | .lockstep => 1 | .pipeErr => 2 | .eccUncorr => 3 | .illegalOp => 4 | .illegalOperand => 5
  | .illegalExt => 6 | .bounds => 7 | .tagMismatch => 8 | .regDrowsy => 9 | .regGated => 10
  | .sparseMeta => 11 | .phaseOverlap => 12 | .race => 13 | .dramTiming => 14 | .awaitBudget => 15
  | .holdBudget => 16 | .swTrap => 17 | .sched => 18

/-- The detector of a cause (16: R391); 0 for a software trap, which no detector raises. -/
def causeDet (c : Cause) : Nat :=
  match c with
  | .lockstep => 6 | .pipeErr => 1 | .eccUncorr => 3
  | .illegalOp | .illegalOperand | .illegalExt | .bounds | .regDrowsy | .regGated | .sparseMeta => 15
  | .tagMismatch => 7 | .phaseOverlap => 8 | .race => 10 | .dramTiming => 9 | .awaitBudget => 12
  | .holdBudget => 11 | .swTrap => 0 | .sched => 18

/-- The task identifier that core g runs, and its iteration. -/
def State.tidOf (s : State) (g : Nat) : Nat :=
  match (s.core g).task with
  | some t => (s.task t).tid
  | none => 0

/-- The fault record of a cause in core g, with severity R (16: R391, R392). -/
def causeRecord (s : State) (g : Nat) (c : Cause) (detail val pc sev : Nat) : State :=
  let addr := if c = .bounds || c = .eccUncorr || c = .race || c = .phaseOverlap then val % 2 ^ 48 else 0
  record s {
      det := causeDet c, sev := sev, part := s.partOfCore g, ukind := 0, unit := g,
      code := causeCode c, detail := detail, addr := addr, tid := s.tidOf g, iter := (s.core g).iter,
      val := val, pc := pc }

/-- The record of a cause that a detector raises. PIPE_ERR arises only where DIAGINJ has injected it (16: R399). -/
def recordCause (s : State) (g : Nat) (c : Cause) (detail val pc sev : Nat) : State :=
  if causeDet c = 0 then s else causeRecord s g c (if c = .pipeErr then 0xD1A6 else detail) val pc sev

/-- A software trap, which no detector raises, is a record too where another cause of its cycle is held instead of it
(16: R394). The core holds x; `takes` says that the new cause is held now. -/
def recordLost (s : State) (g : Nat) (x : Core) (same takes : Bool) (cause : Cause) (detail val pc : Nat) : State :=
  let held := csrNat x.k csrTrapcause
  if same && takes && held % 65536 = causeCode .swTrap then
    causeRecord s g .swTrap (bits held 47 32) (csrNat x.k csrTrapval) (csrNat x.k csrTrappc) 1
  else if same && !takes && causeDet cause = 0 then causeRecord s g cause detail val pc 1
  else s

/-! ### Landings -/

/-- Work of an actor that is due at the end of cycle `due`. -/
def State.addEff (s : State) (a : Actor) (due : Nat) (org : Origin) (e : Eff) : State :=
  let l : Landing := { due := due, id := s.effNo, org := org, eff := e }
  let s := { s with effNo := s.effNo + 1 }
  match a with
  | .core g _ => s.modCore g fun c => { c with pend := c.pend ++ [l] }
  | .lbp n => s.setLbp n { s.lbp n with pend := (s.lbp n).pend ++ [l] }
  | _ => { s with mgmtPend := s.mgmtPend ++ [l] }

def State.pendOf (s : State) (a : Actor) : List Landing :=
  match a with
  | .core g _ => (s.core g).pend
  | .lbp n => (s.lbp n).pend
  | .dcs _ => []
  | .mgmt => s.mgmtPend

/-! ### Taking a trap (16: R394, R395; 07: R198) -/

/-- TRAPCAUSE for a cause (16: R394). ACT is 0 at a new trap. -/
def trapcauseOf (brk remote : Bool) (orig : Nat) (q : SeqId) (detail code : Nat) : Nat :=
  code + detail * 2 ^ 32 + seqNum q * 2 ^ 50 + orig * 2 ^ 52 + (if remote then 2 ^ 60 else 0)
    + (if brk then 2 ^ 61 else 0)

/-- Another sequencer of the core, or the trapping one, is in timed code (16: R395). -/
def coreTimed (c : Core) : Bool := allSeq.any fun q => inTimed (c.seqr q)

/-- The break of core g's domain by a cause taken in cycle c: the task breaks, and its members stop after
c + λ (16: R395). -/
def startBreak (s : State) (g c : Nat) : State :=
  match (s.core g).task with
  | none => s
  | some t =>
    let k := s.task t
    if k.broken then s.setTask t { k with brkOrig := if g < k.brkOrig then g else k.brkOrig }
    else
      let s := s.setTask t { k with broken := true, brkOrig := g, dead := [] }
      s.modCore g fun x => { x with trap := { x.trap with breakAt := some (c + levLatency k.dlev + 1) } }

/-- The ask for a walker action: ACT of a core whose handler has issued ERET, or whose trap in the handler
forces 3 (16: R396). -/
def askAction (s : State) (g act : Nat) : State :=
  match (s.core g).task with
  | none => s
  | some t => s.modTask t fun k => { k with dead := sset 0 k.dead g (act + 1) }

/-- TRAPCAUSE, TRAPPC and TRAPVAL of K as a trap writes them (16: R394). -/
def trapCsrs (k : Seqr) (cause pc : Nat) (val : DWord) : Seqr :=
  setCsr (setCsrNat (setCsrNat k csrTrapcause cause) csrTrappc (pc % 2 ^ 32)) csrTrapval val

/-- Those three as what hardware has set in the cycle: it comes after a CSR instruction's write of the same cycle
(07: R193). -/
def trapSets (cause pc : Nat) (val : DWord) : List (Nat × Nat × Nat) :=
  [(csrTrapcause, 2 ^ 64 - 1, cause), (csrTrappc, 2 ^ 64 - 1, pc % 2 ^ 32), (csrTrapval, 2 ^ 64 - 1, val.toNat)]

/-- One such field of K's CSRs. -/
def hwField (k : Seqr) (e : Nat × Nat × Nat) : Seqr :=
  let old := csrNat k e.1
  setCsrNat k e.1 ((old - (old &&& e.2.1)) ||| (e.2.2 &&& e.2.1))

/-- What CSRs ns of the core's K held at the start of the cycle, in which hardware changes them, is kept for what reads them in
it (07: R195). -/
def Core.keepWas (x : Core) (ns : List Nat) : Core :=
  { x with csrWas := ns.foldl (fun m n => if (look m n).isSome then m else insert m n (getCsr x.k n)) x.csrWas }

/-- Hardware sets bits hi to lo of CSR n of the core's K to v. -/
def Core.hwSet (x : Core) (n hi lo v : Nat) : Core :=
  let e := (n, (2 ^ (hi + 1 - lo) - 1) * 2 ^ lo, v * 2 ^ lo)
  { x.keepWas [n] with k := hwField x.k e, hwCsr := x.hwCsr ++ [e] }

/-- Hardware writes TRAPCAUSE, TRAPPC and TRAPVAL of the core. -/
def Core.hwTrap (x : Core) (cause pc : Nat) (val : DWord) : Core :=
  { x.keepWas [csrTrapcause, csrTrappc, csrTrapval] with k := trapCsrs x.k cause pc val, hwCsr := x.hwCsr ++ trapSets cause pc val }

/-- TRAPCAUSE of the core says that its domain has broken. -/
def markBreak (x : Core) : Core :=
  { x.hwSet csrTrapcause 61 61 1 with trap := { x.trap with brk := true } }

/-- Core g takes a cause in cycle c (16: R394, R395, R396; 07: R198). No sequencer issues after c; TRAPCAUSE, TRAPPC
and TRAPVAL are written; K enters the handler in cycle c + 2, or once the core's results have landed. Of several
causes of one cycle the lowest code is held, and each other one is a record. The domain breaks where the trapping
sequencer, or another one of the core, is in timed code. A cause raised in K while the handler runs stops the core
and applies ACT = 3; any other cause of a core that has stopped is a record. -/
def takeTrap (s : State) (g c : Nat) (cause : Cause) (detail : Nat) (val : DWord) (q : SeqId)
    (pc : Nat) (timed : Bool) (sev : Nat := 1) : State :=
  let x := s.core g
  let code := causeCode cause
  let same := x.trap.stopAfter = some c && !x.trap.inHandler
  let takes := x.trap.stopAfter.isNone || (same && code < csrNat x.k csrTrapcause % 65536)
  let brk := timed || ((same || x.trap.stopAfter.isNone) && coreTimed x)
  let s := recordLost (recordCause s g cause detail val.toNat pc sev) g x same takes cause detail val.toNat pc
  if takes then
    let held := trapcauseOf (brk || x.trap.brk) false g q detail code
    let tr := { x.trap with stopAfter := some c, handlerAt := some (c + 2), brk := brk || x.trap.brk, before := if cause = .swTrap then some s.cycleNo else none }
    let s := s.modCore g fun x => { x.hwTrap held pc val with trap := tr }
    if brk then startBreak s g c else s
  else if x.trap.inHandler && q = .k && !x.trap.handlerDone then
    let s := s.modCore g fun x => { x with trap := { x.trap with handlerDone := true } }
    askAction (startBreak s g c) g 3
  else if brk then startBreak (s.modCore g markBreak) g c
  else s

/-- K enters the handler (16: R395; 07: R198): KEPC names the instruction that K would have issued next, and K goes
on at TVEC, tokened. -/
def enterHandler (s : State) (g : Nat) : State :=
  let now := s.sccOf (s.partOfCore g)
  let s := s.modCore g fun x =>
    let k := setCsrNat x.k csrKepc (x.k.pc % 2 ^ 32)
    { x with
      k := { k with run := true, pc := csrNat x.k csrTvec, nextAt := now, park := none, spin := none, qual := none, blocked := false }
      trap := { x.trap with inHandler := true, handlerAt := none, kRun := x.k.run, kQual := x.k.qual } }
  s.noteMove g false [.k]

/-- A sequencer goes on after the trap, no earlier than cycle c. -/
def goOn (c : Nat) (q : Seqr) : Seqr := { q with nextAt := max q.nextAt c, blocked := false }

/-- The core resumes after the handler (07: R198): K at KEPC, the sequencer named in TRAPCAUSE at TRAPPC, the others
where they stopped. A QUAL goes on to govern the instruction that it qualified. -/
def resumeCore (s : State) (g : Nat) : State :=
  let c := s.sccOf (s.partOfCore g) + 1
  let s := s.modCore g fun x =>
    let who := seqOfNum (bits (csrNat x.k csrTrapcause) 51 50)
    let to_ := csrNat x.k csrTrappc
    let x := { x with
      k := { x.k with run := x.trap.kRun, pc := csrNat x.k csrKepc, qual := x.trap.kQual }
      trap := {} }
    let x := x.modSeqr who fun q => { q with pc := to_, qual := if q.pc = to_ then q.qual else none }
    { x with k := goOn c x.k, l := goOn c x.l, c := goOn c x.c, s := goOn c x.s }
  s.noteMove g false allSeq

/-- A unit without a handler stops (18: R431). A DCS breaks the domain of its task, unless that has broken already. -/
def stopUnit (s : State) (a : Actor) (cause : Cause) (detail : Nat) (val : DWord) (pc : Nat) : State :=
  match a with
  | .core _ _ => s
  | .lbp n =>
    let s := s.setSeqr a { s.seqr a with run := false }
    let s := s.setLbp n { s.lbp n with stopped := true }
    record s {
        det := causeDet cause, sev := 2, part := s.partOf a, ukind := 1, unit := n,
        code := causeCode cause, detail := detail, val := val.toNat, pc := pc }
  | .mgmt =>
    let s := s.setSeqr a { s.seqr a with run := false }
    record s {
        det := causeDet cause, sev := 3, part := 4, ukind := 9, unit := 0,
        code := causeCode cause, detail := detail, val := val.toNat, pc := pc }
  | .dcs h =>
    let d := s.dcsAt h
    let c := s.now a
    let tid := match d.task with
      | some t => (s.task t).tid
      | none => 0
    let s := s.setDcs h { d with seqr := { d.seqr with run := false }, closing := [0, 1] }
    let sev := if cause = .dramTiming then 2 else 1
    let s := if cause = .dramTiming then
        s.setField (offDcs h rDcsflt) 8 0 (256 + detail)
      else s
    let s := record s {
        det := causeDet cause, sev := sev, part := s.partOf a, ukind := 2, unit := h,
        code := causeCode cause, detail := detail, tid := tid, val := val.toNat, pc := pc }
    match d.task with
    | none => s
    | some t =>
      let k := s.task t
      let orig := 0x80 + h
      if k.broken then s
      else
        let s := s.setTask t { k with
          broken := true, brkOrig := orig, dead := [], brkCause := (trapcauseOf true true orig .k detail (causeCode cause), pc, val) }
        s.modCore (k.members.headD 0) fun x => { x with trap := { x.trap with breakAt := some (c + levLatency k.dlev + 1) } }

/-- A cause in any unit: a tile core traps, another unit stops. What a checking core detects is its leading core's to take
(02: R66; log entry 64). -/
def raise (s : State) (a : Actor) (cause : Cause) (detail : Nat) (val : DWord) (pc : Nat) (timed : Bool) :
    State :=
  match a with
  | .core g q => if s.checker g then s else takeTrap s g (s.now a) cause detail val q pc timed
  | _ => stopUnit s a cause detail val pc

/-! ### Lockstep (01: R27; 16: R391, R402) -/

/-- The compare of the pair of leading core g fails in this cycle: both cores trap, SAFE_WARN_N is driven, and a second
mismatch of an iteration that has been replayed is fatal. -/
def lockTrap (s : State) (g : Nat) (org : Origin) (val : DWord) : State :=
  let x := s.core g
  let fatal := decide (1 ≤ x.misses) && decide (1 ≤ x.replays)
  let s := s.modCore g fun x => { x with misses := x.misses + 1 }
  let s := takeTrap s g (s.sccOf (s.partOfCore g)) .lockstep 0 val org.q org.pc org.timed (if fatal then 3 else 1)
  let s := if fatal then s else drivePin s 2 (s.partOfCore g)
  s.modCore (g + 1) fun y => y.hwTrap (csrNat (s.core g).k csrTrapcause) org.pc val

/-- The first of what the leading core shows that the checking core does not have. -/
def firstDiff (mine own : List DWord) : DWord := ((mine.zip own).find? fun p => p.1 ≠ p.2).map (·.1) |>.getD (mine.headD 0)

/-- A checking core's sequencer q placed as its leading core's was. -/
def placeSeqr (full : Bool) (old new : Seqr) : Seqr :=
  if full then { new with run := false, spill := old.spill }
  else { old with run := false, pc := new.pc, base := new.base, len := new.len, segs := new.segs, loops := new.loops, qual := new.qual, csr := new.csr }

/-- The checking core of leading core g places its sequencers. -/
def checkMove (s : State) (g : Nat) (e : Trail) : State :=
  let s := s.modCore g fun x => { x with trail := x.trail.tail }
  s.modCore (g + 1) fun y => e.move.foldl (fun y m => y.modSeqr m.1 fun q => placeSeqr e.full q m.2)
    { y with trap := { y.trap with inHandler := e.handler } }

/-- The next thing that the checking core of leading core g issues in this cycle. -/
def trailDue (s : State) (g : Nat) : Option Trail :=
  match (s.core g).trail with
  | e :: _ => if e.at_ + 2 ≤ s.sccOf (s.partOfCore g) && !s.held (s.partOfCore g) then some e else none
  | [] => none

/-- What a checking core's sequencer issues in this cycle. -/
def checking (s : State) (a : Actor) : Option Trail :=
  match a with
  | .core g q =>
    if g % 2 = 1 then (match trailDue s (g - 1) with
      | some e => if e.org.q = q then some e else none
      | none => none) else none
  | _ => none

/-- The checking core finds no instruction where its leading core issued one. -/
def checkLost (s : State) (g : Nat) (e : Trail) : State :=
  lockTrap (s.modCore g fun x => { x with trail := x.trail.tail }) g e.org ((e.cmp.getD []).headD 0)

/-- What the pair's bytes show: doublewords, the last one filled with zeros. -/
def dwords (bs : Bytes) : List DWord := (List.range ((bs.length + 7) / 8)).map fun i => BitVec.ofNat 64 (leNat ((bs.drop (8 * i)).take 8))

/-- Leading core g shows data that it has read or pushed in this cycle. -/
def State.show_ (s : State) (g : Nat) (org : Origin) (ds : List Shown) : State :=
  if s.leads g then s.modCore g fun x => { x with shown := x.shown ++ ds.map fun d => (s.sccOf (s.partOfCore g), org, d) } else s

/-- The later entries of an instruction of core g are discarded (17: R476). -/
def dropPushes (s : State) (g : Nat) (org : Origin) : State :=
  let push (e : Eff) : Bool := match e with
    | .push _ _ | .pushTo _ _ | .wrqChunk _ _ _ | .qpop _ _ _ (some _) => true
    | _ => false
  s.modCore g fun x => { x with
    pend := x.pend.filter fun y => !(decide (y.org = org) && push y.eff)
    vops := x.vops.map fun v => if v.org = org then { v with noPush := true } else v }

/-- Data of the vector register file that the pair of leading core g compares in this cycle; the checking core discards the
entries that its leading core has discarded, when it comes to them. -/
def checkShown (s : State) (g : Nat) : State :=
  let now := s.sccOf (s.partOfCore g)
  let due (e : Nat × Origin × Shown) : Bool := decide (e.1 + 2 ≤ now) && (match e.2.2 with
    | .vrf _ _ => true
    | .entry _ _ | .recs _ | .gone => decide (e.1 + 2 < now))
  let ds := (s.core g).shown.filter due
  if ds.isEmpty then s
  else
    let s := s.modCore g fun x => { x with shown := x.shown.filter fun e => !due e }
    ds.foldl (fun s e => match e.2.2 with
      | .vrf lo bs =>
        let own := (s.core (g + 1)).vrf.read lo bs.length
        if own = bs then s else lockTrap s g e.2.1 (firstDiff (dwords bs) (dwords own))
      | .gone => dropPushes s (g + 1) { e.2.1 with at_ := e.2.1.at_ + 2 }
      | .entry _ _ | .recs _ => s) s

/-- What is shown, as doublewords. -/
def Shown.words : Shown → List DWord
  | .vrf _ bs => dwords bs
  | .entry _ e => dwords (e.data.read 0 1024)
  | .recs l => l.flatMap fun (r : BitVec 128) => [r.setWidth 64, (r >>> 64).setWidth 64]
  | .gone => []

/-- Two entries of one queue, or two records of the deferral queue. -/
def Shown.meets : Shown → Shown → Bool
  | .entry n _, .entry m _ => decide (n = m)
  | .recs _, .recs _ => true
  | _, _ => false

/-- What a vector instruction of checking core g pushes is compared with its leading core's, and goes no further. -/
def checkPush (s : State) (g : Nat) (org : Origin) (d : Shown) : State :=
  let hit (x : Nat × Origin × Shown) : Bool :=
    decide (x.1 + 2 = s.sccOf (s.partOfCore g)) && decide (x.2.1.q = org.q) && x.2.2.meets d
  match (s.core (g - 1)).shown.find? hit with
  | some e =>
    let s := s.modCore (g - 1) fun x => { x with shown := x.shown.erase e }
    if e.2.2 = d then s else lockTrap s (g - 1) e.2.1 (firstDiff e.2.2.words d.words)
  | none => lockTrap s (g - 1) org 0

/-- Both cores of the pair of leading core g load what has been restored (02: R66). -/
def loadChecker (s : State) (g : Nat) : State :=
  if s.leads g then
    let x := s.core g
    s.modCore (g + 1) fun y => { y with
      k := { x.k with run := false }, l := { x.l with run := false }, c := { x.c with run := false }
      s := { x.s with run := false }, vrf := x.vrf, masks := x.masks, pend := [], vops := [] }
  else s

end Sys2Proof.Machine
end

