-- ==== Sys2Proof/Machine/Issue.lean ====
section
/-! DEFINITION. How any instruction issues (02: R33, R35, R37, R68; 04: R110; 07: R176, R186 to R189; 18:
R428, R430): the tokens it waits for and signals, the readiness of its registers in tokened code, the
schedule faults of timed code, its suppression under QUAL, the place and the cycle of the next instruction,
and the end of a loop trip. A meaning of an instruction is one call of `issue`. -/

namespace Sys2Proof.Machine

/-! ### The sequencer that issues -/

/-- The sequencer of an actor, as a tile core numbers its own; K stands for a unit that has one. -/
def seqOf (a : Actor) : SeqId :=
  match a with
  | .core _ q => q
  | _ => .k

/-- The next instruction of an actor belongs to timed code. A trap handler is tokened (07: R198). -/
def State.timedOf (s : State) (a : Actor) : Bool :=
  match a with
  | .core g .k => !(s.core g).trap.inHandler && timedAt (s.core g).k (s.core g).k.pc
  | .core g q => timedAt ((s.core g).seqr q) ((s.core g).seqr q).pc
  | .dcs h => timedAt (s.dcsAt h).seqr (s.dcsAt h).seqr.pc
  | .lbp _ => false
  | .mgmt => false

/-- The core lets sequencer q issue in cycle c: it is not stopped by a trap or a debugger (07: R198, R199),
or q is K in the handler. -/
def Core.mayRun (x : Core) (q : SeqId) (c : Nat) : Bool :=
  if x.frozen || decide (x.safept = some 0) || (match x.trap.dbgStop with
    | some e => decide (e < c)
    | none => false) then false
  else if x.trap.inHandler then decide (q = .k) && !x.trap.handlerDone
  else match x.trap.stopAfter with
    | some e => decide (c ≤ e)
    | none => true

/-- The unit of an actor is not stopped and its partition is not held (02: R39). -/
def State.unitRuns (s : State) (a : Actor) : Bool :=
  match a with
  | .core g q => !s.held (s.partOfCore g) && (s.core g).mayRun q (s.now a)
  | .dcs _ => !s.held (s.partOf a)
  | _ => true

/-- K waits at a tokened PHASE until the phase change (10: R275). -/
def State.phaseHolds (s : State) (a : Actor) : Bool :=
  match a with
  | .core g .k => (s.core g).phHold && !(s.core g).trap.inHandler
  | _ => false

/-- The sequencer may issue in this cycle. -/
def State.canIssue (s : State) (a : Actor) : Bool :=
  let q := s.seqr a
  q.run && q.park.isNone && decide (q.nextAt ≤ s.now a) && s.unitRuns a && !s.phaseHolds a

/-- Where an instruction of the actor comes from. -/
def State.origin (s : State) (a : Actor) (i : Instr) : Origin :=
  ⟨seqOf a, (s.seqr a).pc, (encode i).headD 0, s.timedOf a, s.now a⟩

/-- The length of an instruction in bytes. -/
def lenOf (i : Instr) : Nat := 4 * (encode i).length

/-! ### Tokens (02: R32, R33; 04: R110) -/

def predOf (q : SeqId) : SeqId :=
  match q with
  | .k => .s
  | .l => .k
  | .c => .l
  | .s => .c

def succOf (q : SeqId) : SeqId :=
  match q with
  | .k => .l
  | .l => .c
  | .c => .s
  | .s => .k

/-- The greater of two bounds, by sequencer. -/
def joinAfter (a b : SMap Nat) : SMap Nat :=
  b.foldl (fun m e => sset 0 m e.1 (max (sget 0 m e.1) e.2)) a

/-- One token taken from a queue: what its signaller's accesses were numbered up to. -/
def takeTok (t : List (SMap Nat)) (after : SMap Nat) : List (SMap Nat) × SMap Nat :=
  (t.tail, joinAfter after (t.headD []))

/-- The number of sequencer q of core g among the agents of the race detector (16: R403). -/
def seqAgent (g : Nat) (q : SeqId) : Nat := 1 + 4 * g + seqNum q

/-- What a token carries of its signaller's accesses, and of its `clock`. -/
def tokAccesses (t : SMap Nat) : SMap Nat := t.filter fun e => e.1 < 1000
def tokClock (t : SMap Nat) : SMap Nat := (t.filter fun e => 1000 ≤ e.1).map fun e => (e.1 - 1000, e.2)

/-- The waits of the nibble act: tokens leave the queues, later accesses follow the signallers' earlier ones, and the
signallers' releases are observed (04: R110; 16: R403). -/
def consume (h : Hdr) (a : Actor) (s : State) : State :=
  let q := s.seqr a
  let p := if h.wp then takeTok q.tokP q.after else (q.tokP, q.after)
  let n := if h.wn then takeTok q.tokN p.2 else (q.tokN, p.2)
  if h.wp || h.wn then s.setSeqr a { q with
    tokP := p.1, tokN := n.1, after := tokAccesses n.2, clock := joinAfter q.clock (tokClock n.2), syncs := q.syncs + 1 } else s

/-- Each queue that the nibble waits on holds a token. -/
def tokensThere (h : Hdr) (q : Seqr) : Bool := (!h.wp || !q.tokP.isEmpty) && (!h.wn || !q.tokN.isEmpty)

/-- The token queue that a signal of core g's sequencer q goes to: SP to the predecessor's N-queue, SN to
the successor's P-queue. -/
def targetQueue (s : State) (a : Actor) (sn : Bool) : List (SMap Nat) :=
  match a with
  | .core g q => if sn then ((s.core g).seqr (succOf q)).tokP else ((s.core g).seqr (predOf q)).tokN
  | _ => []

/-- Each queue that the nibble signals holds at most 14 tokens. -/
def signalsFit (s : State) (h : Hdr) (a : Actor) : Bool :=
  (!h.sp || decide ((targetQueue s a false).length ≤ 14)) && (!h.sn || decide ((targetQueue s a true).length ≤ 14))

/-- A sequencer is kept until the others of its core have issued. -/
def Seqr.isKept (q : Seqr) : Bool :=
  match q.turn with
  | .kept _ => true
  | _ => false

/-- The sequencer of an actor may still issue in this cycle. -/
def mayStill (s : State) (a : Actor) : Bool := s.canIssue a && (!(s.seqr a).blocked || (s.seqr a).isKept)

/-- The sequencers whose queues the nibble signals and finds full. -/
def fullTargets (s : State) (h : Hdr) (a : Actor) : List SeqId :=
  match a with
  | .core _ q =>
    (if h.sp && decide (14 < (targetQueue s a false).length) then [predOf q] else []) ++
      (if h.sn && decide (14 < (targetQueue s a true).length) then [succOf q] else [])
  | _ => []

/-- What others of its core issue in this cycle is not to be waited for any more. -/
def Seqr.denied (q : Seqr) : Bool := decide (q.turn = .denied)

/-- The owners of the full targets may still issue in this cycle, and their waits would make room (02: R33). -/
def ownersMayWait (s : State) (h : Hdr) (a : Actor) : Bool :=
  match a with
  | .core g _ => !(s.seqr a).denied && (fullTargets s h a).all fun t => mayStill s (.core g t)
  | _ => false

/-- The signals of the nibble enter their queues at the end of the cycle, for the sequencer's accesses up to number acc, those
before the signalling instruction (04: R110). The sequencers of LBPs and DCSs and the
management controller have no queues: what their nibbles signal is lost, and a wait there finds no token (log entry 86). -/
def signal (h : Hdr) (a : Actor) (org : Origin) (acc : Nat) (s : State) : State :=
  match a with
  | .core g q =>
    let y := s.seqr a
    let upTo := sset 0 y.after (seqNum q) acc ++ (sset 0 y.clock (seqAgent g q) acc).map fun e => (e.1 + 1000, e.2)
    let s := if h.sp then s.addEff a (s.now a) org (.tokN (predOf q) upTo) else s
    if h.sn then s.addEff a (s.now a) org (.tokP (succOf q) upTo) else s
  | _ => s

/-- The lowest DETAIL of R406 that the nibble meets in timed code. -/
def tokenSched (s : State) (h : Hdr) (a : Actor) : Option Nat :=
  let q := s.seqr a
  if h.wp && q.tokP.isEmpty then some 1
  else if h.wn && q.tokN.isEmpty then some 2
  else if !signalsFit s h a then some 3
  else none

/-! ### Registers with a result still pending (07: R176) -/

/-- The codes from c on. -/
def codesFrom (c : Code) (n : Nat) : List Code := (List.range n).map fun j => c + BitVec.ofNat 6 j

/-- The scalar registers an instruction reads. -/
def readRegs (i : Instr) : List Code :=
  ((fields i).filter fun f => decide (f.cls = .sr) || decide (f.cls = .srw)).map (·.code) ++
  match i with
  | .loop _ _ nstr _ sb _ => codesFrom sb nstr.toNat
  | .push _ o _ => codesFrom o.a 8
  | .vld _ _ x | .rdq _ _ x | .lblk _ _ x => if x.tg then codesFrom x.tr 2 else []
  | _ => []

/-- The scalar registers an instruction writes. -/
def writeRegs (i : Instr) : List Code :=
  ((fields i).filter fun f => decide (f.cls = .sw) || decide (f.cls = .srw)).map (·.code) ++
  match i with
  | .jal _ _ => [38]
  | .pop _ d _ => [d + 1]
  | _ => []

/-- The latency of a result that no address decides (07: R176; 10: R271, R280, R281; 12: R335); none where the entry itself gives
the landing. -/
def scalarLat (i : Instr) : Option Nat :=
  match i with
  | .mul _ _ | .mulh _ _ | .mulhu _ _ => some 3
  | .div _ _ | .divu _ _ | .rem _ _ | .remu _ _ => some 20
  | .add _ _ | .sub _ _ | .and _ _ | .or _ _ | .xor _ _ | .shl _ _ | .shr _ _ | .sra _ _
  | .addi _ _ _ | .andi _ _ _ | .ori _ _ _ | .xori _ _ _ | .shli _ _ _ | .shri _ _ _ | .srai _ _ _
  | .lim _ _ _ | .limX _ _ _ _ | .lih _ _ _ _ | .mov _ _ _ | .min _ _ | .max _ _ | .minu _ _ | .maxu _ _
  | .clz _ _ _ | .ctz _ _ _ | .popc _ _ _ | .bext _ _ _ _ _ | .bins _ _ _ _ | .seq _ _ | .sne _ _
  | .slt _ _ | .sltu _ _ | .sel _ _ _ | .spld _ _ _ | .csrr _ _ _ | .rdclk _ _ _ | .jal _ _
  | .push _ _ _ | .pop _ _ _ | .lbst _ _ _ | .rowinWait _ _ _ | .rowinCnt _ _ => some 1
  | _ => none

/-- The scalar register that a memory access writes. -/
def MemOp.dest (m : MemOp) : Option Code :=
  match m with
  | .load d _ _ => some d
  | .rmw d _ _ _ _ _ _ => some d
  | .ring _ _ _ d => some d
  | _ => none

/-- What a landing writes to scalar registers of sequencer q, and when; no cycle where it is not known. -/
def landingReg (q : SeqId) (l : Landing) : List (Code × Option Nat) :=
  match l.eff with
  | .reg r d _ => if r = q then [(d, some l.due)] else []
  | .cqPop r d _ => if r = q then [(d, some l.due), (d + 1, some l.due)] else []
  | .perform m => if l.org.q = q then m.dest.toList.map fun d => (d, none) else []
  | _ => []

/-- The scalar register that a vector instruction in flight writes. -/
def vopReg (v : VOp) : Option Code := ((fields v.i).find? fun f => decide (f.cls = .sw)).map (·.code)

/-- The registers of an actor with a result still pending, each with the cycle at whose end it lands. -/
def State.pendingRegs (s : State) (a : Actor) : List (Code × Option Nat) :=
  (s.pendOf a).flatMap (landingReg (seqOf a)) ++
  (s.reqs.filter fun r => decide (r.own = a)).filterMap (fun r => r.op.dest.map fun d => (d, none)) ++
  (match a with
   | .core g .c => (s.core g).vops.filterMap fun v => (vopReg v).map fun d => (d, some v.due)
   | .lbp n => (s.lbp n).vops.filterMap fun v => (vopReg v).map fun d => (d, some v.due)
   | _ => [])

/-- A result of register d that lands at the end of cycle e lands after every result pending for d. -/
def landsLast (ps : List (Code × Option Nat)) (d : Code) (e : Nat) : Bool :=
  ps.all fun p => p.1 ≠ d || d = 39 || (match p.2 with
    | some x => decide (x < e)
    | none => false)

/-- Register d has no result pending. -/
def regReady (ps : List (Code × Option Nat)) (d : Code) : Bool := d = 39 || ps.all fun p => p.1 ≠ d

/-- The registers that a tokened instruction reads can be read, and its own fixed-latency results would land
after every result pending for their registers (02: R37; 07: R176). -/
def regsReady (s : State) (a : Actor) (i : Instr) : Bool :=
  let ps := s.pendingRegs a
  (readRegs i).all (regReady ps) &&
  (match scalarLat i with
   | some l => (writeRegs i).all fun d => landsLast ps d (s.now a + l - 1)
   | none => true)

/-! ### What a meaning answers -/

/-- Where the instruction stream goes on. -/
inductive Flow where
  | seq                    -- at the next word
  | branch (t : Int)       -- a branch taken, to byte offset t
  | jump (t : Int)         -- a jump to byte offset t
  | goto (t : Nat)         -- at byte offset t, where a loop goes on
  | idle (n : Nat)         -- at the next word, n cycles later
  | qual (b : Bool)        -- at the next word, whose instruction is executed when b
  | trap (code : Nat)      -- at the next word, once the software trap has been taken (07: R198)
  | halt                   -- nowhere: the stream has ended
  | stay                   -- where the meaning has put it
  deriving DecidableEq, Repr

/-- What an instruction does once nothing keeps it from issuing, or what keeps it. -/
inductive Body where
  | done (s : State) (f : Flow)
  | trap (c : Cause) (detail : Nat) (val : DWord)  -- refused by one of the checks 12 to 15
  | sched (detail : Nat)                           -- refused by the schedule checker, in timed code
  | wait (s : State)                               -- cannot issue in this cycle, in tokened code
  | keep                                           -- other sequencers of the core that may still issue decide it
  deriving DecidableEq, Repr

/-! ### The end of a loop trip (07: R187) -/

/-- The most lately activated level among those named whose body ends in the instruction at pc, of `len`
bytes. -/
def latest (q : Seqr) (pc len : Nat) : List Nat → Option Nat
  | [] => none
  | l :: ls =>
    let x := sget {} q.loops l
    let rest := latest q pc len ls
    if x.act && decide (pc ≤ x.fin ∧ x.fin < pc + len) then
      match rest with
      | some m => if (sget {} q.loops m).ord < x.ord then some l else some m
      | none => some l
    else rest

/-- Ends trips at the instruction at pc, which is followed by `next`: the level, its strides, and the back
edge or the end of the level and then the next level that ends there. Answers the offset that is issued
next, the levels, and the strides in the order they apply. -/
def tripEnd (pc len : Nat) : Nat → Seqr → Nat → List (BitVec 5 × BitVec 56) →
    Nat × Seqr × List (BitVec 5 × BitVec 56)
  | 0, q, next, st => (next, q, st)
  | fuel + 1, q, next, st =>
    match latest q pc len (List.range 6) with
    | none => (next, q, st)
    | some l =>
      let x := sget {} q.loops l
      if x.trip + 1 < x.n then
        (x.start, { q with loops := sset {} q.loops l { x with trip := x.trip + 1 } }, st ++ x.pairs)
      else
        let y : LoopLev := { x with act := false, trip := 0 }
        tripEnd pc len fuel { q with loops := sset {} q.loops l y } (x.fin + 4) (st ++ x.pairs)

/-! ### Parking on a monitor (02: R68) -/

/-- The sector of an address. -/
def sectorOf (a : Nat) : Nat := a / 64 * 64

/-- A load of tokened code is issued. A trip is judged by its last loads, so that eight are enough to keep. -/
def noteIssue (s : State) (a : Actor) (id addr : Nat) (v : Option DWord := none) : State :=
  s.modSeqr a fun q => { q with loads := q.loads.drop (q.loads.length - 7) ++ [⟨id, q.pc, addr, v⟩] }

/-- The value that a load has returned. -/
def noteValue (s : State) (a : Actor) (id : Nat) (v : DWord) : State :=
  let f (l : List SpinLoad) : List SpinLoad := l.map fun x => if x.id = id then { x with v := some v } else x
  s.modSeqr a fun q => { q with loads := f q.loads, spin := q.spin.map fun x => { x with loads := f x.loads } }

/-- A backward branch of tokened code to offset `top` is taken: whether the sequencer parks, and what it remembers. -/
def noteBack (s : State) (a : Actor) (org : Origin) (top : Nat) : State :=
  let q := s.seqr a
  let now := s.now a
  let body := q.loads.filter fun x => decide (top ≤ x.pc) && decide (x.pc ≤ org.pc)
  let mem : Spin := ⟨q.pc, q.regs, body⟩
  let parks := match q.spin, body with
    | some sp, [ld] => decide (sp.pc = q.pc ∧ sp.regs = q.regs ∧ ld.v.isSome ∧ sp.loads.map (·.v) = [ld.v])
    | _, _ => false
  let q' := { q with spin := some mem, loads := [] }
  match parks, body with
  | true, [ld] =>
    let s := s.setSeqr a { q' with park := some ⟨sectorOf ld.addr, now + 4096⟩ }
    s.addEff a now org (.csrAdd (seqOf a) csrMoncnt)
  | _, _ => s.setSeqr a q'

/-! ### Issue -/

/-- The first cycle in which the instruction at `next` may issue, after one that issued in cycle c with PAD
and idle count d: the first of a timed segment waits for its stamp (02: R35). -/
def nextCycle (q : Seqr) (tsb pc next c pad d : Nat) : Nat :=
  let e := c + 1 + pad + d
  match segAt q.segs next with
  | some g =>
    if g.timed && decide (g.start = next) && decide (segAt q.segs pc ≠ some g) then max e (tsb + g.t0) else e
  | none => e

/-- The quarter-slot of a word 0 that is a DRAM command for the pins (11: R300, R303). -/
def pinQuarter (w : Nat) : Option Nat := if bits w 24 18 = 0x7A && bits w 17 14 ≤ 8 then some (bits w 13 12) else none

/-- The DRAM command at `next` issues in the same cycle as the pin command i before it (11: R300). -/
def bundles (s : State) (a : Actor) (i : Instr) (next : Nat) : Bool :=
  match a with
  | .dcs h =>
    let q := (s.dcsAt h).seqr
    let w := ((encode i).headD 0).toNat
    let v := (if h < 8 then s.view0 else s.view1).nat (q.base + next) 4
    (match pinQuarter w, pinQuarter v with
     | some x, some y => bits w 31 26 = 0 && x < y && next < q.len && !(q.segs.any fun g => g.start = next)
     | _, _ => false)
  | _ => false

/-- TSB as the actor's stamps count from it. An actor without a task, an LBP or the management controller, counts from 0 (07:
R192; the model's choice, log entry 92). -/
def State.tsbOf (s : State) (a : Actor) : Nat :=
  match a with
  | .core g _ => (s.core g).tsb
  | .dcs h => (s.dcsAt h).tsb
  | _ => 0

/-- The target of a taken branch or jump. -/
def flowTarget (f : Flow) : Option Int :=
  match f with
  | .branch t => some t
  | .jump t => some t
  | _ => none

/-- A taken target that lies outside the stream (18: R429, BOUNDS 0x0004). -/
def badTarget (q : Seqr) (f : Flow) : Option Int :=
  match flowTarget f with
  | some t => if decide (t < 0) || decide ((q.len : Int) ≤ t) then some t else none
  | none => none

/-- A store, a queue write or an engine command: what the pair of a lockstep cluster compares (01: R27). -/
def isCompared (i : Instr) : Bool :=
  let op := bits ((encode i).headD 0).toNat 24 18
  (0x50 ≤ op && op ≤ 0x5B && op ≠ 0x5A) || (0x64 ≤ op && op ≤ 0x67) || op = 0x69 || (0x6B ≤ op && op ≤ 0x6D) ||
    op = 0x75 || op = 0x78

/-- The operands by which the pair compares an instruction that a sequencer issues. -/
def compared (q : Seqr) (i : Instr) : Option (List DWord) :=
  if q.qual ≠ some false && isCompared i then some ((readRegs i).map (readS q)) else none

/-- What a leading core issues, its checking core issues 2 sc later (02: R66). -/
def noteTrail (s : State) (a : Actor) (i : Instr) : State :=
  match a with
  | .core g _ =>
    if s.leads g then s.modCore g fun x => { x with trail := x.trail ++
      [{ at_ := s.now a, org := s.origin a i, cmp := compared (s.seqr a) i }] } else s
  | _ => s

/-- The instruction has issued: the place and the cycle of the next one, the end of loop trips and their
strides. -/
def advance (h : Hdr) (i : Instr) (a : Actor) (f : Flow) (s : State) : State :=
  let q := s.seqr a
  let c := s.now a
  let org := s.origin a i
  let len := lenOf i
  match f with
  | .stay => s
  | .halt => (noteTrail s a i).setSeqr a { q with run := false, pc := q.pc + len, qual := none }
  | _ =>
    let here := match f with
      | .branch t | .jump t => t.toNat
      | .goto t => t
      | _ => q.pc + len
    let (next, q', strides) := tripEnd q.pc len 6 q here []
    let d := match f with
      | .idle n => n
      | _ => 0
    let qual := match f with
      | .qual b => some b
      | _ => none
    let back := match f with
      | .branch t => decide (t ≤ q.pc) && !org.timed
      | _ => false
    let s := (noteTrail s a i).setSeqr a q'
    let s := if back then noteBack s a org here else s
    let s := s.modSeqr a fun q' =>
      { q' with
        pc := next, qual := qual
        nextAt := if bundles s a i next then c else nextCycle q (s.tsbOf a) q.pc next c h.pad.toNat d }
    let s := strides.foldl (fun s p => s.addEff a c org (.regAdd (seqOf a) p.1 (p.2.signExtend 64))) s
    match f with
    | .trap code => raise s a .swTrap code (BitVec.ofNat 64 code) org.pc org.timed
    | _ => s

/-- The instruction was refused with a trap. -/
def refuse (s : State) (a : Actor) (c : Cause) (detail : Nat) (val : DWord) : State :=
  let pc := (s.seqr a).pc
  let timed := s.timedOf a
  let s := s.modSeqr a fun q => { q with nextAt := s.now a + 1 }
  raise s a c detail val pc timed

/-- TRAPVAL of SCHED: word 0 (17: R407). -/
def word0Val (i : Instr) : DWord := ((encode i).headD 0).setWidth 64

/-- The instruction cannot issue in this cycle as things stand. -/
def State.block (s : State) (a : Actor) : State := s.modSeqr a fun q => { q with blocked := true, turn := .free }

/-- Whether it can is left until the others of its core have issued; h is its nibble where only full queues keep it. -/
def State.keep (s : State) (a : Actor) (h : Option Hdr) : State := s.modSeqr a fun q => { q with blocked := true, turn := .kept h }

/-- No sequencer of the core is noted as kept back. -/
def Core.unblock (x : Core) : Core :=
  allSeq.foldl (fun x q => x.modSeqr q fun y => { y with blocked := false, turn := .free }) x

/-- The other sequencers of the core's cluster look again at what kept them (02: R33, R74; 03: R75). -/
def unblock (s : State) (a : Actor) : State :=
  match a with
  | .core g _ => { s with cores := s.cores.map fun e => if e.1 / 4 = g / 4 then (e.1, e.2.unblock) else e }
  | _ => s

/-- A suppressed QUAL suppresses the instruction that it qualifies (07: R188). -/
def suppressedFlow (i : Instr) : Flow :=
  match i with
  | .qualF _ _ => .qual false
  | .qualL _ _ => .qual false
  | _ => .seq

/-- The issue of an instruction that nothing in its nibble or its tokened operands keeps back. One that waits
for another condition takes no token (02: R37). -/
def perform (h : Hdr) (i : Instr) (a : Actor) (b : Body) (s : State) : State :=
  let timed := s.timedOf a
  match b with
  | .wait s' =>
    let q := s.seqr a
    (s'.modSeqr a fun y => { y with
      tokP := q.tokP, tokN := q.tokN, after := q.after, clock := q.clock, syncs := q.syncs }).block a
  | .keep => s.keep a none
  | .trap c d v => refuse s a c d v
  | .sched d =>
    match tokenSched s h a with
    | none => refuse s a .sched d (word0Val i)
    | some t => if t = 3 && ownersMayWait s h a then s.keep a none else refuse s a .sched t (word0Val i)
  | .done s' f =>
    match badTarget (s.seqr a) f with
    | some t => refuse s a .bounds 4 (BitVec.ofInt 64 t)
    | none =>
      let go := unblock (advance h i a f (signal h a (s.origin a i) (s.seqr a).lastAcc s')) a
      match if timed then tokenSched s h a else if signalsFit s h a then none else some 3 with
      | none => go
      | some t =>
        if t = 3 && decide ((s.seqr a).turn = .granted) then go
        else if t = 3 && ownersMayWait s h a then s.keep a (some h)
        else if timed then refuse s a .sched t (word0Val i)
        else s.block a

/-! ### Sequencers that wait for one another in a cycle (02: R33; 10: R281) -/

/-- The nibble of a sequencer that only full token queues keep back. -/
def keptNibble (s : State) (a : Actor) : Option Hdr :=
  match (s.seqr a).turn with
  | .kept h => h
  | _ => none

/-- Of sequencers qs of core g, those that only queues keep back which others of qs make room in by their waits. -/
def circle (s : State) (g : Nat) (qs : List SeqId) : List SeqId :=
  qs.filter fun q => match keptNibble s (.core g q) with
    | none => false
    | some h =>
      let waits (t : SeqId) (w : Hdr → Bool) : Bool := qs.contains t && ((keptNibble s (.core g t)).map w).getD false
      (!(h.sp && decide (14 < (targetQueue s (.core g q) false).length)) || waits (predOf q) (·.wn)) &&
        (!(h.sn && decide (14 < (targetQueue s (.core g q) true).length)) || waits (succOf q) (·.wp))

/-- The sequencers of core g that make room for one another all at once. -/
def granted (s : State) (g : Nat) : List SeqId := circle s g (circle s g (circle s g (circle s g allSeq)))

/-- The sequencers of core g that are kept. -/
def keptSeqs (s : State) (g : Nat) : List SeqId := allSeq.filter fun q => ((s.core g).seqr q).isKept

/-- A kept sequencer for which nothing more is to come of the others: a full queue's owner does not issue; or, where none is
such, one whose operands others decide. -/
def denyFirst (s : State) (g : Nat) : Option SeqId :=
  let ks := keptSeqs s g
  let lost (q : SeqId) : Bool := match keptNibble s (.core g q) with
    | some h => !ownersMayWait s h (.core g q)
    | none => false
  ks.find? lost <|> (ks.find? fun q => (keptNibble s (.core g q)).isNone) <|> ks.head?

/-- The sequencers of core g that wait for one another when no other one issues are looked at again: those that make room for
one another all issue; or else one of them is decided as things stand. -/
def settleKept (s : State) (g : Nat) : State :=
  let turn (t : Turn) (s : State) (q : SeqId) : State := s.modSeqr (.core g q) fun y => { y with blocked := false, turn := t }
  match granted s g with
  | [] => match denyFirst s g with
    | some q => turn .denied s q
    | none => s
  | qs => qs.foldl (turn .granted) s

/-- Where a checking core goes on after an instruction whose result its leading core gives it. -/
def checkFlow (i : Instr) : Flow :=
  match i with
  | .halt _ => .halt
  | _ => .seq

/-- The issue of a checking core's sequencer, 2 sc after its leading core issued e (01: R27; 02: R66). It works on its own
registers and waits for nothing; of what the instruction does, only what lies in the core itself takes effect. The pair
compares operands, and traps where they differ or where the checking core could not issue. -/
def checkIssue (h : Hdr) (i : Instr) (body : State → Body) (a : Actor) (g : Nat) (e : Trail) (s : State) : State :=
  let q := s.seqr a
  let mine := compared q i
  let s := s.modCore g fun x => { x with trail := x.trail.tail }
  let s := if mine = e.cmp then s else lockTrap s g e.org (firstDiff (e.cmp.getD []) (mine.getD []))
  if q.qual = some false then advance h i a (suppressedFlow i) s
  else if byLeader ((encode i).headD 0) then advance h i a (checkFlow i) s
  else match body s with
    | .done t f =>
      if (badTarget q f).isSome then lockTrap s g e.org 0
      else advance h i a f { s.setCore (g + 1) (t.core (g + 1)) with effNo := t.effNo, fresh := t.fresh }
    | _ => lockTrap s g e.org ((e.cmp.getD []).headD 0)

/-- An actor that may not issue by itself: the sequencer of a checking core that follows its leading core, or none. -/
def follow (h : Hdr) (i : Instr) (body : State → Body) (s : State) : Host.Outcome State Fault Refusal :=
  match s.actor, checking s s.actor with
  | .core g q, some e => .next (checkIssue h i body (.core g q) (g - 1) e s)
  | _, _ => .fault .noIssuer

/-- An instruction issues, or is refused, or waits. `body` is its own effect: checks 12 to 15 of R428, the
conditions of R406 and the tokened conditions of its entry, and what it does. -/
def issue (h : Hdr) (i : Instr) (body : State → Body) (s : State) : Host.Outcome State Fault Refusal :=
  let a := s.actor
  if !s.canIssue a then follow h i body s
  else if (s.seqr a).qual = some false then .next (unblock (advance h i a (suppressedFlow i) s) a)
  else if !s.timedOf a && !(tokensThere h (s.seqr a) && regsReady s a i) then
    .next (s.block a)
  else .next (perform h i a (body (consume h a s)) s)

end Sys2Proof.Machine
end

