-- ==== Sys2Proof/Machine/Operands.lean ====
section
/-! DEFINITION. Scalar operands and results: what an instruction reads from its sequencer, a result of a
given latency (07: R175, R176), the shared bodies of scalar instructions, branches and CSR instructions. -/

namespace Sys2Proof.Machine

/-- The sequencer that issues. -/
def State.me (s : State) : Seqr := s.seqr s.actor

/-- The value of scalar register c as the issuing sequencer reads it. -/
def State.rd (s : State) (c : Code) : DWord := readS s.me c

/-- A result of latency lat for scalar register d, from the instruction that the actor issues (07: R176). -/
def State.result (s : State) (i : Instr) (d : Code) (lat : Nat) (v : DWord) : State :=
  s.addEff s.actor (s.now s.actor + lat - 1) (s.origin s.actor i) (.reg (seqOf s.actor) d v)

/-- The body of an instruction whose one effect is a result that its registers give. -/
def aluBody (i : Instr) (d : Code) (lat : Nat) (f : State → DWord) (s : State) : Body :=
  .done (s.result i d lat (f s)) .seq

/-- A two-source scalar instruction. -/
def alu3 (h : Hdr) (i : Instr) (o : A3) (lat : Nat) (f : DWord → DWord → DWord) (s : State) :
    Host.Outcome State Fault Refusal :=
  issue h i (aluBody i o.d lat fun s => f (s.rd o.a) (s.rd o.b)) s

/-- A one-source scalar instruction. -/
def alu2 (h : Hdr) (i : Instr) (d a : Code) (f : DWord → DWord) (s : State) :
    Host.Outcome State Fault Refusal :=
  issue h i (aluBody i d 1 fun s => f (s.rd a)) s

/-- The byte offset that a signed count of words names, from the instruction at pc (06: R154). -/
def wordTarget {n : Nat} (pc : Nat) (off : BitVec n) : Int := (pc : Int) + 4 * off.toInt

/-- A conditional branch. -/
def branchBody {n : Nat} (off : BitVec n) (taken : State → Bool) (s : State) : Body :=
  .done s (if taken s then .branch (wordTarget s.me.pc off) else .seq)

/-! ### CSRs (07: R194, R195) -/

def natOfBool (b : Bool) : Nat := if b then 1 else 0

/-- SEQID (07: R194). -/
def seqidOf (s : State) (a : Actor) : Nat :=
  match a with
  | .core g q => g * 2 ^ 8 + natOfBool (s.checker g) * 4 + seqNum q
  | .lbp n => n * 2 ^ 8 + 1 * 2 ^ 4
  | .dcs h => h * 2 ^ 8 + 2 * 2 ^ 4
  | .mgmt => 3 * 2 ^ 4

/-- VRFPWR's WAKING bits (03: R71). -/
def wakingBits (x : Core) : Nat :=
  (List.range 6).foldl (fun m j => if (look x.wake j).isSome then m + 2 ^ (12 + j) else m) 0

def lactOf (q : Seqr) : Nat :=
  (List.range 6).foldl (fun m j => if (sget {} q.loops j).act then m + 2 ^ j else m) 0

/-- The value that a CSRR of CSR n reads. -/
def csrValue (s : State) (a : Actor) (n : Nat) : DWord :=
  let q := s.seqr a
  if n = csrSeqid then BitVec.ofNat 64 (seqidOf s a)
  else if n = csrTaskid then (match a with
    | .core g _ => BitVec.ofNat 64 (s.tidOf g)
    | _ => 0)
  else if n = csrIter then (match a with
    | .core g _ => BitVec.ofNat 64 (s.core g).iter
    | _ => 0)
  else if n = csrVrfpwr then (match a with
    | .core g _ => BitVec.ofNat 64 (csrNat q n + wakingBits (s.core g))
    | _ => 0)
  else if n = csrPhnum then (match a with
    | .core g _ => BitVec.ofNat 64 ((s.core g).phNum % 2 ^ 32)
    | _ => 0)
  else if csrLtrip 0 ≤ n ∧ n ≤ csrLtrip 5 then BitVec.ofNat 64 (sget {} q.loops (n - csrLtrip 0)).trip
  else if n = csrLact then BitVec.ofNat 64 (lactOf q)
  else match a with
    | .core g .k => (look (s.core g).csrWas n).getD (getCsr q n)
    | _ => getCsr q n

/-- The RW bits of a CSR (07: R194; 03: R71, R75; 08: R202; 16: R394, R399). -/
def csrWritable (n : Nat) : DWord :=
  if n = csrDraw0 ∨ n = csrDraw1 ∨ n = csrMoncnt ∨ n = csrTrapval then BitVec.allOnes 64
  else if n = csrFtv then 0xFF
  else if n = csrVl then 0x3FFF
  else if n = csrVrfpwr then 0xFFF
  else if n = csrQmap then 0x1FF
  else if n = csrBblost then 0xFFFFFFFF
  else if n = csrTvec then 0xFFFFFFFC
  else if n = csrKepc ∨ n = csrTrappc then 0xFFFFFFFF
  else if n = csrTrapcause then 0xC000000000000000
  else if n = csrDbgctl then 1
  else if n = csrDiaginj then 0x80FFFFFF000000FF
  else 0

/-- DIAGINJ takes writes while FCTL.DIAG of the core's partition is 1 (16: R399). -/
def diagOn (s : State) (a : Actor) : Bool :=
  match a with
  | .core g _ => decide (s.fieldOf (offFctl (s.partOfCore g)) 8 8 = 1)
  | _ => false

/-- The CSR value that a write of v leaves, by the access of each field; DBGCTL.HIT is W1C, and a power field
written 3 keeps its value. -/
def csrWritten (s : State) (a : Actor) (n : Nat) (v : DWord) : DWord :=
  let old := getCsr (s.seqr a) n
  let m := csrWritable n
  let new := (old &&& ~~~m) ||| (v &&& m)
  if n = csrDbgctl then (if v.getLsbD 1 then new &&& ~~~(2 : DWord) else new)
  else if n = csrDiaginj && !diagOn s a then old
  else if n = csrVrfpwr then
    (List.range 6).foldl (fun (w : DWord) (j : Nat) =>
      let f : DWord := (3 : DWord) <<< (2 * j)
      if v &&& f = f then (w &&& ~~~f) ||| (old &&& f) else w) new
  else new

/-- A CSR write of value v (07: R193): it takes effect for instructions issued from the next cycle on. -/
def csrWriteBody (i : Instr) (n : Nat) (f : State → DWord) (s : State) : Body :=
  .done (s.addEff s.actor (s.now s.actor) (s.origin s.actor i) (.csr (seqOf s.actor) n (f s))) .seq

end Sys2Proof.Machine
end

