-- ==== Sys2Proof/Machine/Memory.lean ====
section
/-! DEFINITION. Device memory as accesses see it (03: R80 to R91, R99 to R101; 04: R105 to R113; 17: R417):
regions, banks, bounds, the two dies' views and what writes to them do, the L1D, and the class latencies. -/

namespace Sys2Proof.Machine

/-! ### Regions and banks (03: R80, R88, R99) -/

inductive Region where
  | tile (die : Nat)
  | spad (g : Nat)
  | lineBuf (n : Nat)
  | ingress (p : Nat)
  | host
  | none
  deriving DecidableEq, Repr

def spadBase (g : Nat) : Nat := 0x40000000 + g * 0x400000

def regionOf (a : Nat) : Region :=
  if a < 0x8000000 then .tile 0
  else if a < 0x10000000 then .tile 1
  else if 0x40000000 ≤ a ∧ a < 0x40000000 + 96 * 0x400000 then
    (if (a - 0x40000000) % 0x400000 < 0x80000 then .spad ((a - 0x40000000) / 0x400000) else .none)
  else if 0x100000000 ≤ a ∧ a < 0x104000000 then .lineBuf ((a - 0x100000000) / 0x100000)
  else if 0x110000000 ≤ a ∧ a < 0x110140000 then .ingress ((a - 0x110000000) / 0x10000)
  else if 0x8000000000 ≤ a ∧ a < 2 ^ 48 then .host
  else .none

/-- The number of the bank that serves an address: tile-store banks of CD0 from 0 and of CD1 from 512, and
the 16 banks of core g's scratchpad from 1,024 + 16 g. -/
def bankOf (a : Nat) : Option Nat :=
  match regionOf a with
  | .tile d => some (512 * d + 32 * bits a 26 23 + bits a 10 6)
  | .spad g => some (1024 + 16 * g + bits (a - spadBase g) 9 6)
  | _ => none

/-- The die on which an address of a tile store or scratchpad lies. -/
def dieOfAddr (a : Nat) : Nat :=
  match regionOf a with
  | .tile d => d
  | .spad g => dieOf g
  | _ => 0

/-! ### Bounds (03: R100, R101; 02: R64) -/

/-- The leading cores of partition p on a die: those that are no checking core. -/
def leaders (s : State) (p die : Nat) : List Nat :=
  (List.range 96).filter fun g => decide (dieOf g = die) && decide (s.partOfCore g = p) && !s.checker g

/-- Address a lies in partition p's context area on its die. -/
def inContext (s : State) (p a : Nat) : Bool :=
  match regionOf a with
  | .tile d =>
    let r := s.reg (offPart p (rPctx d))
    let sz := bits r 51 40
    let base := bits r 35 0 * 4096
    sz ≠ 0 && decide (base ≤ a) && decide (a < base + (leaders s p d).length * 4 * sz * 4096)
  | _ => false

/-- The partition that owns the slice of a tile-store address. -/
def sliceOwner (s : State) (a : Nat) : Option Nat :=
  match regionOf a with
  | .tile d => s.ownerBit rPtsmask (16 * d + bits a 26 23)
  | _ => none

/-- Partition p owns the tile-store slice of address a. -/
def ownsSlice (s : State) (p a : Nat) : Bool := decide (sliceOwner s a = some p)

/-- The slice's owner, and a is in no context area of it. -/
def ownsTile (s : State) (p a : Nat) : Bool := ownsSlice s p a && !inContext s p a

/-- An instruction of core g may touch the byte at address a. -/
def coreByte (s : State) (g a : Nat) : Bool :=
  match regionOf a with
  | .tile _ => ownsTile s (s.partOfCore g) a
  | .spad h => decide (h = g)
  | _ => false

/-- The first byte of n from a, and of each 64-byte sector that they enter: bounds change only there. -/
def runPoints (a n : Nat) : List Nat :=
  a :: ((List.range (n / 64 + 1)).map fun i => (a / 64 + 1 + i) * 64).filter fun x => x < a + n

/-- The lowest byte of a run that core g may not touch. -/
def badByte (s : State) (g a n : Nat) : Option Nat := (runPoints a n).find? fun x => !coreByte s g x

/-! ### The L1D (03: R81 to R84) -/

/-- Address run [a, a + n) lies in block e. -/
def inBlock (e : L1Ent) (a n : Nat) : Bool :=
  e.valid && decide (e.base ≤ a) && decide (a + n ≤ e.base + 128 * (e.nm1 + 1))

/-- The entry that serves an access: the lowest whose block is valid, filled and contains every byte. -/
def l1Serves (x : Core) (a n : Nat) : Option Nat :=
  (x.l1Dir.find? fun e => e.2.flag && inBlock e.2 a n).map (·.1)

/-- The L1D byte offset of address a in block e. -/
def l1Off (e : L1Ent) (a : Nat) : Nat := 128 * e.line + (a - e.base)

/-- The lines that a run touches. -/
def l1Lines (e : L1Ent) (a n : Nat) : List Nat :=
  (List.range (n / 128 + 2)).filterMap fun i =>
    let l := e.line + (a - e.base) / 128 + i
    if 128 * (l - e.line) + e.base < a + n then some l else none

/-- A store that the L1D serves: the lines, their dirty bits, ANYD. -/
def l1Store (x : Core) (k : Nat) (a : Nat) (bs : Bytes) : Core :=
  let e := sget {} x.l1Dir k
  { x with
    l1d := x.l1d.write (l1Off e a) bs
    l1Dirty := (l1Lines e a bs.length).foldl (fun m l => sset false m l true) x.l1Dirty
    l1Dir := sset {} x.l1Dir k { e with anyd := true } }

/-- A store of cells in the run of n bytes at a, all of which lies in a block still filling, also writes each of the
block's lines that is already filled. -/
def l1FillStore (x : Core) (a n : Nat) (cells : List (Nat × Byte)) : Core :=
  x.l1Dir.foldl (fun x d =>
    let e := d.2
    if !e.flag && inBlock e a n then
      let upTo := sget 0 x.l1Fill d.1
      { x with l1d := cells.foldl (fun m c =>
          if decide ((c.1 - e.base) / 128 < upTo) then m.setByte (l1Off e c.1) c.2 else m) x.l1d }
    else x) x

/-! ### Class latencies (04: R106) -/

/-- The latency of an access of core g to the run at a, with the L1D as it stands. -/
def accLat (s : State) (g a n : Nat) : Nat :=
  match regionOf a with
  | .spad _ => 2
  | _ => if (l1Serves (s.core g) a n).isSome then 3 else if dieOfAddr a = dieOf g then 6 else 30

/-- The latency of a BRMW's read. -/
def rmwLat (g a : Nat) : Nat :=
  match regionOf a with
  | .spad _ => 2
  | _ => if dieOfAddr a = dieOf g then 6 else 30

/-! ### Views (04: R107, R112, R113) -/

def State.view (s : State) (die : Nat) : Mem := if die = 0 then s.view0 else s.view1

def State.setView (s : State) (die : Nat) (m : Mem) : State :=
  if die = 0 then { s with view0 := m } else { s with view1 := m }

/-- Bytes as an agent on a die reads them. -/
def State.readView (s : State) (die a n : Nat) : Bytes := (s.view die).read a n

/-- The bytes of a run with their addresses. -/
def runCells (a : Nat) : Bytes → List (Nat × Byte)
  | [] => []
  | b :: bs => (a, b) :: runCells (a + 1) bs

/-- What a write not yet applied in a view still has to write there once the addresses `hit` have a later
value. -/
def leftAfter (hit : Nat → Bool) (l : Option (List (Nat × Byte))) : Option (List (Nat × Byte)) :=
  l.map fun cs => cs.filter fun c => !hit c.1

/-- A value written to the addresses `hit` prevails in a die's view over every write numbered below `id` that
the view has not applied (04: R113: one order of the writes to a location in every view). -/
def dropOlder (ws : List VWrite) (die id : Nat) (hit : Nat → Bool) : List VWrite :=
  ws.map fun w =>
    if w.id < id then
      (if die = 0 then { w with left0 := leftAfter hit w.left0 } else { w with left1 := leftAfter hit w.left1 })
    else w

/-- The sectors of cells. -/
def cellSectors (cs : List (Nat × Byte)) : List Nat := (cs.map fun c => sectorOf c.1).eraseDups

/-- A write to a sector ends a sequencer's wait on it, in cycle t of the sequencer (02: R68). -/
def wakeSeqr (secs : List Nat) (t : Nat) (q : Seqr) : Seqr :=
  match q.park with
  | some p => if secs.contains p.sector then { q with park := some { p with upTo := min p.upTo t } } else q
  | none => q

def wakeCore (secs : List Nat) (t : Nat) (x : Core) : Core :=
  { x with
    k := wakeSeqr secs t x.k
    l := wakeSeqr secs t x.l
    c := wakeSeqr secs t x.c
    s := wakeSeqr secs t x.s }

/-- The cycle of core g's partition that follows this one: in a hold the one at which the hold began. -/
def cycleNext (s : State) (g : Nat) : Nat :=
  let p := s.partOfCore g
  if s.held p then s.sccOf p else s.sccOf p + 1

def wake (s : State) (secs : List Nat) : State :=
  { s with cores := s.cores.map fun e => (e.1, wakeCore secs (cycleNext s e.1) e.2) }

/-! ### Error correction of scratchpad and tile store (16: R399) -/

/-- The worst error among the 8-byte words of a run: 1 corrected when read, 2 or 3 uncorrectable. -/
def eccOf (s : State) (a n : Nat) : Nat :=
  (List.range (n / 8 + 2)).foldl (fun m i =>
    let w := a / 8 + i
    if 8 * w < a + n then max m (sget 0 s.tsEcc w) else m) 0

/-- The lowest byte of a run that lies in an uncorrectable word. -/
def eccAt (s : State) (a n : Nat) : Option Nat :=
  (List.range (n / 8 + 2)).findSome? fun i =>
    let w := a / 8 + i
    if 8 * w < a + n && 2 ≤ sget 0 s.tsEcc w then some (max a (8 * w)) else none

/-- The run holds an uncorrectable word. -/
def eccBad (s : State) (a n : Nat) : Bool := decide (2 ≤ eccOf s a n)

/-- DETAIL of what an error in the run shows: that of an injected one (16: R399), else 0. -/
def eccDetail (s : State) (a n : Nat) : Nat := if eccOf s a n = 3 then 0xD1A6 else 0

/-- A write to words corrects them. -/
def eccClear (s : State) (cs : List (Nat × Byte)) : State :=
  if s.tsEcc = [] then s
  else { s with tsEcc := cs.foldl (fun m c => erase m (c.1 / 8)) s.tsEcc }

/-- An armed DIAGINJ of TGT 4 or 5 strikes the word of byte INDEX × 8 at its next write, while FCTL.DIAG is 1
(16: R399). -/
def eccInject (s : State) (cs : List (Nat × Byte)) : State :=
  s.cores.foldl (fun s e =>
    let v := csrNat e.2.k csrDiaginj
    let tgt := bits v 7 0
    let a := spadBase e.1 + 8 * bits v 47 32
    if bits v 63 63 = 1 && (tgt = 4 || tgt = 5) && diagOn s (.core e.1 .k) && cs.any (fun c => c.1 / 8 = a / 8) then
      let s := { s with tsEcc := insert s.tsEcc (a / 8) (2 * tgt - 7) }
      s.modCore e.1 fun x => x.hwSet csrDiaginj 63 63 0
    else s) s

/-! ### Writes -/

/-- What every write to tile store or scratchpad does besides the bytes. -/
def afterWrite (s : State) (cs : List (Nat × Byte)) : State :=
  wake (eccInject (eccClear s cs) cs) (cellSectors cs)

/-- Number of the agent in the race detector's table: core sequencers 4 g + q, then management, host, peer,
CEs; 0 stands for a timed writer (17: R421). -/
def agentNo (a : Actor) : Nat :=
  match a with
  | .core g q => seqAgent g q
  | .mgmt => 600
  | .lbp _ => 0
  | .dcs _ => 0

/-- The race detector's note of a write. -/
def noteWriter (s : State) (agent num ival : Nat) (cs : List (Nat × Byte)) : State :=
  { s with race := (cellSectors cs).foldl (fun m x =>
      if agent = 0 then erase m x else insert m x (agent, num, ival)) s.race }

/-- A timed write: applied in every view in its perform cycle (04: R113). -/
def timedWrite (s : State) (cs : List (Nat × Byte)) : State :=
  let hit (a : Nat) : Bool := cs.any fun c => c.1 = a
  let s := { s with
    view0 := s.view0.writeCells cs
    view1 := s.view1.writeCells cs
    vwrites := dropOlder (dropOlder s.vwrites 0 s.effNo hit) 1 s.effNo hit }
  afterWrite (noteWriter s 0 0 0 cs) cs

/-- Origins of untimed writes (04: R112). -/
def origSfd : Nat := 0
def origCd (die : Nat) : Nat := 1 + die
def origExt : Nat := 3

/-- The key of the count of origin o's writes applied in a die's view of partition p. -/
def appliedKey (p die o : Nat) : Nat := 8 * p + 4 * die + o

def appliedCount (s : State) (p die o : Nat) : Nat := sget 0 s.applied (appliedKey p die o)

/-- The key of entry p' of the knowledge vector of SFD or EXT. -/
def knowKey (p o q : Nat) : Nat := 8 * p + 4 * (if o = origSfd then 0 else 1) + q

/-- The key of an origin's count of writes entered. -/
def sentKey (p o : Nat) : Nat := 4 * p + o

/-- The stamp that a write of origin o entering now carries (04: R112). -/
def stampOf (s : State) (p o : Nat) : List Nat :=
  (List.range 4).map fun q =>
    if q = o then sget 0 s.sentNo (sentKey p o) + 1
    else if o = 1 ∨ o = 2 then appliedCount s p (o - 1) q
    else sget 0 s.know (knowKey p o q)

/-- A read by an agent of origin SFD or EXT of a die's view advances the origin's knowledge. -/
def learn (s : State) (p o die : Nat) : State :=
  { s with know := (List.range 4).foldl (fun m q =>
      let k := knowKey p o q
      sset 0 m k (max (sget 0 m k) (appliedCount s p die q))) s.know }

/-- A view may apply a write of that stamp (04: R113). -/
def mayApply (s : State) (p die o : Nat) (stamp : List Nat) : Bool :=
  (List.range 4).all fun q =>
    let n := stamp.getD q 0
    if q = o then decide (appliedCount s p die o + 1 = n) else decide (n ≤ appliedCount s p die q)

/-- What a write has still to write in a die's view. -/
def VWrite.left (w : VWrite) (die : Nat) : Option (List (Nat × Byte)) := if die = 0 then w.left0 else w.left1

/-- The byte at address a in the order of the writes to it: of the newest write, applied in this view or not. -/
def latestByte (s : State) (die a : Nat) : Byte :=
  let newest := s.vwrites.foldl (fun (b : Nat × Byte) w =>
    match ((w.left die).getD []).find? fun c => c.1 = a with
    | some c => if b.1 ≤ w.id then (w.id, c.2) else b
    | none => b) (0, (s.view die).byte a)
  newest.2

/-- The n bytes at address a as their bank holds them: what an atomic operation there reads (10: R278). -/
def latestRead (s : State) (a : Nat) : Nat → Bytes
  | 0 => []
  | n + 1 => latestByte s (dieOfAddr a) a :: latestRead s (a + 1) n

/-- The write is applied in a die's view. -/
def applyWrite (s : State) (w : VWrite) (die : Nat) : State :=
  match w.left die with
  | none => s
  | some cs =>
    let k := appliedKey w.part die w.origin
    let done (v : VWrite) : VWrite :=
      if v.id = w.id then (if die = 0 then { v with left0 := none } else { v with left1 := none }) else v
    let ws := dropOlder (s.vwrites.map done) die w.id fun a => cs.any fun c => c.1 = a
    let s := s.setView die ((s.view die).writeCells cs)
    { s with
      vwrites := ws.filter fun v => v.left0.isSome || v.left1.isSome
      applied := sset 0 s.applied k (sget 0 s.applied k + 1) }

/-- An untimed write of cells enters the stream of origin o of partition p (04: R112): the view of the
origin's own die applies it at once, and each other view when its own time comes. -/
def enterWrite (s : State) (own : Actor) (p o : Nat) (cs : List (Nat × Byte)) (cmd : Nat := 0) (acc : Nat := 0)
    (agent : Nat := 0) : State :=
  let (n, s) := s.takeFresh
  let w : VWrite := {
    id := s.effNo, own := own, cmd := cmd, part := p, origin := o, num := sget 0 s.sentNo (sentKey p o) + 1,
    stamp := stampOf s p o, acc := acc, agent := agent, due := s.wcc + Config.viewDelay n, left0 := some cs, left1 := some cs }
  let s := { s with
    effNo := s.effNo + 1
    sentNo := sset 0 s.sentNo (sentKey p o) w.num
    vwrites := s.vwrites ++ [w] }
  let s := if o = 1 ∨ o = 2 then applyWrite s w (o - 1) else s
  afterWrite s cs

/-- An untimed write by access number acc of an actor of a core, noted for the race detector. -/
def coreWrite (s : State) (g : Nat) (q : SeqId) (cs : List (Nat × Byte)) (acc : Nat := 0) : State :=
  let a : Actor := .core g q
  let s := enterWrite s a (s.partOfCore g) (origCd (dieOf g)) cs 0 acc (agentNo a)
  noteWriter s (agentNo a) acc (s.seqr a).syncs cs

/-! ### Reads and writes of a core's access -/

/-- The lowest uncorrectable byte of a run as core g reads it: of an L1D line, or of the memory. -/
def coreEccAt (s : State) (g a n : Nat) : Option Nat :=
  let x := s.core g
  match l1Serves x a n with
  | some k =>
    if (l1Lines (sget {} x.l1Dir k) a n).any fun l => sget false x.l1Ecc l then some a else none
  | none => eccAt s a n

/-- The n bytes at address a as an access of core g that performs now reads them. -/
def coreRead (s : State) (g a n : Nat) : Bytes :=
  let x := s.core g
  match l1Serves x a n with
  | some k => x.l1d.read (l1Off (sget {} x.l1Dir k) a) n
  | none => s.readView (dieOf g) a n

/-- The store of bytes at a that block k of core g's L1D serves. It wakes the core's own sequencers alone, since no other
agent reads the line (02: R68; log entry 119). -/
def l1Serve (s : State) (g k a : Nat) (bs : Bytes) : State :=
  s.setCore g (wakeCore (cellSectors (runCells a bs)) (cycleNext s g) (l1Store (s.core g) k a bs))

/-- Cells of a store of core g to the run of n bytes at a that its L1D does not serve. -/
def storeMem (s : State) (g : Nat) (q : SeqId) (timed : Bool) (acc a n : Nat) (cs : List (Nat × Byte)) : State :=
  let s := s.setCore g (l1FillStore (s.core g) a n cs)
  if timed then timedWrite s cs else coreWrite s g q cs acc

/-- A contiguous store of core g that performs now. -/
def coreStore (s : State) (g : Nat) (q : SeqId) (timed : Bool) (a : Nat) (bs : Bytes) (acc : Nat := 0) : State :=
  let x := s.core g
  match l1Serves x a bs.length with
  | some k => l1Serve s g k a bs
  | none => storeMem s g q timed acc a bs.length (runCells a bs)

/-- The maximal runs of consecutive addresses among cells. -/
def runsOf : List (Nat × Byte) → List (Nat × Bytes)
  | [] => []
  | c :: cs =>
    match runsOf cs with
    | (a, bs) :: rs => if c.1 + 1 = a then (c.1, c.2 :: bs) :: rs else (c.1, [c.2]) :: (a, bs) :: rs
    | [] => [(c.1, [c.2])]

/-- The least run that holds the given runs: its address and length. -/
def hull (rs : List (Nat × Nat)) : Nat × Nat :=
  let lo := rs.foldl (fun m r => min m r.1) 0xFFFFFFFFFFFF
  (lo, rs.foldl (fun m r => max m (r.1 + r.2)) 0 - lo)

/-- One store of cells by core g that performs now: the L1D serves it only where one block holds all of them
(03: R83, R84). -/
def coreStoreCells (s : State) (g : Nat) (q : SeqId) (timed : Bool) (cs : List (Nat × Byte)) (acc : Nat := 0) : State :=
  match runsOf cs with
  | [r] => coreStore s g q timed r.1 r.2 acc
  | rs =>
    let b := hull (rs.map fun r => (r.1, r.2.length))
    match l1Serves (s.core g) b.1 b.2 with
    | some k => rs.foldl (fun s r => l1Serve s g k r.1 r.2) s
    | none => storeMem s g q timed acc b.1 b.2 cs

/-! ### The bytes of an access -/

/-- The runs of bytes that an access touches. -/
def MemOp.runs (m : MemOp) : List (Nat × Nat) :=
  match m with
  | .load _ a w => [(a, w)]
  | .store cs => (runsOf cs).map fun r => (r.1, r.2.length)
  | .vload _ _ rs => rs.map fun r => (r.1, r.2.2)
  | .vgather _ _ els _ => els.map fun r => (r.1, r.2.2)
  | .qload _ rs => rs.map fun r => (r.1, r.2.2)
  | .tag h _ _ => [(h + 12, 4)]
  | .rmw _ a w _ _ _ _ => [(a, w)]
  | .rmwWrite cs => (runsOf cs).map fun r => (r.1, r.2.length)
  | .scatter els => els.map fun e => (e.1, e.2.length)
  | .held a w => [(a, w)]
  | .ring _ _ _ _ => []

def MemOp.isWrite (m : MemOp) : Bool :=
  match m with
  | .store _ | .scatter _ | .rmw _ _ _ _ _ _ _ | .rmwWrite _ | .held _ _ => true
  | _ => false

/-- The sectors that a run touches. -/
def runSectors (r : Nat × Nat) : List Nat :=
  (List.range (r.2 / 64 + 2)).filterMap fun i =>
    let x := sectorOf r.1 + 64 * i
    if x < r.1 + r.2 then some x else none

def MemOp.sectors (m : MemOp) : List Nat := (m.runs.flatMap runSectors).eraseDups

/-- A run's bytes within a sector. -/
def clip (sec : Nat) (r : Nat × Nat) : Nat × Nat :=
  let lo := max r.1 sec
  (lo, min (r.1 + r.2) (sec + 64) - lo)

/-- Two runs share a byte. -/
def runsMeet (x y : Nat × Nat) : Bool := decide (x.1 < y.1 + y.2) && decide (y.1 < x.1 + x.2)

/-! ### Queues (03: R74, R75, R77) -/

def capQueue : Nat := 16

/-- The mode and the partner of q6 or q7 of core g: 0 local, 1 out, 2 in. -/
def queueMode (s : State) (g qn : Nat) : Nat × Nat :=
  let v := csrNat (s.core g).k csrQmap
  if qn = 6 then (bits v 1 0, g / 4 * 4 + bits v 3 2)
  else if qn = 7 then (bits v 5 4, g / 4 * 4 + bits v 7 6)
  else (0, g)

/-- The core that holds queue qn as core g names it. -/
def queueHome (s : State) (g qn : Nat) : Nat :=
  let m := queueMode s g qn
  if m.1 = 1 then m.2 else g

/-- The queue that nq names (03: R75). -/
def nqOf (s : State) (g : Nat) : Nat := if bits (csrNat (s.core g).k csrQmap) 8 8 = 1 then 7 else 6

def Core.queue (x : Core) (qn : Nat) : List QEntry := sget [] x.queues qn
def Core.setQueue (x : Core) (qn : Nat) (l : List QEntry) : Core := { x with queues := sset [] x.queues qn l }

/-- Entries reserved for a queue and not yet entered. -/
def Core.coming (x : Core) (qn : Nat) : Nat := sget 0 x.onWay qn

def Core.reserve (x : Core) (qn n : Nat) : Core := { x with onWay := sset 0 x.onWay qn (x.coming qn + n) }
def Core.release (x : Core) (qn n : Nat) : Core := { x with onWay := sset 0 x.onWay qn (x.coming qn - n) }

/-- Room is reserved for n entries of queue qn of core g. -/
def reserveQueue (s : State) (g qn n : Nat) : State :=
  s.modCore (queueHome s g qn) fun x => x.reserve qn n

/-- The entry that core g pushes into queue qn at the end of cycle `due`: 2 sc later where QMAP maps the
queue out (03: R75). -/
def pushAt (s : State) (a : Actor) (g : Nat) (due : Nat) (org : Origin) (qn : Nat) (e : QEntry) : State :=
  if (queueMode s g qn).1 = 1 then s.addEff a (due + 2) org (.pushTo qn e) else s.addEff a due org (.push qn e)

end Sys2Proof.Machine
end

