-- ==== Sys2Proof/Machine/VTiming.lean ====
section
/-! DEFINITION. Lanes, chunks and timing of vector instructions (08: R202 to R207): element widths, lane
capacity and count, the class of each instruction, its occupancy, and the cycle in which each chunk of each
result is written; the hazards on vector registers in tokened code (R206; 10: R263). -/

namespace Sys2Proof.Machine

/-! ### Element widths (05: R124) -/

/-- The bits of an element of format t. -/
def fmtBits (t : Nat) : Nat :=
  if t = 0 ∨ t = 12 then 32
  else if t = 1 ∨ t = 2 ∨ t = 11 then 16
  else if t = 5 ∨ t = 6 then 6
  else if t = 7 ∨ t = 9 then 4
  else 8

/-- The bytes that n lanes of format t occupy, packed in whole blocks below a byte (05: R130). -/
def fmtBytes (t n : Nat) : Nat :=
  if 8 ≤ fmtBits t then n * (fmtBits t / 8) else ceilDiv n 32 * (4 * fmtBits t)

/-- The bytes of a vector register: 8 KiB, or one chunk of 128 B in an LBP (12: R329). -/
def regBytes (lbp : Bool) : Nat := if lbp then 128 else 8192

/-- The bytes of a chunk. -/
def chunkBytes (lbp : Bool) : Nat := if lbp then 128 else 1024

/-- The lane capacity of a format (08: R203): at most one lane for each byte of a register. -/
def capOf (lbp : Bool) (t : Nat) : Nat := if 8 ≤ fmtBits t then regBytes lbp / (fmtBits t / 8) else regBytes lbp

/-- The formats that an instruction names in T and T2. -/
def namedFmts (i : Instr) : List Nat :=
  match i, xvOf i with
  | .vcvt _ _ x, _ | .vsrnd _ _ x, _ | .vqnt _ _ x, _ | .vdqnt _ _ x, _ | .vsat _ _ x, _ =>
    [x.t.toNat, x.t2.toNat]
  | .tap _ _ _ _ t _ _ _, _ | .remap _ _ _ t, _ => [t.toNat]
  | .rowoutWr _ _ _, _ => [11]
  | _, some x => [x.t.toNat]
  | _, none => [0]

/-- The vector length of an actor. -/
def vlOf (s : State) (a : Actor) : Nat := bits (csrNat (s.seqr a) csrVl) 13 0

def isLbp (a : Actor) : Bool :=
  match a with
  | .lbp _ => true
  | _ => false

/-- The lane count of an instruction that an actor issues (08: R203; 10: R266). -/
def lanesOf (s : State) (a : Actor) (i : Instr) : Nat :=
  let lbp := isLbp a
  let most := match i with
    | .vldx _ _ _ | .vstx _ _ _ => 2048
    | _ => regBytes lbp
  let n := (namedFmts i).foldl (fun m t => min m (capOf lbp t)) (min (vlOf s a) most)
  match i with
  | .vshuf _ fn _ x => if fn = 4 then capOf lbp x.t.toNat else if lbp then min n 64 else n
  | .rowoutWr _ _ _ => 64
  | _ => if lbp then min n 64 else n

/-- The width in bytes of the widest named format; 0 when each is narrower than a byte. -/
def maskWidth (i : Instr) : Nat := (namedFmts i).foldl (fun m t => max m (fmtBits t / 8)) 0

/-- The mask bit of lane j (08: R204). -/
def laneBit (w j : Nat) : Nat := if w = 0 then j else w * j

/-- Lane j is active. -/
def activeLane (x : XV) (w mask j : Nat) : Bool := !x.men || mask.testBit (laneBit w j)

/-- The formats of the operands and results whose chunks an instruction processes. -/
def dataFmts (i : Instr) : List Nat :=
  match i with
  | .vsat _ _ x => [x.t.toNat]
  | .vldx _ _ x | .vstx _ _ x => [x.t.toNat]
  | _ => namedFmts i

/-- The chunk count (08: R205); a DEFER without sources has no operand, and VSHUF with FN 4 acts on whole
registers (R227). -/
def chunksOf (lbp : Bool) (i : Instr) (n : Nat) : Nat :=
  match i with
  | .defer _ fn _ _ => if fn = 0 then 1 else max 1 (ceilDiv (4 * n) (chunkBytes lbp))
  | _ => max 1 (((dataFmts i).map fun t => ceilDiv (fmtBytes t n) (chunkBytes lbp)).foldl max 0)

/-! ### Classes (08: R207) -/

inductive VClass where
  | i | f | q | t | sc | w | r | x1s | x1d | x1m | x0 | dfr | drn
  | tap | rmp | orb                -- the row profile's (12: R340)
  deriving DecidableEq, Repr

def isFloatFmt (t : B4) : Bool := t.toNat ≤ 2

/-- The class of a vector instruction; none for any other. -/
def vclass (i : Instr) : Option VClass :=
  match i with
  | .vadd _ _ x | .vsub _ _ x | .vmin _ _ x | .vmax _ _ x | .vabs _ _ x | .vneg _ _ x | .vclamp _ _ x
  | .vsat _ _ x | .vcmp _ _ _ x => some (if isFloatFmt x.t then .f else .i)
  | .vnot _ _ _ | .vmov _ _ _ | .vand _ _ _ | .vor _ _ _ | .vxor _ _ _ | .vshl _ _ _ | .vshr _ _ _
  | .vsra _ _ _ | .vsel _ _ _ | .vbcast _ _ _ | .viota _ _ _ => some .i
  | .vmul _ _ _ | .vmulh _ _ _ | .vfma _ _ _ | .vfms _ _ _ | .vfnma _ _ _ | .vcvt _ _ _ | .vsrnd _ _ _
  | .vrand _ _ _ => some .f
  | .vqnt _ _ _ | .vdqnt _ _ _ => some .q
  | .vexp2 _ _ _ | .vlog2 _ _ _ | .vrcp _ _ _ | .vrsq _ _ _ | .vsin _ _ _ | .vcos _ _ _ | .vtanh _ _ _
  | .vsigm _ _ _ | .verf _ _ _ => some .t
  | .vscan _ _ _ _ => some .sc
  | .vperm _ _ _ | .vshuf _ _ _ _ | .vrot _ _ _ | .vcomp _ _ _ | .vexpd _ _ _ => some .w
  | .vred _ _ _ _ | .vdot _ _ _ | .vsamp _ _ _ => some .r
  | .vextr _ _ _ | .mpop _ _ _ | .mfirst _ _ _ => some .x1s
  | .vins _ _ _ => some .x1d
  | .mand _ _ _ | .mor _ _ _ | .mxor _ _ _ | .mnot _ _ _ => some .x1m
  | .vsetvl _ _ _ | .dcount _ _ _ => some .x0
  | .defer _ _ _ _ => some .dfr
  | .drain _ _ _ _ => some .drn
  | .tap _ _ _ _ _ _ _ _ => some .tap
  | .remap _ _ _ _ => some .rmp
  | .rowoutWr _ _ _ => some .orb
  | _ => none

/-- The window rows of a TAP. -/
def tapRows (i : Instr) : Nat :=
  match i with
  | .tap _ _ _ _ _ kh _ _ => kh.toNat
  | _ => 0

/-- The cycles for which an instruction of nch chunks occupies the VE. -/
def occupancy (i : Instr) (nch : Nat) : Nat :=
  match vclass i with
  | some .x0 | none => 0
  | some .x1s | some .x1d | some .x1m | some .orb => 1
  | some .tap => tapRows i
  | some .rmp => 2
  | some .drn => match i with
    | .drain _ fn _ _ => 8 * (fn.toNat + 1)
    | _ => 0
  | _ => match i with
    | .vperm _ _ _ => 8
    | .vshuf _ fn _ _ => if fn = 4 then 8 else nch
    | _ => nch

/-- The cycle, from issue on, at whose end chunk k of a vector result is written. -/
def resultAt (i : Instr) (nch k : Nat) : Nat :=
  match vclass i with
  | some .i => 1 + k
  | some .f => 3 + k
  | some .q => 5 + k
  | some .t => 11 + k
  | some .sc => 7 + k
  | some .w => nch + 3
  | some .r => nch + 7
  | some .x1s => 2
  | some .x1d | some .x1m => 1
  | some .x0 | some .orb | none => 0
  | some .tap => tapRows i + 3
  | some .rmp => 6
  | some .dfr => nch + 1
  | some .drn => 1 + k

/-- The cycle, from issue on, at whose end the last result is written. -/
def lastResultAt (i : Instr) (nch : Nat) : Nat :=
  match i with
  | .drain _ fn _ _ => 8 * fn.toNat + 8
  | _ => resultAt i nch (nch - 1)

/-! ### Pending writes of register chunks -/

/-- The chunk of packed elements of format t that the last bit of element j lies in. -/
def chunkOfLane (lbp : Bool) (t j : Nat) : Nat := (fmtBits t * (j + 1) - 1) / (8 * chunkBytes lbp)

/-- The cycle, from issue on, in which lane j is processed: that of the chunk of the largest operand
(08: R205). -/
def laneCycle (lbp : Bool) (i : Instr) (nch j : Nat) : Nat :=
  min ((dataFmts i).foldl (fun m t => max m (chunkOfLane lbp t j)) 0) (nch - 1)

/-- The first and the last element of format t with a bit in chunk k. -/
def firstLane (lbp : Bool) (t k : Nat) : Nat := k * (8 * chunkBytes lbp) / fmtBits t
def lastLane (lbp : Bool) (t k : Nat) : Nat := ((k + 1) * (8 * chunkBytes lbp) - 1) / fmtBits t

/-- The chunks of n elements of format t, at least one. -/
def chunkCount (lbp : Bool) (t n : Nat) : Nat := max 1 (ceilDiv (fmtBytes t n) (chunkBytes lbp))

/-- The formats of the result of an instruction: VCVT, VSRND and VQNT write T2's or T's. -/
def resultFmt (i : Instr) : Nat :=
  match i, xvOf i with
  | .vcvt _ _ x, _ | .vsrnd _ _ x, _ => x.t.toNat
  | .vqnt _ _ x, _ => x.t.toNat
  | .drain _ _ _ _, _ => 12
  | .tap _ _ _ _ _ _ _ _, _ | .remap _ _ _ _, _ => 11
  | _, some x => x.t.toNat
  | _, none => 0

/-- The cycle, from issue on, at whose end the result's chunk k is written: that of the last lane it holds. -/
def resultChunkAt (lbp : Bool) (i : Instr) (n nch k : Nat) : Nat :=
  resultAt i nch (laneCycle lbp i nch (min n (lastLane lbp (resultFmt i) k + 1) - 1))

/-- The register chunks that an instruction of n lanes writes, with the cycles from issue on. -/
def chunkWrites (lbp : Bool) (i : Instr) (n nch : Nat) (lane : Nat) : List (Nat × Nat × Nat) :=
  match i with
  | .drain _ fn o _ => (List.range (fn.toNat + 1)).flatMap fun r =>
      (List.range 8).map fun k => (o.d.toNat + r, k, 1 + 8 * r + k)
  | .vins _ o x => if o.d.toNat < 48 then [(o.d.toNat, chunkOfLane lbp x.t.toNat lane, 1)] else []
  | .vsamp _ o _ => if o.d.toNat < 48 then [(o.d.toNat, 0, nch + 7)] else []
  | _ => (fields i).flatMap fun f =>
      if (f.cls = .vw || f.cls = .vwq) && f.code.toNat < 48 then
        (if f.no = 3 then [(f.code.toNat, 0, resultAt i nch (nch - 1))]
         else (List.range (chunkCount lbp (resultFmt i) n)).map fun k =>
          (f.code.toNat, k, resultChunkAt lbp i n nch k))
      else []

/-- The lane that VEXTR and VINS name, modulo the capacity (08: R222). -/
def namedLane (lbp : Bool) (i : Instr) (s2 : DWord) : Nat :=
  match xvOf i with
  | some x => s2.toNat % capOf lbp x.t.toNat
  | none => 0

/-- The register chunks that a vector instruction in flight writes, with their cycles. -/
def vopWrites (lbp : Bool) (v : VOp) : List (Nat × Nat × Nat) :=
  (chunkWrites lbp v.i v.n v.nch (namedLane lbp v.i v.s2)).map fun w => (w.1, w.2.1, v.c + w.2.2)

/-! ### Reading operands -/

/-- The format of the elements that an instruction reads in operand field f. -/
def srcFmt (i : Instr) (f : Nat) : Nat :=
  match i, xvOf i with
  | .tap _ _ _ _ _ _ _ _, _ | .remap _ _ _ _, _ | .rowoutWr _ _ _, _ => 11
  | .vcvt _ _ x, _ | .vsrnd _ _ x, _ | .vqnt _ _ x, _ => x.t2.toNat
  | .vdqnt _ _ x, _ => if f = 1 then x.t2.toNat else 11
  | _, some x => x.t.toNat
  | _, none => 0

/-- The chunks of an instruction's vector sources, each as its field, its operand code, its number and the
cycle from issue on in which it is read or popped (08: R205, R208, R222, R226). REMAP's second register counts
as field 4. -/
def opReads (lbp : Bool) (i : Instr) (n nch lane : Nat) : List (Nat × Code × Nat × Nat) :=
  (match i with
   | .remap _ o _ _ => [(1, o.a, 0, 0), (4, o.a + 1, 0, 0)]
   | _ => []) ++
  ((fields i).filter fun f => decide (f.cls = .vr)).flatMap fun f =>
    match i with
    | .vextr _ _ x => [(f.no, f.code, chunkOfLane lbp x.t.toNat lane, 0)]
    | .vperm _ _ _ =>
      if f.no = 1 && f.code.toNat < 48 then
        (List.range (regBytes lbp / chunkBytes lbp)).map fun k => (f.no, f.code, k, min k (nch - 1))
      else (List.range nch).map fun k => (f.no, f.code, k, k)
    | _ =>
      let t := srcFmt i f.no
      let m := if f.no = 2 && (match i with
        | .vdqnt _ _ _ => true
        | _ => false) then 1 else chunkCount lbp t n
      (List.range m).map fun k => (f.no, f.code, k, if k = 0 then 0 else laneCycle lbp i nch (firstLane lbp t k))

/-- The queue that an operand code names: q0 to q7 as 0 to 7, mq as 8. -/
def queueOfCode (s : State) (g : Nat) (c : Code) : Option Nat :=
  if 48 ≤ c.toNat ∧ c.toNat < 56 then some (c.toNat - 48)
  else if c = 56 then some 8
  else if c = 58 then some (nqOf s g)
  else none

/-- The chunks of the A operand of an ME command (09: R246). -/
def aChunks (t : Nat) : Nat := fmtBits t / 2

/-- The operand code and the format of A of an MMUL or MMULS. -/
def mmulA (i : Instr) : Option (Code × Nat) :=
  match i with
  | .mmul _ o x | .mmuls _ o x => some (o.a, x.ta.toNat)
  | _ => none

/-- An ME command pops queue qn in cycle t. -/
def mePops (s : State) (g qn t : Nat) (m : MCmd) : Bool :=
  match mmulA m.i, m.s with
  | some (c, ta), some s0 =>
    !m.reused && decide (m.status ≠ 4) && decide (queueOfCode s g c = some qn) && decide (s0 ≤ t)
      && decide (t < s0 + aChunks ta)
  | _, _ => false

/-- The entries of queue qn that a landing of a memory instruction pops. -/
def portPops (s : State) (g qn : Nat) (l : Landing) : Nat :=
  match l.eff with
  | .qpop c n _ _ => if queueOfCode s g c = some qn then n else 0
  | _ => 0

/-- The entries of queue qn that memory instructions of core g pop in a cycle of which `when` is true. -/
def portPopsIn (s : State) (g qn : Nat) (when : Nat → Bool) : Nat :=
  (((s.core g).pend.filter fun l => when l.due).map (portPops s g qn)).sum

/-- The entries of queue qn that core g pops in its cycle t. -/
def popsNow (s : State) (g qn t : Nat) : Nat :=
  let x := s.core g
  (x.vops.filter fun v => v.dead.isNone && (opReads false v.i v.n v.nch (namedLane false v.i v.s2)).any fun r =>
    decide (queueOfCode s g r.2.1 = some qn) && decide (v.c + r.2.2.2 = t)).length +
  (x.mcmds.flatMap fun e => e.2.filter (mePops s g qn t)).length + portPopsIn s g qn fun d => decide (d = t)

/-- The entries of queue qn that what core g has issued pops in cycle t or later. -/
def popsAhead (s : State) (g qn t : Nat) : Nat :=
  let x := s.core g
  (x.vops.map fun v => if v.dead.isSome then 0 else
    (((opReads false v.i v.n v.nch (namedLane false v.i v.s2)).filter fun r =>
      decide (queueOfCode s g r.2.1 = some qn) && decide (t ≤ v.c + r.2.2.2)).map (·.2.2.2)).eraseDups.length).sum +
  (x.mcmds.flatMap fun e => e.2.flatMap fun m => (List.range 16).filter fun k => mePops s g qn (t + k) m).length +
  portPopsIn s g qn fun d => decide (t ≤ d)

/-- Queue qn of core g has room for n more entries after this cycle's pops, counting those on their way
(03: R74, R77). -/
def queueRoom (s : State) (g qn n : Nat) : Bool :=
  let h := queueHome s g qn
  let x := s.core h
  decide ((x.queue qn).length - popsNow s h qn (s.sccOf (s.partOfCore h)) + x.coming qn + n ≤ capQueue)

/-- The chunk of a register that a landing writes, with its cycle. -/
def landingChunk (lbp : Bool) (l : Landing) : List (Nat × Nat × Option Nat) :=
  let cb := chunkBytes lbp
  let rb := regBytes lbp
  match l.eff with
  | .vrfRun lo _ => [(lo / rb, lo % rb / cb, some l.due)]
  | .vrfBits lo _ _ _ => [(lo / rb, lo % rb / cb, some l.due)]
  | .vrf cs => match cs with
    | c :: _ => [(c.1 / rb, c.1 % rb / cb, some l.due)]
    | [] => []
  | .perform (.vload v k _) => [(v, k, some l.due)]
  | .perform (.vgather v k _ _) => [(v, k, some l.due)]
  | _ => []

/-- The chunks of masks that an instruction issued in cycle c writes, with their cycles. -/
def maskWritesOf (i : Instr) (nch c : Nat) : List (Nat × Nat × Nat) :=
  let all (m t : Nat) : List (Nat × Nat × Nat) := (List.range 8).map fun k => (m, k, t)
  match i with
  | .vcmp _ _ o _ => (List.range nch).map fun k => (o.d.toNat, k, c + resultAt i nch k)
  | .mand _ o _ | .mor _ o _ | .mxor _ o _ | .mnot _ o _ => all o.d.toNat (c + 1)
  | .drain _ _ _ x => if x.men then all x.msk.toNat (c + 1) else []
  | _ => []

/-- The chunks of masks that a vector instruction in flight still writes, with their cycles. -/
def maskWrites (v : VOp) : List (Nat × Nat × Nat) := maskWritesOf v.i v.nch v.c

/-- Register chunks of a unit with a write still pending, each with its cycle, or none where it is not known. -/
def pendingChunks (s : State) (a : Actor) : List (Nat × Nat × Option Nat) :=
  match a with
  | .core g _ =>
    let x := s.core g
    x.pend.flatMap (landingChunk false) ++
    x.vops.flatMap (fun v => (vopWrites false v).map fun w => (w.1, w.2.1, some w.2.2)) ++
    (s.reqs.filterMap fun r => match r.own with
      | .core h _ => if h = g then (match r.op with
          | .vload v k _ => some (v, k, none)
          | .vgather v k _ _ => some (v, k, none)
          | _ => none) else none
      | _ => none)
  | .lbp n =>
    let x := s.lbp n
    x.pend.flatMap (landingChunk true) ++
    x.vops.flatMap fun v => (vopWrites true v).map fun w => (w.1, w.2.1, some w.2.2)
  | _ => []

/-- Chunk k of register v is readable in cycle t; vz always is. -/
def chunkReadable (ps : List (Nat × Nat × Option Nat)) (v k t : Nat) : Bool :=
  decide (48 ≤ v) || ps.all fun p => !(p.1 = v && p.2.1 = k) || (match p.2.2 with
    | some d => decide (d < t)
    | none => false)

/-- A write of chunk k of register v at the end of cycle e lands after every write pending for it. -/
def chunkLandsLast (ps : List (Nat × Nat × Option Nat)) (v k e : Nat) : Bool := chunkReadable ps v k e

/-! ### Power groups (03: R71, R72; 17: R415) -/

/-- The state of the group of register v: 0 awake, 1 drowsy, 2 gated. A waking group counts as the state it
wakes from. -/
def powerOf (x : Core) (v : Nat) : Nat :=
  let j := v / 8
  match look x.wake j with
  | some w => w.2
  | none => bits (csrNat x.c csrVrfpwr) (2 * j + 1) (2 * j)

/-- Group j of a core holds zeros. -/
def clearGroup (x : Core) (j : Nat) : Core :=
  { x with vrf := x.vrf.filter fun e => e.1 < 65536 * j || 65536 * (j + 1) ≤ e.1 }

/-- The class V registers below v48 that an instruction names, in the order d, a, b, C, each with whether it
is written. -/
def vregsOf (i : Instr) : List (Code × Bool) :=
  (fields i).filterMap fun f => match f.cls with
    | .vr | .vreg | .va => if f.code.toNat < 48 then some (f.code, false) else none
    | .vw | .vwq | .vrw | .mrdD => if f.code.toNat < 48 then some (f.code, true) else none
    | _ => none

/-- DRAIN's further registers. -/
def moreRegs (i : Instr) : List (Code × Bool) :=
  match i with
  | .drain _ fn o _ => ((List.range fn.toNat).map fun r => (o.d + BitVec.ofNat 6 (r + 1), true))
  | _ => []

/-- Check 15: the first register that is not awake and traps (17: R415). -/
def powerTrap (s : State) (g : Nat) (timed : Bool) (i : Instr) : Option (Cause × Code) :=
  (vregsOf i ++ moreRegs i).findSome? fun r =>
    let p := powerOf (s.core g) r.1.toNat
    if p = 1 then some (.regDrowsy, r.1)
    else if p = 2 && timed then some (.regGated, r.1)
    else none

/-- The accesses of tokened code to a gated register each write a record (17: R415). -/
def gatedRecords (s : State) (g : Nat) (i : Instr) (pc : Nat) : State :=
  (vregsOf i ++ moreRegs i).foldl (fun s r =>
    if powerOf (s.core g) r.1.toNat = 2 then
      recordCause s g .regGated 0 r.1.toNat pc 0
    else s) s

/-- Check 15, and the records of tokened accesses to gated registers (17: R415). -/
def withPower (s : State) (g : Nat) (i : Instr) (f : State → Body) : Body :=
  let org := s.origin s.actor i
  match powerTrap s g org.timed i with
  | some (c, r) => .trap c 0 (r.setWidth 64)
  | none => f (if org.timed then s else gatedRecords s g i org.pc)

end Sys2Proof.Machine
end

