-- ==== Sys2Proof/Machine/CeGroups.lean ====
section
/-! DEFINITION. What a copy-engine command says (10: R283 to R293; 18: R441 to R444): the fields of D0 to D7, of
pattern and shape records, the groups that a command is carried out in, its class latencies, and the checks at
acceptance. -/

namespace Sys2Proof.Machine

/-! ### Fields (10: R283, R284) -/

/-- Doubleword Di. -/
def CCmd.dn (c : CCmd) (i : Nat) : Nat := (c.d.getD i 0).toNat

def CCmd.code (c : CCmd) : Nat := bits (c.dn 0) 3 0
def CCmd.peer (c : CCmd) : Bool := bits (c.dn 0) 4 4 = 1
def CCmd.dsp (c : CCmd) : Nat := bits (c.dn 0) 7 6
def CCmd.utag (c : CCmd) : Nat := bits (c.dn 0) 15 8
def CCmd.cwa (c : CCmd) : Nat := bits (c.dn 7) 47 0

/-- The command's record or list, as one number. -/
def CCmd.rcdNat (c : CCmd) : Nat := leNat (c.rcd.read 0 64)

/-- The codes whose record is read at acceptance (18: R441). -/
def CCmd.hasRec (c : CCmd) : Bool := c.code = 1 || c.code = 4 || c.code = 5

/-! ### Pattern records (10: R287, R288) -/

structure Pat where
  run : Nat
  em : Bool
  ext : List Nat        -- EXT1 to EXT3, 1 above NDIM
  ss : List Int
  ds : List Int
  enda : Nat
  ndim : Nat
  deriving DecidableEq, Repr

def patOf (r : Nat) : Pat :=
  let ndim := bits r 33 32
  let dim {β : Type} (d : β) (f : Nat → β) : List β := (List.range 3).map fun x => if x < ndim then f (64 + 112 * x) else d
  { run := bits r 31 0, em := bits r 34 34 = 1, ndim := ndim, enda := bits r 447 400,
    ext := dim 1 fun b => bits r (b + 31) b
    ss := dim 0 fun b => sx (bits r (b + 71) (b + 32)) 40
    ds := dim 0 fun b => sx (bits r (b + 111) (b + 72)) 40 }

/-- The extent of the outermost dimension used. -/
def Pat.outer (p : Pat) : Nat := if p.ndim = 0 then 1 else p.ext.getD (p.ndim - 1) 1

/-- The runs of one iteration of it. -/
def Pat.inner (p : Pat) : Nat := (p.ext.take (p.ndim - 1)).foldl (· * ·) 1

/-- The offsets of run j of the enumeration. -/
def Pat.offset (p : Pat) (st : List Int) (j : Nat) : Int :=
  let e1 := p.ext.getD 0 1
  let e2 := p.ext.getD 1 1
  (j % e1 : Nat) * st.getD 0 0 + (j / e1 % e2 : Nat) * st.getD 1 0 + (j / e1 / e2 : Nat) * st.getD 2 0

/-! ### Shape records (10: R290) -/

structure Shp where
  base : Nat
  fmt : Nat
  rows : Nat
  cols : Nat
  rstr : Nat
  tr : Nat
  tc : Nat
  padz : Bool
  deriving DecidableEq, Repr

def shpOf (r : Nat) : Shp :=
  { base := bits r 47 0, fmt := bits r 51 48, rows := bits r 95 64, cols := bits r 127 96, rstr := bits r 175 128,
    tr := bits r 207 192, tc := bits r 223 208, padz := bits r 224 224 = 1 }

def Shp.w (x : Shp) : Nat := fmtBits x.fmt
/-- Bytes of a dense tile row. -/
def Shp.rowLen (x : Shp) : Nat := x.tc * x.w / 8
/-- Bytes of a group: a group ends at a block boundary (17: R418). -/
def Shp.piece (x : Shp) : Nat := if x.w = 6 then 240 else 256

/-! ### Groups (10: R285, R286, R288 to R291) -/

inductive GKind where
  | bytes            -- to device, host or peer memory
  | wb               -- to the weight buffer
  | slots            -- to scale memory
  | index            -- reads the index list
  | idle
  | marker
  deriving DecidableEq, Repr

/-- One group: n bytes are read at src and len are written at dst; of the last byte read only `last` bits belong to
the tensor, and the bits beyond them, and bytes beyond n, are written as zero or left. -/
structure Grp where
  kind : GKind
  src : Nat := 0
  n : Nat := 0
  dst : Nat := 0
  len : Nat := 0
  last : Nat := 8
  zero : Bool := false
  mark : Bytes := []
  deriving DecidableEq, Repr

def copyGrp (kind : GKind) (src dst : Int) (n : Nat) : Grp :=
  { kind := kind, src := wrap 64 src, n := n, dst := wrap 64 dst, len := n }

/-- The number of groups. -/
def CCmd.groupCount (c : CCmd) : Nat :=
  let d0 := c.dn 0
  match c.code with
  | 0 => ceilDiv (bits d0 63 32) 256
  | 1 =>
    let p := patOf c.rcdNat
    p.outer * (p.inner * ceilDiv p.run 256 + if p.em then 1 else 0)
  | 2 | 3 =>
    let n := bits d0 63 32
    ceilDiv (4 * n) 256 + c.li + n * ceilDiv (bits d0 27 16 + 1) 256
  | 4 =>
    let x := shpOf c.rcdNat
    x.tr * ceilDiv x.rowLen x.piece
  | 5 =>
    let p := patOf c.rcdNat
    p.outer * (p.inner * ceilDiv p.run 256)
  | _ => 0

/-- Group t of a pattern copy; `em` where end markers are written. -/
def patGroup (c : CCmd) (p : Pat) (em : Bool) (t : Nat) : Grp :=
  let gpr := ceilDiv p.run 256
  let per := p.inner * gpr + if em then 1 else 0
  let o := t / per
  let r := t % per
  if em && r = p.inner * gpr then
    { kind := .marker, dst := p.enda + 16 * o, len := 16,
      mark := natLe 4 o ++ natLe 4 0 ++ natLe 8 (p.inner * p.run) }
  else
    let j := o * p.inner + r / gpr
    let off := 256 * (r % gpr)
    let n := min 256 (p.run - off)
    let src := (c.dn 1 : Int) + p.offset p.ss j + off
    if c.code = 5 then
      let w := if bits (c.dn 0) 16 16 = 1 then 1 else 2
      { kind := .slots, src := wrap 64 src, n := n, dst := bits (c.dn 2) 14 0 + (j * p.run + off) / w, len := n / w }
    else copyGrp (if c.dsp = 1 then .wb else .bytes) src ((c.dn 2 : Int) + p.offset p.ds j + off) n

/-- Group t of a SHAPE. -/
def shapeGroup (c : CCmd) (t : Nat) : Grp :=
  let x := shpOf c.rcdNat
  let gpr := ceilDiv x.rowLen x.piece
  let i := t / gpr
  let off := x.piece * (t % gpr)
  let len := min x.piece (x.rowLen - off)
  let ti := bits (c.dn 4) 31 0
  let tj := bits (c.dn 4) 63 32
  let r := ti * x.tr + i
  let nbits := if r < x.rows then min x.tc (x.cols - tj * x.tc) * x.w else 0
  let here := nbits - 8 * off
  let n := min len (ceilDiv here 8)
  let last := if 8 * n ≤ here || here % 8 = 0 then 8 else here % 8
  let tensor := x.base + r * x.rstr + tj * x.tc * x.w / 8 + off
  let dense (b : Nat) : Nat := b + i * x.rowLen + off
  if bits (c.dn 0) 16 16 = 0 then
    { kind := .bytes, src := tensor, n := n, dst := dense (c.dn 2), len := if x.padz then len else n, last := last, zero := x.padz }
  else { kind := .bytes, src := dense (c.dn 1), n := n, dst := tensor, len := n, last := last }

/-- Entry i of the index list, as read. -/
def CCmd.index (c : CCmd) (i : Nat) : Int := sx (c.rcd.nat (4 * i) 4) 32

/-- Group t of a GATHER or SCATTER. -/
def gatherGroup (c : CCmd) (t : Nat) : Grp :=
  let cnt := bits (c.dn 0) 63 32
  let esz := bits (c.dn 0) 27 16 + 1
  let ig := ceilDiv (4 * cnt) 256
  if t < ig then { kind := .index, src := c.dn 3 + 256 * t, n := min 256 (4 * cnt - 256 * t), dst := 256 * t }
  else if t < ig + c.li then { kind := .idle }
  else
    let gpe := ceilDiv esz 256
    let i := (t - ig - c.li) / gpe
    let off := 256 * ((t - ig - c.li) % gpe)
    let near (b : Nat) : Int := (b : Int) + esz * i + off
    let far (b : Nat) : Int := (b : Int) + esz * c.index i + off
    let n := min 256 (esz - off)
    if c.code = 2 then copyGrp .bytes (far (c.dn 1)) (near (c.dn 2)) n
    else copyGrp .bytes (near (c.dn 1)) (far (c.dn 2)) n

/-- Group t. -/
def CCmd.group (c : CCmd) (t : Nat) : Grp :=
  match c.code with
  | 0 => copyGrp (if c.dsp = 1 then .wb else .bytes) (c.dn 1 + 256 * t : Nat) (c.dn 2 + 256 * t : Nat)
      (min 256 (bits (c.dn 0) 63 32 - 256 * t))
  | 1 => patGroup c (patOf c.rcdNat) (patOf c.rcdNat).em t
  | 2 | 3 => gatherGroup c t
  | 4 => shapeGroup c t
  | 5 => patGroup c (patOf c.rcdNat) false t
  | _ => { kind := .idle }

/-- What a group adds to COUNT (10: R294). -/
def Grp.counts (x : Grp) : Nat :=
  match x.kind with
  | .bytes | .wb | .slots => x.len
  | _ => 0

/-! ### Latencies and places (10: R282, R285) -/

/-- The class latency of an address that core g's CE reads or writes. -/
def ceLat (g a : Nat) : Nat :=
  if regionOf a = .spad g then 2 else if dieOfAddr a = dieOf g then 6 else 30

/-- Li, Ls and Ld. -/
def ceLats (g : Nat) (c : CCmd) : Nat × Nat × Nat :=
  let x := shpOf c.rcdNat
  let dir := bits (c.dn 0) 16 16
  let src := if c.code = 4 && dir = 0 then x.base else c.dn 1
  let dst := if c.code = 4 && dir = 1 then x.base else c.dn 2
  (if c.code = 2 || c.code = 3 then ceLat g (c.dn 3) else 0, ceLat g src,
    if c.dsp = 1 || c.code = 5 then 1 else ceLat g dst)

/-- Host memory, a line buffer or an ingress window: only remote commands touch them. -/
def farRegion (a : Nat) : Bool :=
  match regionOf a with
  | .host | .lineBuf _ | .ingress _ => true
  | _ => false

/-- The bases that a command names. -/
def CCmd.bases (c : CCmd) : List Nat :=
  match c.code with
  | 0 | 1 => c.dn 1 :: if c.dsp = 1 then [] else [c.dn 2]
  | 2 | 3 => [c.dn 1, c.dn 2, c.dn 3]
  | 4 => [(shpOf c.rcdNat).base, if bits (c.dn 0) 16 16 = 0 then c.dn 2 else c.dn 1]
  | 5 => [c.dn 1]
  | _ => []

/-- All groups. -/
def CCmd.plan (c : CCmd) : List Grp := (List.range c.groupCount).map c.group

/-- A group of it touches one. -/
def CCmd.reachesFar (c : CCmd) : Bool :=
  c.plan.any fun x => (x.n ≠ 0 && farRegion x.src) || ((x.kind = .bytes || x.kind = .marker) && x.len ≠ 0 && farRegion x.dst)

/-- The command is remote (10: R282). -/
def CCmd.isRemote (c : CCmd) : Bool :=
  c.code = 6 || c.code = 7 || c.peer || c.bases.any farRegion ||
    (c.hasRec && (farRegion (c.dn 3) || c.reachesFar))

/-! ### The groups of a cycle (10: R285, R289) -/

/-- The index groups of a GATHER or SCATTER. -/
def CCmd.indexGroups (c : CCmd) : Nat :=
  if c.code = 2 || c.code = 3 then ceilDiv (4 * bits (c.dn 0) 63 32) 256 else 0

/-- The group that a started local command reads, and the one that it writes, in cycle t (10: R285, R289). -/
def CCmd.readNow (c : CCmd) (t : Nat) : Option Nat :=
  match c.s with
  | some s0 =>
    let from0 := s0 + c.slip
    let ig := c.indexGroups
    if c.doneAt.isSome then none
    else if from0 + c.li ≤ t && t < from0 + c.li + ig then some (t - from0 - c.li)
    else
      let u := t - (from0 + c.ls)
      if from0 + c.ls ≤ t && u < c.groups && (ig = 0 || ig + c.li ≤ u) then some u else none
  | none => none

def CCmd.writeNow (c : CCmd) (t : Nat) : Option Nat :=
  match c.s with
  | some s0 =>
    let u := t - (s0 + c.slip + c.ls + c.ld)
    if s0 + c.slip + c.ls + c.ld ≤ t && u < c.groups && c.doneAt.isNone then some u else none
  | none => none

/-- The commands of a core's CE, of every stream. -/
def allCe (x : Core) : List CCmd := x.ccmds.flatMap fun e => e.2

/-! ### Bounds (03: R101) -/

/-- The CE of core g may read, or write, the byte at device address a. -/
def ceByte (s : State) (g : Nat) (write : Bool) (a : Nat) : Bool :=
  let p := s.partOfCore g
  match regionOf a with
  | .tile _ => ownsTile s p a
  | .spad h => decide (s.partOfCore h = p)
  | .lineBuf n => !write && decide (s.lbpOwner n = some p)
  | .ingress n => !write && decide (s.portOwner n = some p)
  | .host => true
  | .none => false

/-- The lowest byte of a run that it may not touch. -/
def ceBad (s : State) (g : Nat) (write : Bool) (a n : Nat) : Option Nat :=
  if n = 0 then none else (runPoints a n).find? fun x => !ceByte s g write x

/-- The lowest byte of a group that it may not touch; a peer's addresses are the peer's to check. -/
def grpBad (s : State) (g : Nat) (peer : Bool) (x : Grp) : Option Nat :=
  match ceBad s g false x.src x.n with
  | some a => some a
  | none =>
    match x.kind with
    | .bytes | .marker => if peer && x.kind = .bytes then none else ceBad s g true x.dst x.len
    | _ => none

/-! ### Checks at acceptance (18: R441 to R444) -/

/-- A bit that must be zero is 1: check 3. -/
def reservedSet (c : CCmd) : Bool :=
  let d := c.dn
  let r := c.rcdNat
  let nz (x hi lo : Nat) : Bool := bits x hi lo ≠ 0
  let dir := bits (d 0) 16 16
  let code := c.code
  nz (d 0) 5 5 || nz (d 7) 63 48 || d 6 ≠ 0 || (code ≠ 6 && d 5 ≠ 0) ||
  (match code with
   | 0 => nz (d 0) 31 16 || d 3 ≠ 0 || d 4 ≠ 0
   | 1 => nz (d 0) 63 16 || d 4 ≠ 0 || nz r 63 35 || nz r 511 448
   | 2 | 3 => nz (d 0) 31 28 || d 4 ≠ 0
   | 4 => nz (d 0) 63 17 || (dir = 0 && d 1 ≠ 0) || (dir = 1 && d 2 ≠ 0)
   | 5 => nz (d 0) 63 17 || nz (d 2) 63 15 || d 4 ≠ 0 || nz r 63 35 || nz r 511 448
   | 6 => nz (d 0) 63 36 || (!nz (d 0) 23 23 && d 3 ≠ 0) || (bits (d 0) 19 16 ≠ 6 && d 5 ≠ 0)
   | _ => nz (d 0) 31 26 || nz (d 3) 63 16 || (bits (d 0) 19 16 ≠ 4 && d 3 ≠ 0) || d 4 ≠ 0)

/-- R442: the lowest field code that a shape record fails. -/
def shapeCode (c : CCmd) : Option Nat :=
  let r := c.rcdNat
  let x := shpOf r
  let ti := bits (c.dn 4) 31 0
  let tj := bits (c.dn 4) 63 32
  if x.base % 64 ≠ 0 then some 1
  else if 13 ≤ x.fmt then some 2
  else if x.rstr % 64 ≠ 0 then some 3
  else if x.rstr < ceilDiv (x.cols * x.w) 8 then some 4
  else if x.tr = 0 then some 5
  else if x.tc = 0 then some 6
  else if x.w < 8 && x.tc % 32 ≠ 0 then some 7
  else if x.rows = 0 || x.cols = 0 then some 8
  else if x.rows ≤ ti * x.tr || x.cols ≤ tj * x.tc then some 9
  else if bits r 63 52 ≠ 0 || bits r 191 176 ≠ 0 || bits r 511 225 ≠ 0 then some 10
  else none

/-- A field of BATOM or COLL that R443 or R444 refuses. -/
def atomBad (c : CCmd) : Bool :=
  let d0 := c.dn 0
  let aop := bits d0 19 16
  let t := bits d0 23 20
  match c.code with
  | 6 =>
    7 ≤ aop || bits d0 21 20 < 2 || (bits d0 22 22 = 1 && aop ≠ 1 && aop ≠ 2) ||
      (!c.peer && regionOf (c.dn 2) = .host && aop ≠ 0 && aop ≠ 5 && aop ≠ 6)
  | 7 => 5 ≤ aop || !(t = 0 || t = 1 || t = 2 || t = 12) || bits d0 25 24 = 0
  | _ => false

/-! The fields of BATOM (10: R292) and of COLL (10: R293) -/

def batW (c : CCmd) : Nat := if bits (c.dn 0) 21 20 = 3 then 8 else 4
def batCount (c : CCmd) : Nat := bits (c.dn 0) 35 24 + 1
def batOp (c : CCmd) : Nat := bits (c.dn 0) 19 16

def collOp (c : CCmd) : Nat := bits (c.dn 0) 19 16
def collFmt (c : CCmd) : Nat := bits (c.dn 0) 23 20
def collLev (c : CCmd) : Nat := bits (c.dn 0) 25 24
def collCount (c : CCmd) : Nat := bits (c.dn 0) 63 32
def collRoot (c : CCmd) : Nat := bits (c.dn 3) 15 0
def collBytes (c : CCmd) : Nat := collCount c * (fmtBits (collFmt c) / 8)

/-- The buffers that a COLL names on core g: their first byte and length. -/
def collBufs (s : State) (g : Nat) (c : CCmd) : List (Nat × Nat) :=
  let n := collBytes c
  [(c.dn 1, n), (c.dn 2, if collOp c = 3 then n * ((s.members (collLev c) g).length * if c.peer then 2 else 1) else n)]

/-- The runs that a BATOM or a COLL of core g reads and writes besides its targets: written or not, address and length. -/
def ownRuns (s : State) (g : Nat) (c : CCmd) : List (Bool × Nat × Nat) :=
  let n := batCount c
  let w := batW c
  match c.code with
  | 6 => [(false, c.dn 1, w * n), (true, c.dn 4, w * n)] ++ (if bits (c.dn 0) 23 23 = 1 then [(false, c.dn 3, 4 * n)] else []) ++
      (if batOp c = 6 then [(false, c.dn 5, w * n)] else [])
  | 7 => (collBufs s g c).zipWith (fun b write => (write, b)) [false, true]
  | _ => []

/-- The local addresses that are checked at acceptance (check 11): those of a local command, of its record and of
CWA; a GATHER's or SCATTER's index list and its dense side; what a BATOM or a COLL reads and writes on the device besides its
targets. A remote copy is checked group by group (17: R418; log entry 118). -/
def acceptBad (s : State) (g : Nat) (c : CCmd) : Option Nat :=
  let cwa := if c.cwa = 0 then none else ceBad s g true c.cwa 16
  let cnt := bits (c.dn 0) 63 32
  let esz := bits (c.dn 0) 27 16 + 1
  let runs : Option Nat :=
    if c.remote then (ownRuns s g c).findSome? fun r => if regionOf r.2.1 = .host then none else ceBad s g r.1 r.2.1 r.2.2
    else if c.code = 2 || c.code = 3 then
      match ceBad s g false (c.dn 3) (4 * cnt) with
      | some a => some a
      | none => if c.code = 2 then ceBad s g true (c.dn 2) (esz * cnt) else ceBad s g false (c.dn 1) (esz * cnt)
    else c.plan.findSome? (grpBad s g false)
  match cwa with
  | some a => some a
  | none => runs

/-- CWA lies where a word can be copied to: at a multiple of 16, in the tile store or in the core's own scratchpad (18:
R441, check 4). -/
def cwaPlaced (g a : Nat) : Bool :=
  decide (a % 16 = 0) && (match regionOf a with
    | .tile _ => true
    | r => decide (r = .spad g))

/-- An offset or a length of a copy into the weight buffer is no multiple of 64, or it ends beyond the buffer, whether or not
it moves anything (18: R441, check 5). -/
def wbPlaced (c : CCmd) : Bool :=
  let len := if c.code = 0 then bits (c.dn 0) 63 32 else (patOf c.rcdNat).run
  let wbBad (x : Grp) : Bool := x.kind = .wb && (x.dst % 64 ≠ 0 || x.n % 64 ≠ 0 || 524288 < x.dst + x.n)
  c.dn 2 % 64 = 0 && len % 64 = 0 && c.dn 2 ≤ 524288 && !c.plan.any wbBad

/-- Checks 1 to 9 and 11 in their order: status, DETAIL and ADDR of the first that fails. -/
def ceCheck (s : State) (g : Nat) (c : CCmd) : Option (Nat × Nat × Nat) :=
  let d0 := c.dn 0
  let code := c.code
  let p := patOf c.rcdNat
  let bounds (x : Nat) : Option (Nat × Nat × Nat) := some (8, x, 0)
  let total := p.outer * p.inner * p.run
  let wide := bits d0 16 16 = 0
  let scales := if wide then total / 2 else total
  if 8 ≤ code then bounds 0x0101
  else if (c.peer && 2 ≤ code && code ≤ 5) || (c.dsp ≠ 0 && 2 ≤ code) || 2 ≤ c.dsp then bounds 0x0102
  else if reservedSet c then bounds 0x0103
  else if c.cwa ≠ 0 && !cwaPlaced g c.cwa then bounds 0x0104
  else if c.dsp = 1 && !wbPlaced c then bounds 0x0105
  else if (c.hasRec && c.dn 3 % 64 ≠ 0) || (code = 1 && p.em && p.enda % 16 ≠ 0) then bounds 0x0106
  else if code = 5 && (32768 < bits (c.dn 2) 14 0 + scales || (wide && p.run % 2 = 1)) then bounds 0x0107
  else if c.hasRec && (ceBad s g false (c.dn 3) 64).isSome then some (8, 1, (ceBad s g false (c.dn 3) 64).getD 0)
  else match code, shapeCode c with
    | 4, some k => some (5, k, 0)
    | _, _ =>
      if atomBad c then bounds 0x0108
      else match acceptBad s g c with
        | some a => some (8, 1, a)
        | none => none

end Sys2Proof.Machine
end

