-- ==== Sys2Proof/Machine/Numbers.lean ====
section
/-! DEFINITION. Number formats, exact values, rounding, scales, the fixed pairwise tree and the draw function
(05: R124 to R148). Values are exact fractions; every rounding goes through `rnd`. -/

namespace Sys2Proof.Machine

/-! ### Exact values -/

/-- An exact real with the sign of a zero kept, an infinity, or a NaN: the x of R134. A finite value has
magnitude n / d, d positive. -/
inductive Val where
  | nan
  | inf (neg : Bool)
  | fin (neg : Bool) (n d : Nat)
  deriving DecidableEq, Repr

def Val.zero : Val := .fin false 0 1

/-- The magnitude m × 2^e with a sign. -/
def Val.dyadic (neg : Bool) (m : Nat) (e : Int) : Val :=
  if 0 ≤ e then .fin neg (m * 2 ^ e.toNat) 1 else .fin neg m (2 ^ (-e).toNat)

def Val.ofInt (z : Int) : Val := .fin (decide (z < 0)) z.natAbs 1

/-- A fraction n / d as a value; zero is +0. -/
def Val.ofFrac (n : Int) (d : Nat) : Val := .fin (decide (n < 0)) n.natAbs d

def Val.isZero (x : Val) : Bool :=
  match x with
  | .fin _ n _ => n = 0
  | _ => false

def Val.isNan (x : Val) : Bool :=
  match x with
  | .nan => true
  | _ => false

def Val.neg (x : Val) : Bool :=
  match x with
  | .nan => false
  | .inf s => s
  | .fin s _ _ => s

def Val.negate (x : Val) : Val :=
  match x with
  | .nan => .nan
  | .inf s => .inf !s
  | .fin s n d => .fin (!s) n d

def Val.abs (x : Val) : Val :=
  match x with
  | .nan => .nan
  | .inf _ => .inf false
  | .fin _ n d => .fin false n d

/-- The signed numerator of a finite value. -/
def Val.num (x : Val) : Int :=
  match x with
  | .fin s n _ => if s then -(n : Int) else n
  | _ => 0

def Val.den (x : Val) : Nat :=
  match x with
  | .fin _ _ d => d
  | _ => 1

/-- x < y among finite values and infinities. -/
def Val.lt (x y : Val) : Bool :=
  match x, y with
  | .inf true, .inf true => false
  | .inf true, .fin _ _ _ => true
  | .inf true, .inf false => true
  | .inf false, _ => false
  | .fin _ _ _, .inf s => !s
  | .fin _ _ _, .fin _ _ _ => decide (x.num * y.den < y.num * x.den)
  | _, _ => false

/-- x = y among finite values and infinities; the two zeros are equal. -/
def Val.same (x y : Val) : Bool :=
  match x, y with
  | .inf s, .inf t => s = t
  | .fin _ _ _, .fin _ _ _ => decide (x.num * y.den = y.num * x.den)
  | _, _ => false

/-- The exact product, by IEEE 754-2019 for zeros, infinities and NaNs. -/
def Val.mul (x y : Val) : Val :=
  match x, y with
  | .nan, _ => .nan
  | _, .nan => .nan
  | .inf s, .inf t => .inf (s != t)
  | .inf s, .fin t n _ => if n = 0 then .nan else .inf (s != t)
  | .fin s n _, .inf t => if n = 0 then .nan else .inf (s != t)
  | .fin s n d, .fin t m e => .fin (s != t) (n * m) (d * e)

/-- The exact sum. An exact zero sum of values of unlike sign is +0, or -0 in mode RD (3). -/
def Val.add (mode : Nat) (x y : Val) : Val :=
  match x, y with
  | .nan, _ => .nan
  | _, .nan => .nan
  | .inf s, .inf t => if s = t then .inf s else .nan
  | .inf s, .fin _ _ _ => .inf s
  | .fin _ _ _, .inf t => .inf t
  | .fin s n d, .fin t m e =>
    let z := x.num * e + y.num * d
    if z = 0 then
      (if n = 0 ∧ m = 0 ∧ s = t then .fin s 0 1 else .fin (decide (mode = 3)) 0 1)
    else .fin (decide (z < 0)) z.natAbs (d * e)

/-! ### Format parameters (05: R125 to R127) -/

def isFloat (t : Nat) : Bool := t ≤ 7
def isWide (t : Nat) : Bool := t ≤ 2
def isIntFmt (t : Nat) : Bool := t = 8 ∨ t = 9 ∨ t = 11 ∨ t = 12

/-- Element bits of a format. -/
def bitsOf (t : Nat) : Nat :=
  match t with
  | 0 | 12 => 32
  | 1 | 2 | 11 => 16
  | 5 | 6 => 6
  | 7 | 9 => 4
  | _ => 8

/-- MF, the fraction width. -/
def mfOf (t : Nat) : Nat :=
  match t with
  | 0 => 23 | 1 => 10 | 2 => 7 | 3 => 3 | 4 => 2 | 5 => 2 | 6 => 3 | 7 => 1 | _ => 0

def biasOf (t : Nat) : Nat :=
  match t with
  | 0 => 127 | 1 => 15 | 2 => 127 | 3 => 7 | 4 => 15 | 5 => 3 | 6 => 1 | 7 => 1 | _ => 0

/-- The code of the largest finite magnitude of a float format. -/
def maxCode (t : Nat) : Nat :=
  if isWide t then (2 ^ (bitsOf t - 1 - mfOf t) - 1) * 2 ^ mfOf t - 1 else 2 ^ (bitsOf t - 1) - 1

def signBit (t : Nat) : Nat := 2 ^ (bitsOf t - 1)

/-- The code of +∞ of a wide format. -/
def infCode (t : Nat) : Nat := maxCode t + 1

/-- The canonical quiet NaN of a wide format (05: R125). -/
def nanCode (t : Nat) : Nat := infCode t + 2 ^ (mfOf t - 1)

/-- The value of a float code without special exponents. -/
def floatValue (t code : Nat) : Val :=
  let c := code % 2 ^ bitsOf t
  let s := decide (signBit t ≤ c)
  let a := c % signBit t
  let e := a / 2 ^ mfOf t
  let f := a % 2 ^ mfOf t
  if e = 0 then .dyadic s f (1 - (biasOf t : Int) - mfOf t)
  else .dyadic s (2 ^ mfOf t + f) ((e : Int) - biasOf t - mfOf t)

/-! ### DS8 (05: R128, R129, R135) -/

/-- A term of a DS8 code in units of 2^-6. -/
def ds8Term (n : Nat) : Int :=
  if n % 8 = 7 then 0 else if n % 16 ≥ 8 then -((64 / 2 ^ (n % 8) : Nat) : Int) else (64 / 2 ^ (n % 8) : Nat)

/-- The value of a DS8 code in units of 2^-6. -/
def ds8Value (c : Nat) : Int := ds8Term (c / 16 % 16) + ds8Term (c % 16)

def ds8Terms (c : Nat) : Nat := (if c / 16 % 8 = 7 then 0 else 1) + (if c % 8 = 7 then 0 else 1)

/-- The canonical code of a DS8 value. -/
def ds8Canon (v : Int) : Nat :=
  if v = 0 then 0x77
  else (List.range 256).foldl (fun b c =>
    if ds8Value c = v && (b = 256 || ds8Terms c < ds8Terms b) then c else b) 256

/-- |v - x| for v in units of 2^-6, as a numerator over 64 d. -/
def ds8Gap (v : Int) (n : Int) (d : Nat) : Nat := (v * d - 64 * n).natAbs

/-- The DS8 value, in units of 2^-6, chosen for n / d among those that `ok` admits: the nearest, and of two
nearest the one of smaller magnitude. -/
def ds8Pick (n : Int) (d : Nat) (ok : Int → Bool) : Option Int :=
  (List.range 256).foldl (fun b c =>
    let v := ds8Value c
    if ok v then
      (match b with
       | none => some v
       | some w =>
         let x := ds8Gap v n d
         let y := ds8Gap w n d
         if x < y || (x = y && v.natAbs < w.natAbs) then some v else some w)
    else b) none

/-- ds8(x, mode) (05: R135). -/
def ds8 (x : Val) (mode : Nat) : Nat :=
  match x with
  | .nan => 0x77
  | .inf s => ds8Canon (if s then -128 else 128)
  | .fin s _ d =>
    let n := x.num
    let le (v : Int) : Bool := decide (v * d ≤ 64 * n)
    let ge (v : Int) : Bool := decide (64 * n ≤ v * d)
    let r := match mode with
      | 1 => ds8Pick n d fun v => if s then ge v && decide (v ≤ 0) else le v && decide (0 ≤ v)
      | 2 => ds8Pick n d ge
      | 3 => ds8Pick n d le
      | _ => ds8Pick n d fun _ => true
    ds8Canon (match r with
      | some v => v
      | none => if mode = 2 then 128 else -128)

/-! ### Decoding -/

/-- The exact value of an element code of format t: dec of R126 and R128, sx of R127, and IEEE values. -/
def decode5 (t code : Nat) : Val :=
  if isWide t then
    let a := code % signBit t
    if infCode t < a then .nan
    else if a = infCode t then .inf (decide (signBit t ≤ code % 2 ^ bitsOf t))
    else floatValue t code
  else if isFloat t then floatValue t code
  else if t = 10 then .ofFrac (ds8Value code) 64
  else .ofInt (sx code (bitsOf t))

/-! ### Rounding (05: R133, R134) -/

/-- ⌊log2 (n / d)⌋ for n and d positive. -/
def floorLog (n d : Nat) : Int :=
  let k : Int := (Nat.log2 n : Int) - Nat.log2 d
  let big := if 0 ≤ k then decide (d * 2 ^ k.toNat ≤ n) else decide (d ≤ n * 2 ^ (-k).toNat)
  if big then k else k - 1

/-- The smallest t from the given one on, within fuel, for which n 2^t / d is an integer. -/
def dropBits (n d : Nat) : Nat → Nat → Option Nat
  | 0, _ => none
  | fuel + 1, t => if n * 2 ^ t % d = 0 then some t else dropBits n d fuel (t + 1)

/-- n of R134: the magnitude n / d rounded to an integer. `pos` is x > 0. -/
def roundInt (mode : Nat) (pos : Bool) (n d u : Nat) : Nat :=
  let f := n / d
  let r := n % d
  let up := if r = 0 then f else f + 1
  match mode with
  | 0 => if 2 * r < d then f else if 2 * r = d then (if f % 2 = 0 then f else f + 1) else f + 1
  | 1 => f
  | 2 => if pos then up else f
  | 3 => if pos then f else up
  | _ =>
    match dropBits n d 33 0 with
    | some t => (n * 2 ^ t + u / 2 ^ (32 - t) * d) / (d * 2 ^ t)
    | none => (n * 2 ^ 32 + u * d) / (d * 2 ^ 32)

/-- A magnitude n / d rounded to the spacing of a float format of fraction width mf and least exponent emin:
the integer n and the exponent of the spacing. -/
def roundFloat (mf : Nat) (emin : Int) (mode : Nat) (pos : Bool) (n d u : Nat) : Nat × Int :=
  let e := max (floorLog n d) emin - mf
  let m := if 0 ≤ e then roundInt mode pos n (d * 2 ^ e.toNat) u else roundInt mode pos (n * 2 ^ (-e).toNat) d u
  (m, e)

/-- rnd(F, x, mode, u) (05: R134): the code in format t. -/
def rnd (t : Nat) (x : Val) (mode u : Nat) : Nat :=
  match x with
  | .nan => if isWide t then nanCode t else if t = 10 then 0x77 else 0
  | .inf s =>
    if t = 10 then ds8 x mode
    else if isWide t then (if s then signBit t else 0) + infCode t
    else if isFloat t then (if s then signBit t else 0) + maxCode t
    else if s then signBit t else signBit t - 1
  | .fin s n d =>
    if t = 10 then ds8 x mode
    else if n = 0 then (if isWide t && s then signBit t else 0)
    else if isFloat t then
      let (m, e) := roundFloat (mfOf t) (1 - (biasOf t : Int)) mode (!s) n d u
      let code := m + ((e + mfOf t + biasOf t - 1).toNat) * 2 ^ mfOf t
      let lim :=
        if maxCode t < code then
          (if isWide t && (mode = 0 || 4 ≤ mode || (mode = 2 && !s) || (mode = 3 && s)) then infCode t
           else maxCode t)
        else code
      if lim = 0 then (if isWide t && s then signBit t else 0) else (if s then signBit t else 0) + lim
    else
      let m := roundInt mode (!s) n d u
      if s then
        let v := min m (signBit t)
        (2 ^ bitsOf t - v) % 2 ^ bitsOf t
      else min m (signBit t - 1)

/-- rne32 (05: R134). -/
def rne32 (x : Val) : Nat := rnd 0 x 0 0

/-- The value of an FP32 code. -/
def f32 (c : Nat) : Val := decode5 0 c

/-- sat32 (05: R141): the FP32 code, and whether it saturated. Zero is +0. -/
def sat32 (n : Int) (d : Nat) : Nat × Bool :=
  if n = 0 then (0, false)
  else
    let s := decide (n < 0)
    let (m, e) := roundFloat 23 (-126) 0 (!s) n.natAbs d 0
    let code := m + ((e + 23 + 127 - 1).toNat) * 2 ^ 23
    let sg := if s then 2 ^ 31 else 0
    if maxCode 0 < code then (sg + maxCode 0, true)
    else if code = 0 then (0, false) else (sg + code, false)

/-! ### Scales (05: R131, R132) -/

/-- scale9(c) as an exact value: 2^(c[8:1] - 127) × (1 + c[0]/2). -/
def scale9 (c : Nat) : Val :=
  if c % 2 = 0 then .dyadic false 1 ((c / 2 : Nat) - (127 : Int))
  else .dyadic false 3 ((c / 2 : Nat) - (128 : Int))

def poisonScale : Nat := 0x1FF

def widen8 (x : Nat) : Nat := if x = 0xFF then poisonScale else x * 2

/-! ### The pairwise tree (05: R144) -/

def pairUp {α : Type} (op : α → α → α) : List α → List α
  | a :: b :: l => op a b :: pairUp op l
  | l => l

/-- The smallest power of two that is at least n, among 2^0 to 2^13. -/
def powAtLeast (n : Nat) : Nat := ((List.range 14).find? fun k => n ≤ 2 ^ k).getD 14

def treeFold {α : Type} (op : α → α → α) : Nat → List α → List α
  | 0, l => l
  | k + 1, l => treeFold op k (pairUp op l)

/-- tree(op, id, v, n). -/
def tree {α : Type} (op : α → α → α) (ident : α) (v : List α) : α :=
  let k := powAtLeast v.length
  (treeFold op k (v ++ List.replicate (2 ^ k - v.length) ident)).headD ident

/-! ### Draws (05: R145 to R147) -/

def rotl32 (x : W32) (n : Nat) : W32 := (x <<< n) ||| (x >>> (32 - n))

/-- One round of D on (a, b, c, d). -/
def drawRound (key : List W32) (r : Nat) (x : W32 × W32 × W32 × W32) : W32 × W32 × W32 × W32 :=
  let (a, b, c, d) := x
  let k := key.getD (r % 4) 0 + BitVec.ofNat 32 (r * 0x7F4A7C15)
  let p := a.toNat * 0xD2B74407
  let q := c.toNat * 0xCA5A8263
  (BitVec.ofNat 32 (q / 2 ^ 32) ^^^ b ^^^ k, BitVec.ofNat 32 q, BitVec.ofNat 32 (p / 2 ^ 32) ^^^ d ^^^ rotl32 k 16,
    BitVec.ofNat 32 p)

/-- D(K, I, N): four words. -/
def draw (key : List W32) (ident n : Nat) : List W32 :=
  let (a, b, c, d) := (List.range 8).foldl (fun x r => drawRound key r x)
    (BitVec.ofNat 32 n, BitVec.ofNat 32 (n / 2 ^ 32), BitVec.ofNat 32 ident, BitVec.ofNat 32 (ident / 2 ^ 32))
  [a + key.getD 0 0, b + key.getD 1 0, c + key.getD 2 0, d + key.getD 3 0]

/-- The draw word of lane j of a draw that starts at counter n. -/
def drawWord (key : List W32) (ident n j : Nat) : Nat :=
  ((draw key ident ((n + j / 4) % 2 ^ 64)).getD (j % 4) 0).toNat

end Sys2Proof.Machine
end

