-- ==== Sys2Proof/Machine/Transcend.lean ====
section
/-! DEFINITION. The nine transcendental functions (05: R149 to R151). A table row is the Taylor coefficients
of g at the row's centre, each rounded once to FP32; the coefficients are computed in fixed point with 400
fraction bits (log entry 9), far beyond what their rounding to 24 bits needs. -/

namespace Sys2Proof.Machine

/-! ### Fixed point -/

/-- Fraction bits of the fixed-point numbers. -/
def fxP : Nat := 400
def fxOne : Int := (2 ^ fxP : Nat)
def fxMul (x y : Int) : Int := x * y / fxOne
def fxDiv (x y : Int) : Int := x * fxOne / y
def fxOfFrac (n : Int) (d : Nat) : Int := n * fxOne / (d : Int)

/-- Σ term_k, k from the given one on, where the next term is term × x / f(k). -/
def fxSeries (x : Int) (f : Nat → Int) : Nat → Nat → Int → Int
  | 0, _, _ => 0
  | fuel + 1, k, term => term + fxSeries x f fuel (k + 1) (fxMul term x / f (k + 1))

/-- e^x for |x| ≤ 1. -/
def fxExpSmall (x : Int) : Int := fxSeries x (fun k => (k : Int)) 110 0 fxOne

/-- atanh(z) for |z| ≤ 1/3, as Σ z^(2n+1) / (2n+1). -/
def fxAtanh (z : Int) : Int :=
  let z2 := fxMul z z
  ((List.range 140).foldl (fun (p : Int × Int) n => (p.1 + p.2 / (2 * n + 1 : Nat), fxMul p.2 z2)) (0, z)).1

/-- atan(1/n). -/
def fxAtanInv (n : Nat) : Int :=
  let z := fxOne / (n : Int)
  ((List.range 100).foldl (fun (p : Int × Int) k =>
    (p.1 + (if k % 2 = 0 then p.2 else -p.2) / (2 * k + 1 : Nat), p.2 / ((n * n : Nat) : Int))) (0, z)).1

def fxPi : Int := 16 * fxAtanInv 5 - 4 * fxAtanInv 239
def fxLn2 : Int := 2 * fxAtanh (fxOne / 3)

/-- ln(y) for y in [1, 2]. -/
def fxLn (y : Int) : Int := 2 * fxAtanh (fxDiv (y - fxOne) (y + fxOne))

/-- e^x: x = k ln 2 + f with f in [0, ln 2). -/
def fxExp (x : Int) : Int :=
  let k := x / fxLn2
  let e := fxExpSmall (x - k * fxLn2)
  if 0 ≤ k then e * (2 ^ k.toNat : Nat) else e / (2 ^ (-k).toNat : Nat)

/-- sin and cos of x for |x| ≤ 2, by their series. -/
def fxSin (x : Int) : Int :=
  ((List.range 70).foldl (fun (p : Int × Int) k =>
    (p.1 + p.2, -(fxMul (fxMul p.2 x) x) / ((2 * k + 2) * (2 * k + 3) : Nat))) (0, x)).1

def fxCos (x : Int) : Int :=
  ((List.range 70).foldl (fun (p : Int × Int) k =>
    (p.1 + p.2, -(fxMul (fxMul p.2 x) x) / ((2 * k + 1) * (2 * k + 2) : Nat))) (0, fxOne)).1

/-- The integer square root of n, bit by bit from bit k down. -/
def isqrt (n : Nat) : Nat → Nat → Nat
  | 0, r => r
  | k + 1, r =>
    let t := r + 2 ^ k
    isqrt n k (if t * t ≤ n then t else r)

def fxSqrt (x : Int) : Int := (isqrt (x.toNat * 2 ^ fxP) (fxP + 2) 0 : Nat)

/-- erf(x) for 0 ≤ x ≤ 4: 2/√π Σ (-1)^n x^(2n+1) / (n! (2n+1)). -/
def fxErf (x : Int) : Int :=
  let x2 := fxMul x x
  let s := ((List.range 300).foldl (fun (p : Int × Int) n =>
    (p.1 + p.2 / (2 * n + 1 : Nat), -(fxMul p.2 x2) / (n + 1 : Nat))) (0, x)).1
  fxDiv (2 * s) (fxSqrt fxPi)

/-! ### Taylor coefficients of g at a centre -/

inductive Fn where
  | exp2 | log2 | rcp | rsq | sinPi | cosPi | tanh | sigmPos | sigmNeg | erf
  deriving DecidableEq, Repr

/-- The coefficients a_0, …, a_n of a series from a_0 and the rule for the next one. -/
def jetBy (a0 : Int) (next : List Int → Nat → Int) (n : Nat) : List Int :=
  (List.range n).foldl (fun l k => l ++ [next l k]) [a0]

/-- Σ a_i a_(k-i). -/
def jetConv (a b : List Int) (k : Nat) : Int :=
  (List.range (k + 1)).foldl (fun z i => z + fxMul (a.getD i 0) (b.getD (k - i) 0)) 0

/-- The Taylor coefficients g^(i)(c) / i!, i = 0 to n, in fixed point. -/
def jet (f : Fn) (c : Int) (n : Nat) : List Int :=
  match f with
  | .exp2 => jetBy (fxExp (fxMul c fxLn2)) (fun l k => fxMul (l.getD k 0) fxLn2 / (k + 1 : Nat)) n
  | .log2 =>
    let y := fxOne + c
    let inv := fxDiv fxOne y
    let a1 := fxDiv inv fxLn2
    -- a_k = (-1)^(k-1) / (k y^k ln 2)
    jetBy (fxDiv (fxLn y) fxLn2) (fun l k =>
      if k = 0 then a1 else -(fxMul (l.getD k 0) inv) * (k : Nat) / (k + 1 : Nat)) n
  | .rcp => jetBy (fxDiv fxOne c) (fun l k => -(fxDiv (l.getD k 0) c)) n
  | .rsq => jetBy (fxDiv fxOne (fxSqrt c)) (fun l k => -(fxDiv (l.getD k 0) c) * (2 * k + 1 : Nat) / (2 * k + 2 : Nat)) n
  | .sinPi | .cosPi =>
    let x := fxMul fxPi c
    let sn := fxSin x
    let cs := fxCos x
    -- the k-th derivative of sin is sin, cos, -sin, -cos in turn, times π^k
    let d (k : Nat) : Int := match (if f = .sinPi then k else k + 1) % 4 with
      | 0 => sn | 1 => cs | 2 => -sn | _ => -cs
    let pk (k : Nat) : Int := (List.range k).foldl (fun z j => fxMul z fxPi / (j + 1 : Nat)) fxOne
    (List.range (n + 1)).map fun k => fxMul (pk k) (d k)
  | .tanh =>
    let e := fxExp (2 * c)
    jetBy (fxDiv (e - fxOne) (e + fxOne)) (fun l k =>
      ((if k = 0 then fxOne else 0) - jetConv l l k) / (k + 1 : Nat)) n
  | .sigmPos =>
    jetBy (fxDiv fxOne (fxOne + fxExp (-c))) (fun l k => (l.getD k 0 - jetConv l l k) / (k + 1 : Nat)) n
  | .sigmNeg =>
    jetBy (fxDiv fxOne (fxOne + fxExp c)) (fun l k => -(l.getD k 0 - jetConv l l k) / (k + 1 : Nat)) n
  | .erf =>
    let b := jetBy (fxExp (-(fxMul c c))) (fun l k =>
      -2 * (fxMul c (l.getD k 0) + (if k = 0 then 0 else l.getD (k - 1) 0)) / (k + 1 : Nat)) n
    let w := fxDiv (2 * fxOne) (fxSqrt fxPi)
    fxErf c :: (List.range n).map fun k => fxMul w (b.getD k 0) / (k + 1 : Nat)

/-! ### Evaluation (05: R149, R151) -/

/-- B and Dg of a function-table version. -/
def verB (v : Nat) : Nat := if v = 1 then 4 else if v = 2 then 6 else 8
def verD (v : Nat) : Nat := if v = 1 then 4 else if v = 2 then 3 else 2

/-- A table row: the coefficients of g at the centre n / d, each rounded to FP32. -/
def tableRow (f : Fn) (v n d : Nat) : List Nat :=
  (jet f (fxOfFrac n d) (verD v)).map fun a => rne32 (Val.ofFrac a (2 ^ fxP))

/-- Horner's steps on coefficients from the highest down, each rounded to FP32; δ = dn / dd is exact. -/
def horner (dn : Int) (dd : Nat) : List Nat → Nat → Nat
  | [], y => y
  | c :: cs, y => horner dn dd cs (rne32 (Val.add 0 (Val.mul (f32 y) (Val.ofFrac dn dd)) (f32 c)))

/-- g(r) for r = n / d in a binade of the tables. -/
def evalTable (f : Fn) (v n d : Nat) : Nat :=
  let e := floorLog n d
  -- r / 2^e as a fraction
  let rn := if 0 ≤ e then n else n * 2 ^ (-e).toNat
  let rd := if 0 ≤ e then d * 2 ^ e.toNat else d
  let b := verB v
  let j := (rn - rd) * 2 ^ b / rd
  -- the centre 2^e (1 + (2j + 1) / 2^(B+1))
  let cn := 2 ^ (b + 1) + 2 * j + 1
  let cden := 2 ^ (b + 1)
  let cn' : Nat := if 0 ≤ e then cn * 2 ^ e.toNat else cn
  let cd' : Nat := if 0 ≤ e then cden else cden * 2 ^ (-e).toNat
  let dn : Int := (n : Int) * cd' - (cn' : Int) * d
  match (tableRow f v cn' cd').reverse with
  | [] => 0
  | y :: cs => horner dn (d * cd') cs y

/-- A fixed-point expression as a value. -/
def fxVal (z : Int) : Val := Val.ofFrac z (2 ^ fxP)

/-- g(r) for r = n / d: by the table from 2^emin on, else the small-argument expression rounded once. -/
def evalG (f : Fn) (v : Nat) (emin : Int) (small : Val) (n d : Nat) : Val :=
  if n = 0 || decide (floorLog n d < emin) then f32 (rne32 small) else f32 (evalTable f v n d)

/-- A value times 2^k. -/
def Val.scale (x : Val) (k : Int) : Val := Val.mul x (Val.dyadic false 1 k)

/-- The parts of a positive n / d: m = n / d / 2^e in [1, 2) as a fraction, and e. -/
def normParts (n d : Nat) : Nat × Nat × Int :=
  let e := floorLog n d
  if 0 ≤ e then (n, d * 2 ^ e.toNat, e) else (n * 2 ^ (-e).toNat, d, e)

def nan32 : Nat := nanCode 0
def inf32 (s : Bool) : Nat := infCode 0 + (if s then 2 ^ 31 else 0)
def zero32 (s : Bool) : Nat := if s then 2 ^ 31 else 0
def one32 (s : Bool) : Nat := 0x3F800000 + (if s then 2 ^ 31 else 0)

def tExp2 (v : Nat) (x : Val) : Nat :=
  match x with
  | .nan => nan32
  | .inf s => if s then 0 else inf32 false
  | .fin _ _ d =>
    let z := x.num
    if z ≥ 128 * (d : Int) then inf32 false
    else if z < -150 * (d : Int) then 0
    else
      let n := z / (d : Int)
      let r := (z - n * d).toNat
      let y := evalG .exp2 v (-12) (fxVal (fxOne + fxMul (fxOfFrac r d) fxLn2)) r d
      rne32 (y.scale n)

def tLog2 (v : Nat) (x : Val) : Nat :=
  match x with
  | .nan => nan32
  | .inf s => if s then nan32 else inf32 false
  | .fin s n d =>
    if n = 0 then inf32 true else if s then nan32
    else
      let (mn, md, e) := normParts n d
      let r := mn - md
      let y := evalG .log2 v (-12) (fxVal (fxDiv (fxOfFrac r md) fxLn2)) r md
      rne32 (Val.add 0 (.ofInt e) y)

def tRcp (v : Nat) (x : Val) : Nat :=
  match x with
  | .nan => nan32
  | .inf s => zero32 s
  | .fin s n d =>
    if n = 0 then inf32 s
    else
      let (mn, md, e) := normParts n d
      let y := evalG .rcp v 0 .zero mn md
      rne32 ((if s then y.negate else y).scale (-e))

def tRsq (v : Nat) (x : Val) : Nat :=
  match x with
  | .nan => nan32
  | .inf s => if s then nan32 else 0
  | .fin s n d =>
    if n = 0 then inf32 s else if s then nan32
    else
      let (mn, md, e) := normParts n d
      let h := e / 2
      let y := evalG .rsq v 0 .zero (if e % 2 = 0 then mn else 2 * mn) md
      rne32 (y.scale (-h))

/-- VSIN (cosine false) and VCOS (cosine true). -/
def tSinCos (v : Nat) (cosine : Bool) (x : Val) : Nat :=
  match x with
  | .nan => nan32
  | .inf _ => nan32
  | .fin sg n d =>
    if n = 0 && sg && !cosine then zero32 true
    else
      let z := x.num
      let s := (z % (2 * (d : Int))).toNat       -- x - 2⌊x/2⌋, over d
      let h := 2 * s / d
      let r := 2 * s - h * d                      -- over 2 d
      let rx := fxMul fxPi (fxOfFrac r (2 * d))
      let sine := if cosine then h % 2 = 1 else h % 2 = 0
      let y := if sine then evalG .sinPi v (-13) (fxVal rx) r (2 * d)
        else evalG .cosPi v (-13) (fxVal (fxOne - fxMul rx rx / 2)) r (2 * d)
      let plus := if cosine then h = 0 ∨ h = 3 else h = 0 ∨ h = 1
      let c := rne32 (if plus then y else y.negate)
      if c % 2 ^ 31 = 0 then 0 else c

def tTanh (v : Nat) (x : Val) : Nat :=
  match x with
  | .nan => nan32
  | .inf s => one32 s
  | .fin s n d =>
    if n = 0 then zero32 s else if 16 * d ≤ n then one32 s
    else
      let y := evalG .tanh v (-12) (.fin false n d) n d
      rne32 (if s then y.negate else y)

def tSigm (v : Nat) (x : Val) : Nat :=
  match x with
  | .nan => nan32
  | .inf s => if s then 0 else one32 false
  | .fin s n d =>
    if 128 * d ≤ n then (if s then 0 else one32 false)
    else
      let small := Val.add 0 (.fin false 1 2) (Val.ofFrac x.num (4 * d))
      rne32 (evalG (if s && n ≠ 0 then .sigmNeg else .sigmPos) v (-12) small n d)

def tErf (v : Nat) (x : Val) : Nat :=
  match x with
  | .nan => nan32
  | .inf s => one32 s
  | .fin s n d =>
    if n = 0 then zero32 s else if 4 * d ≤ n then one32 s
    else
      let y := evalG .erf v (-12) (fxVal (fxDiv (2 * fxOfFrac n d) (fxSqrt fxPi))) n d
      rne32 (if s then y.negate else y)

end Sys2Proof.Machine
end

