-- ==== Sys2Proof/Machine/VCompute.lean ====
section
/-! DEFINITION. What vector instructions compute from the operands they have read (08: R203, R204, R210 to
R236): the code of each lane, the reductions, the scales of VQNT, the records of DEFER. An operand is one
number, its lowest byte least significant. -/

namespace Sys2Proof.Machine

/-- Element j of format t among packed elements (05: R130; 08: R203). -/
def elem (t x j : Nat) : Nat := (x >>> (fmtBits t * j)) % 2 ^ fmtBits t

/-- Operand field f as read so far. -/
def VOp.opnd (v : VOp) (f : Nat) : Nat := sget 0 v.snap f

/-- Lane j of operand field f. -/
def VOp.lane (v : VOp) (f j : Nat) : Nat := elem (srcFmt v.i f) (v.opnd f) j

def VOp.active (v : VOp) (j : Nat) : Bool := v.mask.testBit j

/-- The bits set below position n. -/
def popBelow (x : Nat) : Nat → Nat
  | 0 => 0
  | n + 1 => popBelow x n + (if x.testBit n then 1 else 0)

/-- The active lanes below n, ascending. -/
def VOp.actives (v : VOp) : List Nat := (List.range v.n).filter v.active

/-! ### Draws (05: R145 to R148; 08: R211) -/

/-- The key and the identity of draw stream st in core g. -/
def coreKey (s : State) (g : Nat) : List W32 :=
  (List.range 4).map fun i => BitVec.ofNat 32 (csrNat (s.core g).k (csrKey i))

def coreIdent (s : State) (g st : Nat) : Nat := setBits (csrNat (s.core g).k csrIdent) 23 16 st

/-- The draw word of lane j of a draw of an actor, under a key and an identity, that starts at counter n. -/
def drawOf (a : Actor) (key : List W32) (ident n j : Nat) : Nat :=
  match a with
  | .core _ _ => drawWord key ident n j
  | _ => (Config.lbpDraw (n + j)).toNat

/-- The draw word of lane j of an instruction: of the counter, the key and the identity at its issue (05: R147). -/
def VOp.word (a : Actor) (v : VOp) (j : Nat) : Nat := drawOf a v.key v.ident v.draw j

/-- u_j of an instruction with rounding code rm. -/
def VOp.u (a : Actor) (v : VOp) (rm j : Nat) : Nat := if rm = 4 then v.word a j else 0

/-! ### Element arithmetic (08: R212 to R217) -/

/-- The position of a wide float code in the order of its values, -0 below +0. -/
def floatKey (t c : Nat) : Int :=
  if signBit t ≤ c then -((c % signBit t : Nat) : Int) - 1 else (c : Int)

def isNanCode (t c : Nat) : Bool := isWide t && decide (infCode t < c % signBit t)

/-- VMIN and VMAX (08: R214). -/
def vmin2 (t x y : Nat) : Nat :=
  if isWide t then
    if isNanCode t x then (if isNanCode t y then nanCode t else y)
    else if isNanCode t y then x
    else if floatKey t x ≤ floatKey t y then x else y
  else if sx x (fmtBits t) ≤ sx y (fmtBits t) then x else y

def vmax2 (t x y : Nat) : Nat :=
  if isWide t then
    if isNanCode t x then (if isNanCode t y then nanCode t else y)
    else if isNanCode t y then x
    else if floatKey t y ≤ floatKey t x then x else y
  else if sx y (fmtBits t) ≤ sx x (fmtBits t) then x else y

/-- VADD (0), VSUB (1), VMUL (2), VFMA (3), VFMS (4), VFNMA (5) on codes (08: R212). -/
def varith (op t rm u x y z : Nat) : Nat :=
  if isWide t then
    let a := decode5 t x
    let b := decode5 t y
    let c := decode5 t z
    let e := match op with
      | 0 => Val.add rm a b
      | 1 => Val.add rm a b.negate
      | 2 => Val.mul a b
      | 3 => Val.add rm (Val.mul a b) c
      | 4 => Val.add rm (Val.mul a b) c.negate
      | _ => Val.add rm (Val.mul a b).negate c
    rnd t e rm u
  else
    let w := fmtBits t
    let a := sx x w
    let b := sx y w
    let c := sx z w
    wrap w (match op with
      | 0 => a + b
      | 1 => a - b
      | 2 => a * b
      | 3 => a * b + c
      | 4 => a * b - c
      | _ => -(a * b) + c)

/-- VABS. -/
def vabsOf (t x : Nat) : Nat :=
  if isWide t then (if isNanCode t x then nanCode t else x % signBit t)
  else wrap (fmtBits t) (sx x (fmtBits t)).natAbs

/-- VNEG. -/
def vnegOf (t x : Nat) : Nat :=
  if isWide t then (if isNanCode t x then nanCode t else x ^^^ signBit t) else wrap (fmtBits t) (-(sx x (fmtBits t)))

/-- VCLAMP (08: R215). -/
def vclampOf (t lo hi src : Nat) : Nat := if isNanCode t src then nanCode t else vmin2 t (vmax2 t src lo) hi

/-- VSAT to the range of format t2 (08: R215). R215 calls every bound exact in T, which 65,504 is not in BF16: the bound of
VSAT.BF16.F16 is the BF16 number nearest to it, 65,536 (the model's choice, log entry 94). -/
def vsatOf (t t2 x : Nat) : Nat :=
  if isWide t then
    if isNanCode t x then nanCode t
    else
      let big := floatValue t2 (maxCode t2)
      let own := floatValue t (maxCode t)
      let m := rnd t (if big.lt own then big else own) 0 0
      if m < x % signBit t then x / signBit t * signBit t + m else x
  else
    let b : Int := (2 ^ (bitsOf t2 - 1) : Nat)
    wrap (fmtBits t) (max (min (sx x (fmtBits t)) (b - 1)) (-b))

/-- VCMP: EQ, NE, LT, LE, GT, GE (08: R217). -/
def vcmpOf (cnd t x y : Nat) : Bool :=
  let (un, eq, lt) :=
    if isWide t then
      (isNanCode t x || isNanCode t y, Val.same (decode5 t x) (decode5 t y), Val.lt (decode5 t x) (decode5 t y))
    else (false, decide (x = y), decide (sx x (fmtBits t) < sx y (fmtBits t)))
  match cnd with
  | 0 => !un && eq
  | 1 => un || !eq
  | 2 => !un && lt
  | 3 => !un && (lt || eq)
  | 4 => !un && !lt && !eq
  | _ => !un && !lt

def shiftAmt (t y : Nat) : Nat := y % fmtBits t

/-- VSRA (08: R216). -/
def vsraOf (t x k : Nat) : Nat := wrap (fmtBits t) (sx x (fmtBits t) / (2 ^ k : Nat))

/-- VCVT and VSRND (08: R223). -/
def vcvtOf (t t2 x rm u : Nat) : Nat := rnd t (decode5 t2 x) rm u

/-- The code that lane word u gives under VRAND (08: R233). -/
def vrandOf (t u : Nat) : Nat :=
  match t with
  | 0 => rnd 0 (.ofFrac (u / 2 ^ 8 : Nat) (2 ^ 24)) 0 0
  | 1 => rnd 1 (.ofFrac (u / 2 ^ 21 : Nat) (2 ^ 11)) 0 0
  | 2 => rnd 2 (.ofFrac (u / 2 ^ 24 : Nat) (2 ^ 8)) 0 0
  | _ => u % 2 ^ fmtBits t

/-- A transcendental of table version ftv on an FP32 code. -/
def transOf (i : Instr) (ftv x : Nat) : Nat :=
  match i with
  | .vexp2 _ _ _ => tExp2 ftv (f32 x)
  | .vlog2 _ _ _ => tLog2 ftv (f32 x)
  | .vrcp _ _ _ => tRcp ftv (f32 x)
  | .vrsq _ _ _ => tRsq ftv (f32 x)
  | .vsin _ _ _ => tSinCos ftv false (f32 x)
  | .vcos _ _ _ => tSinCos ftv true (f32 x)
  | .vtanh _ _ _ => tTanh ftv (f32 x)
  | .vsigm _ _ _ => tSigm ftv (f32 x)
  | _ => tErf ftv (f32 x)

/-! ### Quantisation (05: R139, R140; 08: R224, R225) -/

/-- A poison bit covers a byte of block b of operand field f. -/
def VOp.blockPoison (v : VOp) (f b : Nat) : Bool :=
  let w := 4 * fmtBits (srcFmt v.i f)
  let p := sget 0 v.poison f
  (List.range (w / 32 + 2)).any fun i =>
    let k := b * w / 32 + i
    decide (32 * k < (b + 1) * w) && p.testBit k

/-- The lanes of block b below n. -/
def blockLanes (n b : Nat) : List Nat := (List.range 32).filterMap fun i => if 32 * b + i < n then some (32 * b + i) else none

/-- x_j of VQNT: an infinity counts as ±FPMAX of its format. -/
def qntValue (t2 x : Nat) : Val :=
  match decode5 t2 x with
  | .inf s => if s then (floatValue 0 (maxCode 0)).negate else floatValue 0 (maxCode 0)
  | e => e

/-- Block b of a VQNT is poisoned: a NaN in it, or a poison bit. -/
def VOp.qntPoison (v : VOp) (b : Nat) : Bool :=
  v.blockPoison 1 b || (blockLanes v.n b).any fun j => (decode5 (srcFmt v.i 1) (v.lane 1 j)).isNan

/-- MAXF of a narrow float or integer format. -/
def maxOf (t : Nat) : Val := if isFloat t then floatValue t (maxCode t) else .ofInt ((2 ^ (bitsOf t - 1) : Nat) - 1)

/-- The least scale code in [c, c + fuel) that covers amax; 0x1FE if none. -/
def leastScale (t : Nat) (amax : Val) : Nat → Nat → Nat
  | 0, _ => 0x1FE
  | fuel + 1, c => if (Val.mul (scale9 c) (maxOf t)).lt amax then leastScale t amax fuel (c + 1) else c

/-- The scale code of block b of a VQNT to format t. -/
def VOp.qntScale (v : VOp) (t b : Nat) : Nat :=
  if v.qntPoison b then poisonScale
  else
    let amax := (blockLanes v.n b).foldl (fun m j =>
      let x := (qntValue (srcFmt v.i 1) (v.lane 1 j)).abs
      if m.lt x then x else m) Val.zero
    if amax.isZero then 0x0FE else leastScale t amax 0x1FF 0

/-- The exact quotient by a scale. -/
def divScale (x : Val) (c : Nat) : Val :=
  match x, scale9 c with
  | .fin s n d, .fin _ m e => .fin s (n * e) (d * m)
  | y, _ => y

/-- The code of lane j of a VQNT to format t. -/
def VOp.qntCode (a : Actor) (v : VOp) (t rm j : Nat) : Nat :=
  let c := v.qntScale t (j / 32)
  if c = poisonScale then 0
  else rnd t (divScale (qntValue (srcFmt v.i 1) (v.lane 1 j)) c) rm (v.u a rm j)

/-- Lane j of a VDQNT. -/
def VOp.dqntCode (a : Actor) (v : VOp) (t rm j : Nat) : Nat :=
  let c := elem 11 (v.opnd 2) (j / 32) % 512
  if c = poisonScale || v.blockPoison 1 (j / 32) then nanCode t
  else rnd t (Val.mul (decode5 (srcFmt v.i 1) (v.lane 1 j)) (scale9 c)) rm (v.u a rm j)

/-! ### Permutes (08: R226 to R229) -/

/-- The lane that VSHUF moves to lane j; none where the lane is unchanged. -/
def VOp.shuf (v : VOp) (lbp : Bool) (fn t j : Nat) : Option Nat :=
  let h := v.n / 2
  match fn with
  | 4 =>
    let rl := capOf lbp t / 64
    if j < 64 * rl then some (v.lane 1 (j % 64 * rl + j / 64)) else none
  | 0 => if j < 2 * h then some (v.lane (1 + j % 2) (j / 2)) else none
  | 1 => if j < 2 * h then some (v.lane (1 + j % 2) (h + j / 2)) else none
  | 2 => if j < 2 * h then some (if j < h then v.lane 1 (2 * j) else v.lane 2 (2 * (j - h))) else none
  | _ => if j < 2 * h then some (if j < h then v.lane 1 (2 * j + 1) else v.lane 2 (2 * (j - h) + 1)) else none

/-- VROT's amount: min(s(b), n, a chunk). -/
def VOp.rotBy (v : VOp) (lbp : Bool) (t : Nat) : Nat :=
  min (min v.s2.toNat v.n) (chunkBytes lbp / (fmtBits t / 8))

/-! ### Reductions (05: R144; 08: R230, R231) -/

/-- The identity of a reduction in format t. -/
def redIdent (fn t : Nat) : Nat :=
  match fn with
  | 0 => if isWide t then signBit t else 0
  | 1 => if isWide t then signBit t + infCode t else signBit t
  | 2 => if isWide t then infCode t else signBit t - 1
  | 3 => 2 ^ fmtBits t - 1
  | _ => 0

/-- One combination of codes: ADD, MAX, MIN, AND, OR, XOR. -/
def redOp (fn t rm x y : Nat) : Nat :=
  match fn with
  | 0 => varith 0 t rm 0 x y 0
  | 1 => vmax2 t x y
  | 2 => vmin2 t x y
  | 3 => x &&& y
  | 4 => x ||| y
  | _ => x ^^^ y

/-- v_j for j < m: lane j of the source, or the identity where it is inactive. -/
def VOp.redLanes (v : VOp) (fn t m : Nat) : List Nat :=
  (List.range m).map fun j => if v.active j then v.lane 1 j else redIdent fn t

/-- VRED's result. -/
def VOp.redResult (v : VOp) (fn t rm : Nat) : DWord :=
  let w := fmtBits t
  if fn = 0 && !isWide t then
    BitVec.ofInt 64 ((v.actives).foldl (fun z j => z + sx (v.lane 1 j) w) (0 : Int))
  else
    let r := tree (redOp fn t rm) (redIdent fn t) (v.redLanes fn t v.n)
    if (fn = 1 || fn = 2) && !isWide t then BitVec.ofInt 64 (sx r w) else BitVec.ofNat 64 r

/-- VDOT's result. -/
def VOp.dotResult (v : VOp) (t rm : Nat) : DWord :=
  if isWide t then
    let ps := v.actives.map fun j => Val.mul (decode5 t (v.lane 1 j)) (decode5 t (v.lane 2 j))
    let infs := ps.filter fun p => p = .inf true || p = .inf false
    if ps.any Val.isNan || (infs.contains (.inf true) && infs.contains (.inf false)) then 0x7FC00000
    else match infs with
      | p :: _ => BitVec.ofNat 64 (rnd 0 p rm 0)
      | [] =>
        let e := ps.foldl (Val.add 0) Val.zero
        if e.isZero then 0 else BitVec.ofNat 64 (rnd 0 e rm 0)
  else
    let w := fmtBits t
    BitVec.ofInt 64 (v.actives.foldl (fun z j => z + sx (v.lane 1 j) w * sx (v.lane 2 j) w) (0 : Int))

/-! ### VSAMP (08: R234) -/

/-- w_j in units of 2^-149. -/
def sampWeight (x : Nat) : Nat :=
  match f32 x with
  | .inf false => match floatValue 0 (maxCode 0) with
    | .fin _ n d => n * 2 ^ 149 / d
    | _ => 0
  | .fin false n d => n * 2 ^ 149 / d
  | _ => 0

/-- The smallest j, from j on, at which the running sum passes u × total / 2^64. -/
def sampPick (bound : Nat) : List Nat → Nat → Nat → Nat
  | [], _, j => j
  | w :: ws, sum, j => if bound < (sum + w) * 2 ^ 64 then j else sampPick bound ws (sum + w) (j + 1)

def VOp.sampResult (a : Actor) (v : VOp) : Nat :=
  let ws := (List.range v.n).map fun j => if v.active j then sampWeight (v.lane 1 j) else 0
  let total := ws.foldl (· + ·) 0
  let u := v.word a 0 * 2 ^ 32 + v.word a 1
  if total = 0 then 0xFFFFFFFF else sampPick (u * total) ws 0 0

/-! ### DEFER (08: R235) -/

def VOp.deferRecs (v : VOp) (fn : Nat) : List (BitVec 128) :=
  v.actives.map fun j =>
    BitVec.ofNat 128 (j + (List.range fn).foldl (fun z i => z + v.lane (i + 1) j * 2 ^ (32 * (i + 1))) 0)

/-! ### Stencils and resampling of an LBP (12: R334, R336, R337)

The samples that a TAP or REMAP has read lie in `snap` from key 16 on, 16 bits each. -/

/-- A value with an infinity taken as the largest finite FP16 value. -/
def finite16 (x : Val) : Val :=
  match x with
  | .inf s => .fin s 65504 1
  | _ => x

/-- A sample as IN reads it: unsigned, INT16 or FP16. -/
def sampleVal (inf code : Nat) : Val :=
  match inf with
  | 0 => .ofInt code
  | 1 => .ofInt (sx code 16)
  | _ => finite16 (decode5 1 code)

/-- An exact sum rounded to format t; a zero sum is +0. -/
def roundSum (t : Nat) (e : Val) : Nat := if e.isZero then 0 else rnd t e 0 0

/-- TAP's result for lane j. -/
def VOp.tapLane (v : VOp) (inf t kh kw j : Nat) : Nat :=
  let ps := (List.range kh).flatMap fun ky => (List.range kw).map fun kx =>
    Val.mul (finite16 (decode5 1 (v.lane 2 (kw * ky + kx)))) (sampleVal inf (elem 11 (v.opnd (16 + ky)) (kw * j + kx)))
  roundSum t (ps.foldl (Val.add 0) Val.zero)

/-- The weights of REMAP's four terms of lane j, in units of 1/256, with the column and the row, relative to
the reference row, of the first. -/
def VOp.remapOf (v : VOp) (j : Nat) : List Nat × Nat × Int :=
  let X := v.lane 1 j
  let y : Int := -(min (v.lane 4 j) 1536 : Nat)
  let fx := X % 16
  let fy := (y % 16).toNat
  ([(16 - fx) * (16 - fy), fx * (16 - fy), (16 - fx) * fy, fx * fy], X / 16, y / 16)

/-- REMAP's result for lane j. -/
def VOp.remapLane (v : VOp) (inf t j : Nat) : Nat :=
  let ws := (v.remapOf j).1
  let ps := (List.range 4).filterMap fun k =>
    let w := ws.getD k 0
    if w = 0 then none else some (Val.mul (.fin false w 256) (sampleVal inf (elem 11 (v.opnd 16) (4 * j + k))))
  roundSum t (ps.foldl (Val.add 0) Val.zero)

/-! ### The code of a lane -/

/-- The result of lane j of an instruction that works lane by lane, mask aside; none where the lane is left
unchanged. -/
def VOp.value (a : Actor) (v : VOp) (j : Nat) : Option Nat :=
  let lbp := isLbp a
  let A := v.lane 1 j
  let B := v.lane 2 j
  let C := v.lane 3 j
  let T (x : XV) : Nat := x.t.toNat
  let R (x : XV) : Nat := x.rm.toNat
  let ar (op : Nat) (x : XV) : Option Nat := some (varith op (T x) (R x) (v.u a (R x) j) A B C)
  match v.i with
  | .vadd _ _ x => ar 0 x
  | .vsub _ _ x => ar 1 x
  | .vmul _ _ x => ar 2 x
  | .vfma _ _ x => ar 3 x
  | .vfms _ _ x => ar 4 x
  | .vfnma _ _ x => ar 5 x
  | .vmulh _ _ x =>
    let w := fmtBits (T x)
    some (wrap w (sx A w * sx B w / (2 ^ w : Nat)))
  | .vmin _ _ x => some (vmin2 (T x) A B)
  | .vmax _ _ x => some (vmax2 (T x) A B)
  | .vabs _ _ x => some (vabsOf (T x) A)
  | .vneg _ _ x => some (vnegOf (T x) A)
  | .vnot _ _ x => some (A ^^^ (2 ^ fmtBits (T x) - 1))
  | .vmov _ _ _ => some A
  | .vclamp _ _ x => some (vclampOf (T x) A B C)
  | .vsat _ _ x => some (vsatOf (T x) x.t2.toNat A)
  | .vand _ _ _ => some (A &&& B)
  | .vor _ _ _ => some (A ||| B)
  | .vxor _ _ _ => some (A ^^^ B)
  | .vshl _ _ x => some (A * 2 ^ shiftAmt (T x) B % 2 ^ fmtBits (T x))
  | .vshr _ _ x => some (A / 2 ^ shiftAmt (T x) B)
  | .vsra _ _ x => some (vsraOf (T x) A (shiftAmt (T x) B))
  | .vsel _ _ _ => some (if v.active j then A else B)
  | .vbcast _ _ x => some (v.s1.toNat % 2 ^ fmtBits (T x))
  | .viota _ _ x => some ((if x.men then popBelow v.mask j else j) % 2 ^ fmtBits (T x))
  | .vcvt _ _ x => some (vcvtOf (T x) x.t2.toNat A (R x) 0)
  | .vsrnd _ _ x => some (vcvtOf (T x) x.t2.toNat A (R x) (v.u a (R x) j))
  | .vqnt _ _ x => some (v.qntCode a (T x) (R x) j)
  | .vdqnt _ _ x => some (v.dqntCode a (T x) (R x) j)
  | .vexp2 _ _ _ | .vlog2 _ _ _ | .vrcp _ _ _ | .vrsq _ _ _ | .vsin _ _ _ | .vcos _ _ _ | .vtanh _ _ _
  | .vsigm _ _ _ | .verf _ _ _ => some (transOf v.i v.s1.toNat A)
  | .vrand _ _ x => some (vrandOf (T x) (v.word a j))
  | .vperm _ _ x => some (v.lane 1 (B % capOf lbp (T x)))
  | .vshuf _ fn _ x => v.shuf lbp fn.toNat (T x) j
  | .vrot _ _ x =>
    let k := v.rotBy lbp (T x)
    some (if k ≤ j then v.lane 1 (j - k) else v.lane 3 (v.n - k + j))
  | .vcomp _ _ _ => some (match (v.actives)[j]? with
    | some i => v.lane 1 i
    | none => B)
  | .vexpd _ _ _ => some (if v.active j then v.lane 1 (popBelow v.mask j) else B)
  | .vscan _ fn _ x =>
    some (tree (redOp fn.toNat (T x) (R x)) (redIdent fn.toNat (T x)) (v.redLanes fn.toNat (T x) (j + 1)))
  | .tap _ _ _ inf t kh kw _ => some (v.tapLane inf.toNat t.toNat kh.toNat kw.toNat j)
  | .remap _ _ inf t => some (v.remapLane inf.toNat t.toNat j)
  | _ => none

/-- The instruction writes every lane below n whatever its mask holds. -/
def ignoresMask (i : Instr) : Bool :=
  match i with
  | .vsel _ _ _ | .vqnt _ _ _ | .viota _ _ _ | .vcomp _ _ _ | .vexpd _ _ _ => true
  | .tap _ _ _ _ _ _ _ _ | .remap _ _ _ _ => true
  | .vshuf _ fn _ _ => fn = 4
  | _ => false

/-- What lane j of the destination receives (08: R204). -/
def VOp.laneOut (a : Actor) (v : VOp) (j : Nat) : Option Nat :=
  if ignoresMask v.i || v.active j then v.value a j
  else match xvOf v.i with
    | some x => if x.mz then (v.value a j).map fun _ => 0 else none
    | none => none

/-- The bits that lanes give in packed elements of b bits: those to clear and those to set. -/
def packLanes (b : Nat) (ls : List (Nat × Nat)) : Nat × Nat :=
  ls.foldl (fun p l => (p.1 + (2 ^ b - 1) * 2 ^ (b * l.1), p.2 + l.2 * 2 ^ (b * l.1))) (0, 0)

/-- The bytes of chunk k of the destination that the lanes give, as bits to clear and to set. -/
def VOp.chunkOut (a : Actor) (v : VOp) (k : Nat) : Nat × Nat :=
  let lbp := isLbp a
  let t := resultFmt v.i
  let b := fmtBits t
  let lo := firstLane lbp t k
  let hi := min v.n (lastLane lbp t k + 1)
  let ls := (List.range (hi - lo)).filterMap fun i => (v.laneOut a (lo + i)).map fun c => (lo + i, c)
  let (cl, st) := packLanes b (ls.map fun l => (l.1 - lo, l.2))
  let cb := 8 * chunkBytes lbp
  let cut (x : Nat) : Nat := (if b * lo < k * cb then x >>> (k * cb - b * lo) else x <<< (b * lo - k * cb)) % 2 ^ cb
  (cut cl, cut st)

/-- The poison word of a chunk of VQNT codes: bit j where a byte of a poisoned block lies in its bytes
[32j+31:32j] (08: R224). -/
def VOp.qntPush (v : VOp) (t k : Nat) : W32 :=
  let w := 4 * bitsOf t
  (List.range (ceilDiv v.n 32)).foldl (fun (p : W32) b =>
    if v.qntPoison b then
      (List.range 32).foldl (fun (p : W32) j =>
        let lo := 1024 * k + 32 * j
        if lo < (b + 1) * w ∧ b * w < lo + 32 then p ||| (1#32 <<< j) else p) p
    else p) 0

end Sys2Proof.Machine
end

