-- ==== Sys2Proof/Machine/MCompute.lean ====
section
/-! DEFINITION. The arithmetic of the matrix engine (05: R136 to R138, R141 to R143; 09: R246 to R253, R260):
operands as exact integers of a fixed scale, the product of a K-block with its checks, the accumulate
stage, the readout. -/

namespace Sys2Proof.Machine

/-- Elements of format t are integers in units of 2^-scaleOf t. -/
def scaleOf (t : Nat) : Nat := if isFloat t then biasOf t - 1 + mfOf t else if t = 10 then 6 else 0

/-- The integer of a code of format t; an infinity is the largest finite value (05: R136). -/
def elemInt (t c : Nat) : Int :=
  if isFloat t then
    let a := min (c % signBit t) (maxCode t)
    let e := a / 2 ^ mfOf t
    let f := a % 2 ^ mfOf t
    let m : Nat := if e = 0 then f else (2 ^ mfOf t + f) * 2 ^ (e - 1)
    if signBit t ≤ c then -(m : Int) else m
  else if t = 10 then ds8Value c
  else sx c (bitsOf t)

/-- A block holds a NaN. -/
def blockNan (t x b : Nat) : Bool :=
  (t = 1 || t = 2) && (List.range 32).any fun k => isNanCode t (elem t x (32 * b + k))

/-- The block b of an operand as integers. -/
def blockInts (t x b : Nat) : List Int := (List.range 32).map fun k => elemInt t (elem t x (32 * b + k))

/-- Poison bits that cover a byte of row i of the A operand, one for 32 bytes (09: R246). -/
def rowPoison (t poi i : Nat) : Bool :=
  let w := 4 * bitsOf t
  (List.range (w / 32 + 2)).any fun d =>
    let k := i * w / 32 + d
    decide (32 * k < (i + 1) * w) && poi.testBit k

def dotInt : List Int → List Int → Int
  | a :: as, b :: bs => a * b + dotInt as bs
  | _, _ => 0

def sumInts (l : List Int) : Int := l.foldl (· + ·) 0

/-- T, the multiply time of an MMUL or MMULS. -/
def multiplyTime (i : Instr) : Nat :=
  match i with
  | .mmul _ _ x => (mulTime false x.ta x.tb).getD 0
  | .mmuls _ _ x => (mulTime true x.ta x.tb).getD 0
  | _ => 0

/-- The raw bytes of a B operand: RAW, LUT4, ZERO; the sparse layout of MMULS (09: R247, R248). -/
def rawBytes (i : Instr) (mode : Nat) : Nat :=
  match i with
  | .mmuls _ _ _ => 2560
  | .mmul _ _ x => match mode with
    | 0 => 512 * bitsOf x.tb.toNat
    | 1 => 256 * bitsOf x.tb.toNat
    | _ => 0
  | _ => 0

/-! ### The sparse layout (09: R248; 18: R437) -/

def metaWord (raw j : Nat) : Nat := (raw >>> (8 * (2048 + 4 * j))) % 2 ^ 32

def nibble (m g : Nat) : Nat := m / 2 ^ (4 * g) % 16

/-- The first illegal nibble: its column and its group. -/
def badNibble (raw : Nat) : Option (Nat × Nat) :=
  (List.range 128).findSome? fun j => (List.range 8).findSome? fun g =>
    let n := nibble (metaWord raw j) g
    if n % 4 < n / 4 then none else some (j, g)

/-- Column j as 32 integers. -/
def sparseInts (t raw j : Nat) : List Int :=
  let m := metaWord raw j
  let kept (e : Nat) : Int := elemInt t ((raw >>> (8 * (16 * j + e))) % 256)
  (List.range 32).map fun k =>
    let g := k / 4
    let n := nibble m g
    if k % 4 = n % 4 then kept (2 * g) else if k % 4 = n / 4 then kept (2 * g + 1) else 0

/-! ### The product (09: R249, R260) -/

/-- One row or column of an operand: its integers, and whether it is poisoned. -/
structure Line where
  v : List Int
  poi : Bool
  deriving DecidableEq, Repr

structure Product where
  vals : List (Nat × W32)      -- by 128 i + j, ascending, zeros left out
  poi : List (Nat × Bool)
  sat : Bool
  sats : List Nat              -- saturated elements
  deriving DecidableEq, Repr

/-- The partial sums of 128 rows by 128 columns; products are in units of 1 / d. -/
def productOf (rows cols : List Line) (d : Nat) : Product :=
  let r := (rows.zip (List.range 128)).foldl (fun (p : Product) row =>
    (cols.zip (List.range 128)).foldl (fun (p : Product) col =>
      let ix := 128 * row.2 + col.2
      if row.1.poi || col.1.poi then { p with poi := (ix, true) :: p.poi }
      else
        let (c, st) := sat32 (dotInt row.1.v col.1.v) d
        { p with
          vals := if c = 0 then p.vals else (ix, BitVec.ofNat 32 c) :: p.vals
          sat := p.sat || st
          sats := if st then ix :: p.sats else p.sats }) p) ⟨[], [], false, []⟩
  { r with vals := r.vals.reverse, poi := r.poi.reverse }

/-- An FP32 code of the partial as an integer in units of 2^-149. -/
def f32Int (c : Nat) : Int := elemInt 0 c

/-- |rne32(obs) - rne32(ref)| ≤ TOL × rne32(mag). -/
def checkOk (tol : Nat) (obs : Int) (ref mag : Int) (d : Nat) : Bool :=
  let o := rne32 (.ofFrac obs (2 ^ 149))
  let r := rne32 (.ofFrac ref d)
  let m := rne32 (.ofFrac mag d)
  let diff := (Val.add 0 (f32 o) (f32 r).negate).abs
  !(Val.mul (f32 tol) (f32 m)).lt diff

/-- The first failing column and the first failing row of the product; 0xFF for none. Lines with a poisoned or
a saturated element are not checked. -/
def checksum (tol : Nat) (rows cols : List Line) (d : Nat) (p : Product) (vals : SMap W32) : Nat × Nat :=
  let colSum (k : Nat) (f : Int → Int) : Int := sumInts (cols.map fun c => f (c.v.getD k 0))
  let rowSum (k : Nat) (f : Int → Int) : Int := sumInts (rows.map fun r => f (r.v.getD k 0))
  let mag (x : Int) : Int := x.natAbs
  let rs := (List.range 32).map fun k => (rowSum k id, rowSum k mag)
  let cs := (List.range 32).map fun k => (colSum k id, colSum k mag)
  let val (i j : Nat) : Int := f32Int (sget 0 vals (128 * i + j)).toNat
  let anyRowPoi := rows.any (·.poi)
  let anyColPoi := cols.any (·.poi)
  let badCol := (cols.zip (List.range 128)).findSome? fun c =>
    if c.1.poi || anyRowPoi || p.sats.any (fun x => x % 128 = c.2) then none
    else
      let obs := sumInts ((List.range 128).map fun i => val i c.2)
      if checkOk tol obs (dotInt (rs.map (·.1)) c.1.v) (dotInt (rs.map (·.2)) (c.1.v.map mag)) d then none else some c.2
  let badRow := (rows.zip (List.range 128)).findSome? fun r =>
    if r.1.poi || anyColPoi || p.sats.any (fun x => x / 128 = r.2) then none
    else
      let obs := sumInts ((List.range 128).map fun j => val r.2 j)
      if checkOk tol obs (dotInt (cs.map (·.1)) r.1.v) (dotInt (cs.map (·.2)) (r.1.v.map mag)) d then none else some r.2
  (badCol.getD 0xFF, badRow.getD 0xFF)

/-- The rows of A, and the columns of B. -/
def aLines (t x poi : Nat) : List Line :=
  (List.range 128).map fun i => ⟨blockInts t x i, rowPoison t poi i || blockNan t x i⟩

def bLines (i : Instr) (t x : Nat) : List Line :=
  match i with
  | .mmuls _ _ _ => (List.range 128).map fun j => ⟨sparseInts t x j, false⟩
  | _ => (List.range 128).map fun j => ⟨blockInts t x j, blockNan t x j⟩

/-! ### Accumulating (05: R142; 09: R251) -/

/-- A ← sat32(A + P × scales): the new code, and whether it saturated. -/
def accumulate (a p : Nat) (sr sc : Option Nat) : Nat × Bool :=
  let f (c : Option Nat) : Val := match c with
    | some x => scale9 x
    | none => .fin false 1 1
  let e := Val.add 0 (f32 a) (Val.mul (f32 p) (Val.mul (f sr) (f sc)))
  sat32 e.num e.den

/-! ### Reading out (05: R138; 09: R253) -/

/-- The rows that an MRD to format t reads. -/
def mrdRows (t : Nat) : Nat :=
  match bitsOf t with
  | 32 => 16
  | 16 => 32
  | 4 => 128
  | _ => 64

/-- The output of an MRD as one number, and its poisoned blocks' bytes as poison bits, one for 32 bytes. `u` is
the draw word of each element. -/
def readout (t rm row bank : Nat) (acc : SMap W32) (accP : SMap Bool) (u : Nat → Nat) : Nat × Nat :=
  let n := 128 * mrdRows t
  let b := bitsOf t
  let ix (m : Nat) : Nat := 16384 * bank + 128 * row + m
  let out := (List.range n).foldl (fun z m =>
    let c := if sget false accP (ix m) then rnd t Val.zero 0 0 else rnd t (f32 (sget 0 acc (ix m)).toNat) rm (u m)
    z + c * 2 ^ (b * m)) 0
  let poi := (List.range (n / 32)).foldl (fun z k =>
    if (List.range 32).any fun m => sget false accP (ix (32 * k + m)) then
      (List.range (4 * b / 32 + 2)).foldl (fun z d =>
        let j := 4 * b * k / 32 + d
        if 32 * j < 4 * b * (k + 1) && !z.testBit j then z + 2 ^ j else z) z
    else z) 0
  (out, poi)

end Sys2Proof.Machine
end

