-- ==== Sys2Proof/Machine/Access.lean ====
section
/-! DEFINITION. Memory accesses from their issue to their perform cycle (04: R105 to R111, R115; 10: R263,
R269; 17: R412, R417, R421, R422; 16: R403; 18: R432): timed accesses as landings, untimed ones as requests
that the banks serve, what each does when it performs, fences, and the race detector. -/

namespace Sys2Proof.Machine

/-! ### Issuing an access -/

def isLoad (m : MemOp) : Bool :=
  match m with
  | .load _ _ _ | .vload _ _ _ | .vgather _ _ _ _ | .qload _ _ | .tag _ _ _ | .rmw _ _ _ _ _ _ _ => true
  | .store _ | .scatter _ | .rmwWrite _ | .held _ _ | .ring _ _ _ _ => false

/-- The issuing sequencer's next access, lat cycles on: a landing in timed code, a request in tokened code
that reaches its bank then and performs in the first open cycle that it is given (03: R89; 04: R106; log entry 3). -/
def access (s : State) (i : Instr) (lat : Nat) (op : MemOp) : State :=
  let a := s.actor
  let org := s.origin a i
  let id := s.effNo
  let s :=
    if org.timed then s.addEff a (s.now a + lat) org (.perform op)
    else
      let r : UReq := {
        id := id, own := a, org := org, after := (s.seqr a).after,
        arrive := s.now a + lat, parts := op.sectors, op := op }
      { s with effNo := s.effNo + 1, reqs := s.reqs ++ [r] }
  let s := if isLoad op && !org.timed then noteIssue s a id ((op.runs.head?.map (·.1)).getD 0) else s
  s.modSeqr a fun q => { q with lastAcc := id }

/-- A landing with a number of its own that is already given. -/
def addLanding (s : State) (a : Actor) (l : Landing) : State :=
  match a with
  | .core g _ => s.modCore g fun c => { c with pend := c.pend ++ [l] }
  | .lbp n => s.setLbp n { s.lbp n with pend := (s.lbp n).pend ++ [l] }
  | _ => { s with mgmtPend := s.mgmtPend ++ [l] }

/-! ### What is still outstanding -/

def isAccess (e : Eff) : Bool :=
  match e with
  | .perform _ | .vstChunk _ _ _ _ | .vscatter _ _ _ _ | .l1Fill _ _ _ _ _ _ | .l1Back _ _ _ _ _ => true
  | _ => false

/-- An access of core g's sequencer q: a line pair of its LBLK or LBWB that waits at its banks. -/
def EReq.ofSeq (e : EReq) (g : Nat) (q : SeqId) : Bool :=
  decide (e.g = g) && (match e.org with
    | some o => decide (o.q = q)
    | none => false)

/-- Accesses of core g's sequencer q numbered up to `upTo` and below `before` have not all performed. -/
def outstanding (s : State) (g : Nat) (q : SeqId) (upTo : Nat) : Bool :=
  (s.reqs.any fun r => decide (r.own = .core g q) && decide (r.id ≤ upTo)) ||
  ((s.core g).pend.any fun l => decide (l.org.q = q) && isAccess l.eff && decide (l.id ≤ upTo)) ||
  s.ereqs.any fun e => e.ofSeq g q && decide (e.id ≤ upTo)

/-- Every access that must precede has performed (04: R110, R111). -/
def afterDone (s : State) (g : Nat) (after : SMap Nat) : Bool :=
  after.all fun e => !outstanding s g (seqOfNum e.1) e.2

/-- The runs that a landing which still has to store will write, or that a line pair moves. -/
def effStores (e : Eff) : List (Nat × Nat) :=
  match e with
  | .vstChunk _ _ rs _ => rs.map fun r => (r.1, r.2.2)
  | .vscatter _ _ els _ => els.map fun r => (r.1, r.2.2)
  | .l1Fill _ _ _ a n _ | .l1Back _ _ a n _ => [(a, 128 * n)]
  | .perform m => if m.isWrite then m.runs else []
  | _ => []

/-- The runs that the access of a landing touches. -/
def effRuns (e : Eff) : List (Nat × Nat) :=
  match e with
  | .perform m => m.runs
  | _ => effStores e

/-- The runs that a line pair which waits at its banks moves. -/
def EReq.runs (e : EReq) : List (Nat × Nat) :=
  (e.rd.map fun r => (r.1, r.2.2)) ++ match e.back with
    | some (_, a, n) => [(a, 128 * n)]
    | none => []

def MemOp.isTag (m : MemOp) : Bool :=
  match m with
  | .tag _ _ _ => true
  | _ => false

/-- An earlier access of the same sequencer to a byte of the sector that request r wants has not performed
(04: R109). The comparison of a header performs with the first access of its instruction (10: R269). -/
def blockedByOrder (s : State) (r : UReq) (sec : Nat) : Bool :=
  let mine := (r.op.runs.map (clip sec)).filter fun x => decide (0 < x.2)
  let meets (rs : List (Nat × Nat)) : Bool := rs.any fun x => mine.any fun y => runsMeet x y
  (s.reqs.any fun e => decide (e.own = r.own) && decide (e.id < r.id) && e.parts.contains sec && meets e.op.runs
    && !(e.op.isTag && decide (e.org = r.org)))
  || (match r.own with
    | .core g q => (s.core g).pend.any fun l =>
        decide (l.org.q = q) && decide (l.id < r.id) && meets (effStores l.eff)
    | _ => false)
  || (match r.own with
    | .core g q => s.ereqs.any fun e => e.ofSeq g q && decide (e.id < r.id) && meets e.runs
    | _ => false)

/-- An earlier access of the same sequencer to a byte of these runs has not performed: what line pair l of core g's LBLK or
LBWB waits for in tokened code (04: R109). -/
def pairBlocked (s : State) (g : Nat) (l : Landing) (mine : List (Nat × Nat)) : Bool :=
  let meets (rs : List (Nat × Nat)) : Bool := rs.any fun x => mine.any fun y => runsMeet x y
  (s.reqs.any fun e => decide (e.own = .core g l.org.q) && decide (e.id < l.id) && meets e.op.runs)
  || ((s.core g).pend.any fun x => decide (x.org.q = l.org.q) && decide (x.id < l.id) && decide (x.org ≠ l.org) && meets (effStores x.eff))
  || s.ereqs.any fun e => e.ofSeq g l.org.q && decide (e.id < l.id) && meets e.runs

/-- A tag comparison that covers request r is still to come (10: R269). -/
def tagPending (s : State) (r : UReq) : Bool :=
  s.reqs.any fun e => decide (e.own = r.own) && (match e.op with
    | .tag _ _ n => decide (e.id + 1 < r.id) && decide (r.id ≤ e.id + n)
    | _ => false)

/-- The dies whose views a fence or a ring operation of that scope waits for (04: R114). -/
def spansDie (s : State) (p d : Nat) : Bool :=
  (List.range 96).any fun g => decide (dieOf g = d) && decide (s.partOfCore g = p)

def scopeDies (s : State) (g scope : Nat) : List Nat :=
  [0, 1].filter fun d => decide (d = dieOf g) || (decide (3 ≤ scope) && spansDie s (s.partOfCore g) d)

/-- A write is applied in each of the dies' views. -/
def appliedIn (w : VWrite) (ds : List Nat) : Bool := ds.all fun d => (w.left d).isNone

/-- Every write by an actor's accesses numbered below `before` is applied in the views of those dies. -/
def writesApplied (s : State) (a : Actor) (before : Nat) (ds : List Nat) : Bool :=
  s.vwrites.all fun w => !(decide (w.own = a) && w.acc ≠ 0 && decide (w.acc < before)) || appliedIn w ds

/-! ### Fences (04: R115) -/

/-- Every load of core g's sequencer q numbered below `before` has returned its data. -/
def loadsBack (s : State) (g : Nat) (q : SeqId) (before : Nat) : Bool :=
  (s.reqs.all fun r => !(decide (r.own = .core g q) && decide (r.id < before) && isLoad r.op)) &&
  ((s.core g).pend.all fun l => !(decide (l.org.q = q) && decide (l.id < before) && (match l.eff with
    | .perform m => isLoad m
    | .reg _ _ _ | .l1Fill _ _ _ _ _ _ => true
    | _ => false))) &&
  s.ereqs.all fun e => !(e.ofSeq g q && decide (e.id < before) && e.back.isNone)

/-- The fence of core g's sequencer q is complete. -/
def fenceDone (s : State) (g : Nat) (q : SeqId) (f : Fence) : Bool :=
  let ds := scopeDies s g f.scope
  let a : Actor := .core g q
  (f.v = 1 || loadsBack s g q f.id) &&
  (f.v = 2 || (!outstanding s g q (f.id - 1) && writesApplied s a f.id ds)) &&
  (f.v ≠ 3 || ((s.seqr a).seen.all fun n => s.vwrites.all fun w => w.id ≠ n || appliedIn w ds))

/-- A fence of the sequencer stands before access number id. -/
def fenced (q : Seqr) (id : Nat) : Bool := q.fences.any fun f => decide (f.id < id)

/-! ### The race detector (16: R403; 17: R421) -/

/-- The core of an agent of the race detector. -/
def agentCore (n : Nat) : Nat := if n < 400 then (n - 1) / 4 else (n - 1000) / 4

/-- An agent with that number lies in the scope, as core g's agents see it. -/
def inScope (s : State) (scope g n : Nat) : Bool :=
  if n = 600 then decide (scope = 4)
  else
    let h := agentCore n
    match scope with
    | 0 => decide (h = g)
    | 1 => decide (h / 4 = g / 4)
    | 2 => decide (dieOf h = dieOf g)
    | 3 => decide (s.partOfCore h = s.partOfCore g)
    | _ => true

/-- An agent's release at a scope: the writes of its accesses numbered up to upTo, and those that it has observed, are
covered. -/
def release (s : State) (a : Actor) (scope upTo : Nat) : State :=
  let cov := sset 0 (s.seqr a).clock (agentNo a) upTo
  { s with pubs := insert s.pubs (8 * agentNo a + scope) cov }

/-- An agent's acquire at a scope observes every release by an agent of the scope that reaches it. -/
def acquire (s : State) (g : Nat) (q : SeqId) (scope : Nat) : State :=
  let a : Actor := .core g q
  let got := s.pubs.filter fun e =>
    inScope s scope g (e.1 / 8) && inScope s (e.1 % 8) (agentCore (e.1 / 8)) (agentNo a)
  s.modSeqr a fun x => { x with
    clock := got.foldl (fun c e => joinAfter c e.2) x.clock
    syncs := x.syncs + 1 }

/-- The fault record or the trap of a finding (17: R422). -/
def raceFinding (s : State) (g : Nat) (q : SeqId) (sec pc : Nat) (timed : Bool) : State :=
  if s.fieldOf (offFctl (s.partOfCore g)) 7 7 = 1 then
    takeTrap s g (s.now (.core g q)) .race 0 (BitVec.ofNat 64 sec) q pc timed
  else recordCause s g .race 0 sec pc 0

/-- The writer that makes an access of core g's sequencer q to a sector a finding. -/
def raceWith (s : State) (g : Nat) (q : SeqId) (sec : Nat) : Option Nat :=
  match look s.race sec, regionOf sec with
  | some (w, n, _), .tile _ =>
    let a : Actor := .core g q
    if w ≠ agentNo a && decide (sget 0 (s.seqr a).clock w < n) then some w else none
  | _, _ => none

/-- The undecided finding of a load is decided when its sequencer's next access performs, of another instruction than
`org`, or when a fence completes. -/
def decideCand (s : State) (g : Nat) (q : SeqId) (org : Option Origin := none) : State :=
  let a : Actor := .core g q
  match (s.seqr a).cand with
  | none => s
  | some c =>
    if org = some c.org then s
    else raceFinding (s.modSeqr a fun x => { x with cand := none }) g q c.sec c.org.pc false

/-- The race detector sees an untimed access to sectors (17: R421). Of the sectors of one load the first with a finding
counts. -/
def raceSee (s : State) (g : Nat) (q : SeqId) (org : Origin) (load : Bool) (secs : List Nat) : State :=
  let s := decideCand s g q (some org)
  match secs.findSome? fun x => (raceWith s g q x).map fun w => (x, w) with
  | none => s
  | some (sec, w) =>
    if load then s.modSeqr (.core g q) fun x => { x with cand := some (x.cand.getD ⟨sec, org, w⟩) }
    else raceFinding s g q sec org.pc false

/-- A fence completes: what it waited for, the acquire and the release that it is, and the end of an undecided
finding whose writer its scope contains. -/
def completeFence (s : State) (g : Nat) (q : SeqId) (f : Fence) : State :=
  let a : Actor := .core g q
  let s := s.modSeqr a fun x => { x with fences := x.fences.filter fun e => e.id ≠ f.id }
  let s := if f.v = 1 then decideCand s g q
    else match (s.seqr a).cand with
      | some c =>
        if inScope s f.scope g c.w then s.modSeqr a fun x => { x with cand := none } else decideCand s g q
      | none => s
  let s := if f.v = 1 then s else acquire s g q f.scope
  if f.v = 2 then s else release s a f.scope f.id

/-! ### Performing -/

/-- The unit's cause after issue: the trap is taken in the cycle of detection, at the raising instruction
(18: R432). -/
def lateTrap (s : State) (a : Actor) (org : Origin) (c : Cause) (detail : Nat) (val : DWord) : State :=
  raise s a c detail val org.pc org.timed

/-- The L1D block that serves a chunk of these runs (03: R83). -/
def chunkBlock (s : State) (g : Nat) (rs : List (Nat × Nat × Nat)) : Option Nat :=
  let b := hull (rs.map fun r => (r.1, r.2.2))
  l1Serves (s.core g) b.1 b.2

/-- Runs of a chunk as core g reads them: by the L1D if one block holds every byte, else from the tile store
or scratchpad (03: R83). -/
def readRuns (s : State) (g : Nat) (rs : List (Nat × Nat × Nat)) : List (Nat × Bytes) :=
  let x := s.core g
  match chunkBlock s g rs with
  | some k => rs.map fun r => (r.2.1, x.l1d.read (l1Off (sget {} x.l1Dir k) r.1) r.2.2)
  | none => rs.map fun r => (r.2.1, s.readView (dieOf g) r.1 r.2.2)

/-- Runs placed at their offsets in a chunk. -/
def placeRuns (m : Mem) (rs : List (Nat × Bytes)) : Mem := rs.foldl (fun m r => m.write r.1 r.2) m

def uncorrectable (s : State) (g : Nat) (rs : List (Nat × Nat × Nat)) : Option Nat :=
  rs.findSome? fun r => coreEccAt s g r.1 r.2.2

/-- The lowest uncorrectable byte of n bytes of such a chunk at address a: of the block's lines, or of the memory. -/
def chunkEccAt (s : State) (g : Nat) (rs : List (Nat × Nat × Nat)) (a n : Nat) : Option Nat :=
  match chunkBlock s g rs with
  | some k => if (l1Lines (sget {} (s.core g).l1Dir k) a n).any fun l => sget false (s.core g).l1Ecc l then some a else none
  | none => eccAt s a n

/-- The lowest uncorrectable byte of a chunk. -/
def chunkEcc (s : State) (g : Nat) (rs : List (Nat × Nat × Nat)) : Option Nat :=
  rs.findSome? fun r => chunkEccAt s g rs r.1 r.2.2

/-- A single-bit error that core g's reads of memory correct is recorded (16: R391, DET 3, severity C). -/
def noteCorrected (s : State) (g : Nat) (org : Origin) (rs : List (Nat × Nat)) : State :=
  match rs.find? fun r => (l1Serves (s.core g) r.1 r.2).isNone && eccOf s r.1 r.2 = 1 with
  | none => s
  | some r => record s {
      det := 3, sev := 0, part := s.partOfCore g, ukind := 0, unit := g, detail := 0xD1A6,
      addr := r.1, tid := s.tidOf g, iter := (s.core g).iter, pc := org.pc }

/-- A later access of the same instruction than the chunk in hand is given up. -/
def dropLater (s : State) (g : Nat) (lo hi : Nat) : State :=
  let s := s.modCore g fun x => { x with
    pend := x.pend.filter fun l => !(decide (lo < l.id) && decide (l.id ≤ hi)
      && (match l.eff with
        | .perform _ | .l1Fill _ _ _ _ _ _ => true
        | _ => false))
    l1Dir := x.l1Dir.map fun e => if x.pend.any (fun l => decide (lo < l.id) && decide (l.id ≤ hi) && (match l.eff with
        | .l1Fill no _ _ _ _ _ => decide (no = e.2.no)
        | _ => false)) then (e.1, { e.2 with valid := false }) else e }
  { s with
    reqs := s.reqs.filter fun r => !(decide (lo < r.id) && decide (r.id ≤ hi))
    ereqs := s.ereqs.filter fun r => !(decide (lo < r.id) && decide (r.id ≤ hi)) }

/-- Poison bits of a queue entry whose 32-byte groups hold uncorrectable bytes (18: R439). -/
def poisonOf (s : State) (g : Nat) (rs : List (Nat × Nat × Nat)) : W32 :=
  rs.foldl (fun p r => (List.range (r.2.2 / 8)).foldl (fun (p : W32) i =>
    if (chunkEccAt s g rs (r.1 + 8 * i) 8).isSome then p ||| (1#32 <<< ((r.2.1 + 8 * i) / 32)) else p) p) 0

/-- The new value of a BRMW (10: R278). -/
def rmwValue (op w : Nat) (u : Bool) (x y z : Nat) : Nat :=
  let b := 8 * w
  let y := y % 2 ^ b
  let lt := if u then decide (x < y) else decide (sx x b < sx y b)
  match op with
  | 0 => (x + y) % 2 ^ b
  | 1 => if lt then x else y
  | 2 => if lt then y else x
  | 3 => x &&& y
  | 4 => x ||| y
  | 5 => y
  | _ => if x = z % 2 ^ b then y else x

/-- A landing due at the end of this cycle that a read performed in it makes. -/
def landNow (s : State) (g : Nat) (id : Nat) (org : Origin) (e : Eff) : State :=
  addLanding s (.core g org.q) ⟨s.now (.core g org.q), id, org, e, []⟩

/-- The writes that a load of these runs by core g has returned, and that the other view has not applied, are noted for a
full fence (04: R115); of an access to the bank itself, those not applied in its own view too. -/
def noteSeen (s : State) (g : Nat) (q : SeqId) (rs : List (Nat × Nat)) (bank : Bool := false) : State :=
  if s.vwrites = [] then s
  else
    let hit (l : Option (List (Nat × Byte))) : Bool := (l.getD []).any fun c => rs.any fun r => decide (r.1 ≤ c.1) && decide (c.1 < r.1 + r.2)
    let read := s.vwrites.filter fun x => if bank then hit x.left0 || hit x.left1
      else (x.left (dieOf g)).isNone && hit (x.left (1 - dieOf g))
    s.modSeqr (.core g q) fun y => { y with seen := y.seen ++ (read.map (·.id)).filter fun n => !y.seen.contains n }

/-- What core g notes of a read of runs: corrected errors, and the writes that it has returned. -/
def noteRead (s : State) (g : Nat) (org : Origin) (rs : List (Nat × Nat × Nat)) : State :=
  let bare := rs.map fun r => (r.1, r.2.2)
  noteSeen (noteCorrected s g org bare) g org.q bare

/-- An uncorrectable word stops an access of core g: its later accesses, numbered up to hi, are given up (18: R439). -/
def eccTrap (s : State) (g : Nat) (org : Origin) (id hi a : Nat) : State :=
  lateTrap (dropLater s g id hi) (.core g org.q) org .eccUncorr (eccDetail s a 1) (BitVec.ofNat 64 a)

/-- A loaded value, noted for the monitor and for a full fence. -/
def loadBack (s : State) (g : Nat) (org : Origin) (id : Nat) (d : Code) (a w : Nat) (bs : Bytes) : State :=
  let v := BitVec.ofNat 64 (leNat bs)
  landNow (noteValue (noteSeen s g org.q [(a, w)]) (.core g org.q) id v) g id org (.reg org.q d v)

/-- The header comparison of a tagged access (17: R412): the accesses that follow it are given up where the
tags differ, or where the header is uncorrectable (16: R391). -/
def tagCompare (s : State) (g : Nat) (org : Origin) (id h exp n : Nat) : State :=
  let got := leNat (coreRead s g (h + 12) 4)
  match coreEccAt s g (h + 12) 4 with
  | some x => eccTrap s g org id (id + n) x
  | none =>
  let s := noteSeen (noteCorrected s g org [(h + 12, 4)]) g org.q [(h + 12, 4)]
  if got = exp then s
  else lateTrap (dropLater s g id (id + n)) (.core g org.q) org .tagMismatch 0
    (BitVec.ofNat 64 (got + exp * 2 ^ 32))

/-- The read of a BRMW in its cycle p: the old value goes to s(d) and the new one is written in p + 2. -/
def rmwPerform (s : State) (g : Nat) (org : Origin) (id : Nat) (d : Code) (a w op : Nat) (u : Bool)
    (y z : DWord) : State :=
  let act : Actor := .core g org.q
  let p := s.now act
  match eccAt s a w with
  | some x => eccTrap (addLanding s act ⟨p + 2, id, org, .perform (.held a w), []⟩) g org id id x
  | none =>
    let x := leNat (latestRead s a w)
    let s := noteValue (noteSeen (noteCorrected s g org [(a, w)]) g org.q [(a, w)] true) act id (BitVec.ofNat 64 x)
    let late := if regionOf a ≠ .spad g && dieOfAddr a ≠ dieOf g then 24 else 0
    let s := addLanding s act ⟨p + 2 + late, id, org, .reg org.q d (BitVec.ofNat 64 x), []⟩
    let new := natLe w (rmwValue op w u x y.toNat z.toNat)
    addLanding s act ⟨p + 2, id, org, .perform (.rmwWrite (runCells a new)), []⟩

/-- A chunk of a vector load whose bytes `data` have been read lands (10: R265, R266). -/
def chunkLands (s : State) (g : Nat) (org : Origin) (id v k : Nat) (rs : List (Nat × Nat × Nat)) (data : Mem) : State :=
  match chunkEcc s g rs with
  | some x => eccTrap s g org id (id + 7 - k) x
  | none => landNow (noteRead s g org rs) g id org (.vrfRun (8192 * v + 1024 * k) (data.read 0 1024))

/-- The elements of a chunk of an indexed load land, and the zeros of its inactive lanes. -/
def gatherLands (s : State) (g : Nat) (org : Origin) (id v k : Nat) (els : List (Nat × Nat × Nat)) (zero : List Nat)
    (data : Mem) : State :=
  let base := 8192 * v + 1024 * k
  match uncorrectable s g els with
  | some x => eccTrap s g org id (id + 7 - k) x
  | none =>
    let cells := els.flatMap fun e => runCells (base + e.2.1) (data.read e.2.1 e.2.2)
    landNow (noteRead s g org els) g id org (.vrf (zero.map (fun o => (base + o, 0)) ++ cells))

/-- The entry of an RDQ goes to its queue, with the poison of uncorrectable words (18: R439). -/
def entryLands (s : State) (g : Nat) (org : Origin) (qn : Nat) (rs : List (Nat × Nat × Nat)) (data : Mem) : State :=
  let act : Actor := .core g org.q
  let p := poisonOf s g rs
  let bad := (chunkEcc s g rs).getD 0
  let s := if p = 0 then s else recordCause s g .eccUncorr (eccDetail s bad 1) bad org.pc 1
  pushAt (noteRead s g org rs) act g (s.now act) org qn ⟨data, p⟩

/-- What a read, or the reading side of an access, does in its perform cycle. -/
def performRead (s : State) (g : Nat) (org : Origin) (id : Nat) (op : MemOp) : State :=
  let act : Actor := .core g org.q
  match op with
  | .load d a w =>
    (match coreEccAt s g a w with
     | some x => lateTrap s act org .eccUncorr (eccDetail s x 1) (BitVec.ofNat 64 x)
     | none => loadBack (noteCorrected s g org [(a, w)]) g org id d a w (coreRead s g a w))
  | .vload v k rs => chunkLands s g org id v k rs (placeRuns [] (readRuns s g rs))
  | .vgather v k els zero => gatherLands s g org id v k els zero (placeRuns [] (els.map fun e => (e.2.1, coreRead s g e.1 e.2.2)))
  | .qload qn rs => entryLands s g org qn rs (placeRuns [] (readRuns s g rs))
  | .tag h exp n => tagCompare s g org id h exp n
  | .rmw d a w op u y z => rmwPerform s g org id d a w op u y z
  | .ring _ _ _ _ => s
  | .store _ | .scatter _ => s
  | .rmwWrite _ | .held _ _ => s

/-- What a write does in its perform cycle; BRMW counts as timed for the race detector (17: R421). -/
def performWrite (s : State) (g : Nat) (org : Origin) (id : Nat) (op : MemOp) : State :=
  match op with
  | .store cs => coreStoreCells s g org.q org.timed cs id
  | .scatter els => els.foldl (fun s e => coreStore s g org.q org.timed e.1 e.2 id) s
  | .rmwWrite cs =>
    if org.timed then timedWrite s cs
    else noteWriter (enterWrite s (.core g org.q) (s.partOfCore g) (origCd (dieOf g)) cs 0 id (agentNo (.core g org.q))) 0 0 0 cs
  | _ => s

/-! ### Untimed requests -/

/-- Bytes of an access's runs that lie in a sector, with their offsets in its chunk. -/
def clipRuns (sec : Nat) (rs : List (Nat × Nat × Nat)) : List (Nat × Nat × Nat) :=
  rs.filterMap fun r =>
    let c := clip sec (r.1, r.2.2)
    if 0 < c.2 then some (c.1, r.2.1 + (c.1 - r.1), c.2) else none

/-- The elements of an indexed access are accesses each of its own; any other access is one (03: R83). -/
def MemOp.indexed (m : MemOp) : Bool :=
  match m with
  | .vgather _ _ _ _ | .scatter _ => true
  | _ => false

/-- The L1D serves the access to these runs as things stand. -/
def l1Has (s : State) (g : Nat) (rs : List (Nat × Nat)) : Bool :=
  let b := hull rs
  (l1Serves (s.core g) b.1 b.2).isSome

/-- A request is served by the L1D as things stand, in every part of it. -/
def l1Whole (s : State) (g : Nat) (op : MemOp) : Bool :=
  match op with
  | .rmw _ _ _ _ _ _ _ | .ring _ _ _ _ | .rmwWrite _ | .held _ _ => false
  | _ => if op.indexed then op.runs.all fun r => l1Has s g [r] else l1Has s g op.runs

/-- A request goes to memory for its part in the sector at sec. -/
def needsBank (s : State) (g : Nat) (op : MemOp) (sec : Nat) : Bool :=
  if op.indexed then op.runs.any fun r => sectorOf r.1 = sec && !l1Has s g [r] else !l1Whole s g op

/-- A request performs in sectors secs: what it reads there is kept, what it writes there is written. -/
def performPart (s : State) (g : Nat) (r : UReq) (secs : List Nat) : State × UReq :=
  let put (got : List (Nat × Bytes)) : UReq := { r with ready := placeRuns r.ready got }
  let keep (rs : List (Nat × Nat × Nat)) : UReq :=
    put (if l1Whole s g r.op then readRuns s g rs
      else secs.flatMap fun sec => (clipRuns sec rs).map fun c => (c.2.1, s.readView (dieOf g) c.1 c.2.2))
  match r.op with
  | .vload _ _ rs => (s, keep rs)
  | .qload _ rs => (s, keep rs)
  | .vgather _ _ els _ => (s, put ((els.filter fun e => secs.contains (sectorOf e.1)).map fun e => (e.2.1, coreRead s g e.1 e.2.2)))
  | .store cs =>
    if l1Whole s g r.op then (coreStoreCells s g r.org.q false cs r.id, r)
    else
      let b := hull r.op.runs
      (storeMem s g r.org.q false r.id b.1 b.2 (cs.filter fun c => secs.contains (sectorOf c.1)), r)
  | .scatter els => (performWrite s g r.org r.id (.scatter (els.filter fun e => secs.contains (sectorOf e.1))), r)
  | _ => (s, r)

/-- The last sector of a request has performed: its data lands, or its single access is made. -/
def performLast (s : State) (g : Nat) (r : UReq) : State :=
  match r.op with
  | .vload v k rs => chunkLands s g r.org r.id v k rs r.ready
  | .vgather v k els zero => gatherLands s g r.org r.id v k els zero r.ready
  | .qload qn rs => entryLands s g r.org qn rs r.ready
  | .store _ | .scatter _ => s
  | .ring _ _ _ _ =>
    landNow s g r.id r.org (.perform r.op)
  | _ => performRead s g r.org r.id r.op

/-- The dies that a ring operation of core g waits for: RPUB and RREL release at partition scope
(04: R111). -/
def ringMayPerform (s : State) (g : Nat) (r : UReq) : Bool :=
  match r.op with
  | .ring fn _ _ _ => fn = 0 ||
      (!outstanding s g r.org.q (r.id - 1) && writesApplied s r.own r.id (scopeDies s g 3))
  | _ => true

/-- An access of core g to these addresses would cross a withdrawn SL-C (19: R459): its flits are discarded. -/
def cutOff (s : State) (g : Nat) (op : MemOp) (as : List Nat) : Bool :=
  s.gone 2 && !l1Whole s g op && as.any fun a => dieOfAddr a ≠ dieOf g

/-- Nothing in program order keeps request r of core g from performing in this cycle. -/
def reqMayPerform (s : State) (g : Nat) (r : UReq) : Bool :=
  !cutOff s g r.op r.parts &&
  decide (r.arrive ≤ s.now r.own) && !s.held (s.partOfCore g) && afterDone s g r.after
    && !fenced (s.seqr r.own) r.id && !tagPending s r && ringMayPerform s g r

/-- The comparison that the first access of a tagged instruction makes before it performs (10: R269). -/
def tagOf (s : State) (r : UReq) : Option UReq :=
  s.reqs.find? fun e => decide (e.own = r.own) && (match e.op with
    | .tag _ _ _ => decide (e.id + 1 = r.id)
    | _ => false)

/-- Request r performs in sectors secs, and is gone when it has performed in all of its sectors. -/
def servePart (s : State) (g : Nat) (r : UReq) (secs : List Nat) : State :=
  let load := isLoad r.op
  let watched := match r.op with
    | .rmw _ _ _ _ _ _ _ | .ring _ _ _ _ | .tag _ _ _ => false
    | _ => true
  let s := if watched then raceSee s g r.org.q r.org load secs else decideCand s g r.org.q (some r.org)
  let (s, r) := performPart s g r secs
  let r := { r with parts := r.parts.filter fun x => !secs.contains x }
  if r.parts.isEmpty then
    performLast { s with reqs := s.reqs.filter fun e => e.id ≠ r.id } g r
  else { s with reqs := s.reqs.map fun e => if e.id = r.id then r else e }

/-- Request r is served in sectors secs. The tag comparison that it makes comes first; where the tags differ, nothing of
the instruction performs (17: R412). -/
def serveReq (s : State) (g : Nat) (r : UReq) (secs : List Nat) : State :=
  match tagOf s r with
  | none => servePart s g r secs
  | some e =>
    let s := performRead { s with reqs := s.reqs.filter fun x => x.id ≠ e.id } g e.org e.id e.op
    if s.reqs.any fun x => x.id = r.id then servePart s g r secs else s

end Sys2Proof.Machine
end

