-- ==== Sys2Proof/Machine/LbpRows.lean ====
section
/-! DEFINITION. Line-buffer rows as TAP and REMAP read them (12: R330, R331, R334, R336, R337; 19: R456). -/

namespace Sys2Proof.Machine

/-! ### The configuration of a stage (12: R330) -/

/-- HGT as written; as a limit of coordinates 0 acts as 1, through `clampTo` (the model's choice, log entry 47). -/
def lbpHgt (s : State) (n : Nat) : Nat := s.fieldOf (offLbpcfg n) 63 48
/-- WID as written, above 4,096 too (the model's choice, log entry 47). -/
def lbpWid (s : State) (n : Nat) : Nat := s.fieldOf (offLbpcfg n) 47 32
def lbpNext (s : State) (n : Nat) : Nat := s.fieldOf (offLbpcfg n) 31 24
def lbpSrc (s : State) (n : Nat) : Nat := s.fieldOf (offLbpcfg n) 23 16
/-- NIN, within its limits. -/
def lbpNin (s : State) (n : Nat) : Nat := max 2 (min 128 (s.fieldOf (offLbpcfg n) 15 8))

/-- The sensor port that the chain of stage n starts from. -/
def chainPort (s : State) : Nat → Nat → Option Nat
  | 0, _ => none
  | fuel + 1, n =>
    let x := lbpSrc s n
    if 0x80 ≤ x then some (x - 0x80) else chainPort s fuel x

/-! ### Samples (12: R329, R334) -/

/-- Sample x of line-buffer slot k. -/
def Lbp.sample (l : Lbp) (k x : Nat) : Nat := l.buf.nat (8192 * k + 2 * x) 2

/-- x clamped to 0 … w - 1. -/
def clampTo (x : Int) (w : Nat) : Nat := min (max x 0).toNat (w - 1)

/-- The slot of row r of the input ring's current frame, or the ordinal where it lies outside [RIN, AIN).
An LBPCFG.HGT of 0 acts as 1 (the model's choice, log entry 47). -/
def ringSlot (s : State) (n fb : Nat) (r : Int) : Except Nat Nat :=
  let l := s.lbp n
  let q := (fb + clampTo r (lbpHgt s n)) % 2 ^ 64
  if l.rin ≤ q ∧ q < l.ain then .ok (q % lbpNin s n) else .error q

/-- Window row ky of a TAP: for every lane the KW samples that it takes. -/
def tapWindow (s : State) (n : Nat) (v : VOp) (src : Bool) (kw step ky : Nat) : Except Nat Nat :=
  let x0 := sx v.s1.toNat 16
  let r0 := sx (v.s1.toNat / 2 ^ 16) 16
  let slot : Except Nat Nat := if src then .ok (r0 + ky).toNat else ringSlot s n v.draw (r0 + ky)
  match slot with
  | .error q => .error q
  | .ok k => .ok ((List.range v.n).foldl (fun z j =>
      (List.range kw).foldl (fun z kx =>
        z + (s.lbp n).sample k (clampTo (x0 + (step * j + kx : Nat)) (lbpWid s n)) * 2 ^ (16 * (kw * j + kx))) z) 0)

/-- The samples of every lane of a REMAP. -/
def remapRows (s : State) (n : Nat) (v : VOp) : Except Nat Nat :=
  let rref := sx v.s2.toNat 16
  (List.range v.n).foldl (fun acc j =>
    let (ws, x0, y) := v.remapOf j
    (List.range 4).foldl (fun acc k =>
      match acc with
      | .error q => .error q
      | .ok z =>
        if ws.getD k 0 = 0 then .ok z
        else match ringSlot s n v.draw (rref + y + (k / 2 : Nat)) with
          | .error q => .error q
          | .ok sl => .ok (z + (s.lbp n).sample sl (clampTo (x0 + k % 2 : Nat) (lbpWid s n)) * 2 ^ (16 * (4 * j + k)))) acc)
    (.ok 0)

/-- What an instruction of LBP n reads from rows k cycles after its issue. -/
def VOp.lbpRows (v : VOp) (s : State) (n k : Nat) : Option (Except Nat Nat) :=
  if v.n = 0 then none
  else match v.i with
  | .tap _ _ src _ _ kh kw step => if k < kh.toNat then some (tapWindow s n v src kw.toNat step.toNat k) else none
  | .remap _ _ _ _ => if k = 0 then some (remapRows s n v) else none
  | _ => none

end Sys2Proof.Machine
end

