-- ==== Sys2Proof/Machine/VStep.lean ====
section
/-! DEFINITION. Vector instructions from issue to their last result (08: R205 to R209; 17: R406, R415, R476;
16: R399; 18: R433): when one may issue, its entry into the vector engine, the reading and popping of each
chunk, and the results of each cycle. -/

namespace Sys2Proof.Machine

/-! ### The vector engine of a unit -/

def State.vops (s : State) (a : Actor) : List VOp :=
  match a with
  | .core g _ => (s.core g).vops
  | .lbp n => (s.lbp n).vops
  | _ => []

def State.setVops (s : State) (a : Actor) (vs : List VOp) : State :=
  match a with
  | .core g _ => s.modCore g fun x => { x with vops := vs }
  | .lbp n => s.setLbp n { s.lbp n with vops := vs }
  | _ => s

def State.veFree (s : State) (a : Actor) : Nat :=
  match a with
  | .core g _ => (s.core g).veFree
  | .lbp n => (s.lbp n).veFree
  | _ => 0

def State.setVeFree (s : State) (a : Actor) (t : Nat) : State :=
  match a with
  | .core g _ => s.modCore g fun x => { x with veFree := t }
  | .lbp n => s.setLbp n { s.lbp n with veFree := t }
  | _ => s

/-- Mask m of the unit, as a number of 8,192 bits, or of 128 in an LBP. -/
def State.maskOf (s : State) (a : Actor) (m : Nat) : Nat :=
  match a with
  | .core g _ => sget 0 (s.core g).masks m
  | .lbp n => sget 0 (s.lbp n).masks m
  | _ => 0

def maskBits (a : Actor) : Nat := if isLbp a then 128 else 8192

/-- A chunk of a vector register as a number; vz reads zero. -/
def State.vchunk (s : State) (a : Actor) (v k : Nat) : Nat :=
  match a with
  | .core g _ => if v < 48 then leNat ((s.core g).vrf.read (8192 * v + 1024 * k) 1024) else 0
  | .lbp n => if v < 32 then leNat ((s.lbp n).vrf.read (128 * v) 128) else 0
  | _ => 0

/-! ### Issue conditions -/

/-- The cycles, from issue on, in which an instruction reads chunk k (1,024 bits) of a mask; none for one that
reads no mask. -/
def maskReads (lbp : Bool) (i : Instr) (n nch : Nat) : List (Nat × Nat × Nat) :=
  let all (m : Nat) : List (Nat × Nat × Nat) := (List.range 8).map fun k => (m, k, 0)
  match i, xvOf i with
  | .mand _ o _, _ | .mor _ o _, _ | .mxor _ o _, _ => all o.a.toNat ++ all o.b.toNat
  | .mnot _ o _, _ | .mpop _ o _, _ | .mfirst _ o _, _ => all o.a.toNat
  | .defer _ _ _ x, _ => if x.men then all x.msk.toNat else []
  | .drain _ _ _ _, _ => []
  | _, some x =>
    let used := x.men || (match i with
      | .vsel _ _ _ => true
      | _ => false)
    if used then (List.range 8).filterMap fun k =>
        let j := 1024 * k / max 1 (maskWidth i)
        if j < n then some (x.msk.toNat, k, laneCycle lbp i nch j) else none
    else []
  | _, none => []

/-- The queues that an instruction pops, with the entries each gives in all, and the one that its issue cycle
pops. mq in not-ready mode is left out. -/
def queuePops (s : State) (g : Nat) (i : Instr) (rs : List (Nat × Code × Nat × Nat)) : List (Nat × Nat × Bool) :=
  let pm := match xvOf i with
    | some x => x.pm
    | none => false
  (List.range 9).filterMap fun q =>
    let mine := rs.filter fun r => decide (queueOfCode s g r.2.1 = some q)
    let cyc := (mine.map fun r => r.2.2.2).eraseDups
    if cyc.isEmpty || (q = 8 && pm) then none else some (q, cyc.length, cyc.contains 0)

/-- The queue that an instruction pushes its chunks into, and how many. -/
def queuePushes (lbp : Bool) (i : Instr) (n : Nat) : Option (Nat × Nat) :=
  (fields i).findSome? fun f =>
    if f.cls = .vwq && decide (48 ≤ f.code.toNat) && decide (f.code.toNat < 56) then
      some (f.code.toNat - 48, chunkCount lbp (resultFmt i) n)
    else none

/-- The active lanes of an instruction of n lanes as the mask stands. -/
def activeBits (s : State) (a : Actor) (i : Instr) (n : Nat) : Nat :=
  match xvOf i with
  | some x =>
    if x.men then
      (List.range n).foldl (fun z j => if (s.maskOf a x.msk.toNat).testBit (laneBit (maskWidth i) j) then z + 2 ^ j
        else z) 0
    else 2 ^ n - 1
  | none => 0

/-- Free records of the deferral queue as a DEFER counts them (08: R235). -/
def dqFree (s : State) (g : Nat) : Nat := 4096 - (s.core g).dq.length - (s.core g).dqOnWay

/-- The records of the DEFER i. -/
def deferCount (s : State) (a : Actor) (i : Instr) (n : Nat) : Nat :=
  match i with
  | .defer _ _ _ _ => popBelow (activeBits s a i n) n
  | _ => 0

/-- Tokened code: nothing keeps the instruction from issuing in this cycle (08: R206, R209, R235). -/
def vecReady (s : State) (a : Actor) (i : Instr) (n nch lane : Nat) : Bool :=
  let lbp := isLbp a
  let now := s.now a
  let rs := opReads lbp i n nch lane
  let ps := pendingChunks s a
  let ms := (s.vops a).flatMap maskWrites
  (occupancy i nch = 0 || decide (s.veFree a ≤ now)) &&
  (rs.all fun r => decide (48 ≤ r.2.1.toNat) || chunkReadable ps r.2.1.toNat r.2.2.1 (now + r.2.2.2)) &&
  ((maskReads lbp i n nch).all fun r => ms.all fun w => !(w.1 = r.1 && w.2.1 = r.2.1) || decide (w.2.2 < now + r.2.2)) &&
  ((chunkWrites lbp i n nch lane).all fun w => chunkLandsLast ps w.1 w.2.1 (now + w.2.2)) &&
  ((maskWritesOf i nch now).all fun w => ms.all fun p => !(p.1 = w.1 && p.2.1 = w.2.1) || decide (p.2.2 < w.2.2)) &&
  ((writeRegs i).all fun d => landsLast (s.pendingRegs a) d (now + lastResultAt i nch)) &&
  (match a with
   | .core g _ =>
     ((queuePops s g i rs).all fun q => decide (q.2.1 + popsAhead s g q.1 now ≤ ((s.core g).queue q.1).length)) &&
     (match queuePushes lbp i n with
      | some (q, m) => (queueRoom s g q m) || ((queuePops s g i rs).any fun p => p.1 = q && p.2.2) && queueRoom s g q (m - 1)
      | none => true) &&
     decide (deferCount s a i n ≤ dqFree s g)
   | _ => true)

/-- The lowest DETAIL of R406 that the operands meet in timed code. -/
def vecSched (s : State) (g : Nat) (i : Instr) (n nch lane : Nat) : Option Nat :=
  let now := s.sccOf (s.partOfCore g)
  let rs := opReads false i n nch lane
  if (queuePops s g i rs).any fun q => q.2.2 && decide (((s.core g).queue q.1).length ≤ popsNow s g q.1 now) then some 4
  else if dqFree s g < deferCount s (.core g .c) i n then some 7
  else none

/-! ### Entering the vector engine -/

def isTrans (i : Instr) : Bool := vclass i = some .t

/-- The table version that a transcendental of the actor uses. -/
def ftvOf (s : State) (a : Actor) : Nat :=
  match a with
  | .core g _ => bits (csrNat (s.core g).c csrFtv) 7 0
  | .lbp n => 1 + Config.lbpFtv n % 3
  | _ => 0

/-- The draw stream of an instruction and the blocks of four words that it takes (08: R211, R233, R234). -/
def drawUse (i : Instr) (n : Nat) : Option (Nat × Nat) :=
  match i, xvOf i with
  | .vrand _ _ _, _ => some (0, ceilDiv n 4)
  | .vsamp _ _ _, _ => some (0, 1)
  | _, some x => if x.rm = 4 && !isTrans i then some (1, ceilDiv n 4) else none
  | _, none => none

/-- The counter that an instruction takes from its draw stream, and the state with the counter advanced. -/
def takeDraw (s : State) (a : Actor) (i : Instr) (n : Nat) : Nat × State :=
  match drawUse i n with
  | none => (0, s)
  | some (st, m) =>
    match a with
    | .core g _ =>
      let csr := if st = 0 then csrDraw0 else csrDraw1
      let v := csrNat (s.core g).c csr
      (v, s.modSeqr (.core g .c) fun q => setCsrNat q csr ((v + m) % 2 ^ 64))
    | _ => (s.fresh, { s with fresh := s.fresh + 4 * m })

/-- The instruction enters the vector engine (08: R205, R206). -/
def enterVop (s : State) (a : Actor) (i : Instr) (n nch : Nat) (s1 s2 : DWord) : State :=
  let now := s.now a
  let org := s.origin a i
  let cnt := deferCount s a i n
  let (draw, s) := match a, vclass i with
    | .lbp k, some .tap | .lbp k, some .rmp => ((s.lbp k).fb.toNat, s)
    | _, _ => takeDraw s a i n
  let drop := match a with
    | .core g _ => ((vregsOf i ++ moreRegs i).filter fun r => r.2 && decide (powerOf (s.core g) r.1.toNat = 2)).map
        (·.1.toNat)
    | _ => []
  let s1 := match i with
    | .defer _ _ _ _ => BitVec.ofNat 64 cnt
    | _ => if isTrans i then BitVec.ofNat 64 (ftvOf s a) else s1
  let v : VOp := {
    id := s.effNo, c := now, i := i, org := org, n := n, nch := nch, draw := draw, s1 := s1, s2 := s2
    key := coreKey s (coreOf a), ident := coreIdent s (coreOf a) (((drawUse i n).map (·.1)).getD 0)
    due := now + lastResultAt i nch, drop := drop }
  let s := { s with effNo := s.effNo + 1 }
  let s := s.setVops a (s.vops a ++ [v])
  let s := if occupancy i nch = 0 then s else s.setVeFree a (now + occupancy i nch)
  match a with
  | .core g _ =>
    let s := s.modCore g fun x => { x with dqOnWay := x.dqOnWay + cnt }
    if org.timed then s
    else match queuePushes false i n with
      | some (q, m) => reserveQueue s g q m
      | none => s
  | _ => s

/-- The scalars that an instruction reads at issue: s(a) and s(b) where its entry gives those fields class S. -/
def vecScalar (s : State) (i : Instr) (f : Nat) : DWord :=
  match (fields i).find? fun x => x.no = f && x.cls = .sr with
  | some x => s.rd x.code
  | none => 0

/-- The body of every instruction that works in the vector engine. -/
def vecBody (i : Instr) (s : State) : Body :=
  let a := s.actor
  let lbp := isLbp a
  let n := lanesOf s a i
  let nch := chunksOf lbp i n
  let s1 := vecScalar s i 1
  let s2 := vecScalar s i 2
  let lane := namedLane lbp i s2
  let go (s : State) : Body := .done (enterVop s a i n nch s1 s2) .seq
  match a with
  | .core g _ =>
    let t := s.timedOf a
    if !t && !vecReady s a i n nch lane then .wait s
    else if isTrans i && !(1 ≤ ftvOf s a && ftvOf s a ≤ 3) then .trap .illegalOperand 0x0700 (word0Val i)
    else withPower s g i fun s =>
      match t, vecSched s g i n nch lane with
      | true, some d => .sched d
      | _, _ => go s
  | .lbp _ => if vecReady s a i n nch lane then go s else .wait s
  | _ => .wait s

/-! ### Reading chunks -/

/-- QSTAT of a sequencer after a pop of mq, cq or nq: whether an entry was poisoned, whether the queue was empty; `again`:
its instruction has popped before (03: R76). -/
def qstatNote (s : State) (a : Actor) (again poi nr : Bool) : State :=
  s.modSeqr a fun q =>
    let poi := poi || (again && bits (csrNat q csrQstat) 1 1 = 1)
    setCsrNat q csrQstat (natOfBool poi * 2 + natOfBool nr)

/-- QSTAT after a pop of mq or nq by a vector instruction. -/
def qstatPop (s : State) (g : Nat) (v : VOp) (poi nr : Bool) : State × VOp :=
  (qstatNote s (.core g .c) v.popped poi nr, { v with popped := true })

/-- A chunk read into an operand. -/
def VOp.take (v : VOp) (lbp : Bool) (f k x : Nat) : VOp :=
  { v with snap := sset 0 v.snap f (v.opnd f + x <<< (8 * chunkBytes lbp * k)) }

/-- The entry of one queue popped for the fields that name it. -/
def popQueue (s : State) (g : Nat) (v : VOp) (q : Nat) (fs : List (Nat × Nat)) : State × VOp :=
  let put (v : VOp) (x p : Nat) : VOp := fs.foldl (fun v f =>
    let v := v.take false f.1 f.2 x
    { v with poison := sset 0 v.poison f.1 (sget 0 v.poison f.1 + p * 2 ^ (32 * f.2)) }) v
  let counted := q = 8 || (fs.any fun f => (fields v.i).any fun y => y.no = f.1 && y.code = 58)
  match (s.core g).queue q with
  | e :: rest =>
    let s := s.modCore g fun x => x.setQueue q rest
    let v := put v (leNat (e.data.read 0 1024)) e.poison.toNat
    if counted then qstatPop s g v (decide (e.poison ≠ 0)) false else (s, v)
  | [] => if counted then qstatPop s g v false true else (s, v)

/-- Up to 64 records of the deferral queue popped as a chunk (08: R236). -/
def popRaw (s : State) (g : Nat) (v : VOp) (fs : List (Nat × Nat)) : State × VOp :=
  let recs := (s.core g).dq.take 64
  let x := recs.foldr (fun r z => r.toNat + z * 2 ^ 128) 0
  (s.modCore g fun c => { c with dq := c.dq.drop 64 }, fs.foldl (fun v f => v.take false f.1 f.2 x) v)

/-- The instruction in flight is stopped at chunk k: SCHED 4 of R476. -/
def killVop (v : VOp) (k : Nat) : VOp := { v with dead := some k }

/-- The lanes that an instruction processes in its cycle k, from the first on. -/
def lanesAt (lbp : Bool) (i : Instr) (n nch k : Nat) : List Nat :=
  (List.range n).filter fun j => laneCycle lbp i nch j = k

/-- The active lanes among those processed in cycle k as the mask stands; for VSEL the lanes that take a. -/
def maskAt (s : State) (a : Actor) (v : VOp) (k : Nat) : Nat :=
  match xvOf v.i with
  | none => 0
  | some x =>
    let used := x.men || (match v.i with
      | .vsel _ _ _ => true
      | _ => false)
    let m := s.maskOf a x.msk.toNat
    (lanesAt (isLbp a) v.i v.n v.nch k).foldl (fun z j =>
      if !used || m.testBit (laneBit (maskWidth v.i) j) then z + 2 ^ j else z) 0

/-- What an instruction of class X1 or a DRAIN takes in its issue cycle besides vector operands. -/
def vreadFirst (s : State) (a : Actor) (v : VOp) : State × VOp :=
  let raw (f : Nat) (c : Code) (v : VOp) : VOp := { v with snap := sset 0 v.snap f (s.maskOf a c.toNat) }
  match v.i with
  | .mand _ o _ | .mor _ o _ | .mxor _ o _ => (s, raw 2 o.b (raw 1 o.a v))
  | .mnot _ o _ => (s, raw 1 o.a v)
  | .mpop _ o x | .mfirst _ o x =>
    let m := s.maskOf a o.a.toNat
    let w := fmtBits x.t.toNat / 8
    (s, { v with mask := (List.range v.n).foldl (fun z j => if m.testBit (laneBit w j) then z + 2 ^ j else z) 0 })
  | .drain _ _ _ _ =>
    (match a with
     | .core g _ =>
       let recs := (s.core g).dq.take 2048
       let word (r : Nat) : Nat := recs.foldr (fun x z => x.toNat / 2 ^ (32 * r) % 2 ^ 32 + z * 2 ^ 32) 0
       let v := (List.range 4).foldl (fun v r => { v with snap := sset 0 v.snap r (word r) }) v
       (s.modCore g fun c => { c with dq := c.dq.drop 2048 }, { v with draw := recs.length })
     | _ => (s, v))
  | _ => (s, v)

def isMaskOp (i : Instr) : Bool :=
  match i with
  | .mpop _ _ _ | .mfirst _ _ _ => true
  | _ => false

/-- The rows that a TAP or REMAP of LBP n reads k cycles after its issue; a read outside the input ring stops the LBP
(19: R456). -/
def vreadRows (s : State) (n k : Nat) (v : VOp) : State × VOp :=
  match v.lbpRows s n k with
  | none => (s, v)
  | some (.ok x) => (s, { v with snap := sset 0 v.snap (16 + k) x })
  | some (.error q) => (raise s (.lbp n) .bounds 6 (BitVec.ofNat 64 q) v.org.pc false, killVop v k)

/-- The reads and pops of one instruction in cycle t. Queues are popped in ascending number, so that mq's pop is the last for
QSTAT.NR (03: R76; the model's choice, log entry 89). -/
def vread (s : State) (a : Actor) (v : VOp) (t : Nat) : State × VOp :=
  if v.dead.isSome || t < v.c then (s, v)
  else
    let lbp := isLbp a
    let k := t - v.c
    let now := (opReads lbp v.i v.n v.nch (namedLane lbp v.i v.s2)).filter fun r => decide (r.2.2.2 = k)
    let pm := match xvOf v.i with
      | some x => x.pm
      | none => false
    let v := if k < v.nch && !isMaskOp v.i then { v with mask := v.mask + maskAt s a v k } else v
    let (s, v) := if k = 0 then vreadFirst s a v else (s, v)
    let v := now.foldl (fun v r => if r.2.1.toNat < 48 then v.take lbp r.1 r.2.2.1 (s.vchunk a r.2.1.toNat r.2.2.1) else v) v
    match a with
    | .core g _ =>
      let qs := (List.range 9).filterMap fun q =>
        let fs := (now.filter fun r => decide (queueOfCode s g r.2.1 = some q)).map fun r => (r.1, r.2.2.1)
        if fs.isEmpty then none else some (q, fs)
      if v.org.timed && (qs.any fun q => ((s.core g).queue q.1).isEmpty && !(q.1 = 8 && pm)) then
        let cnt := match v.i with
          | .defer _ _ _ _ => v.s1.toNat
          | _ => 0
        let s := if v.cut.isSome then s else s.modCore g fun x => { x with dqOnWay := x.dqOnWay - cnt }
        (lateTrap s a v.org .sched 4 (v.org.w0.setWidth 64), killVop v k)
      else
        let (s, v) := qs.foldl (fun sv q => popQueue sv.1 g sv.2 q.1 q.2) (s, v)
        let raw := (now.filter fun r => r.2.1 = 57).map fun r => (r.1, r.2.2.1)
        if raw.isEmpty then (s, v) else popRaw s g v raw
    | .lbp n => vreadRows s n k v
    | _ => (s, v)

/-- The reads of this cycle of every vector instruction of a unit, in issue order. -/
def vopsRead (s : State) (a : Actor) : State :=
  let t := s.now a
  (s.vops a).foldl (fun s v =>
    let (s, v) := vread s a v t
    s.setVops a ((s.vops a).map fun w => if w.id = v.id then v else w)) s

/-! ### Results -/

/-- A lane's bits in the register of d: what VINS and VSAMP write. -/
def laneBits (lbp : Bool) (d t j x : Nat) : Eff :=
  let k := chunkOfLane lbp t j
  let off := fmtBits t * j - 8 * chunkBytes lbp * k
  .vrfBits (d * regBytes lbp + k * chunkBytes lbp) (chunkBytes lbp) ((2 ^ fmtBits t - 1) <<< off) (x <<< off)

/-- VEXTR's result: sign-extended for an integer format. -/
def extractValue (t x : Nat) : DWord := if isIntFmt t then BitVec.ofInt 64 (sx x (fmtBits t)) else BitVec.ofNat 64 x

/-- The scalar result of an instruction. -/
def VOp.scalarResult (a : Actor) (v : VOp) : Option (Code × DWord) :=
  let lbp := isLbp a
  match v.i with
  | .vred _ fn o x => some (o.d, v.redResult fn.toNat x.t.toNat x.rm.toNat)
  | .vdot _ o x => some (o.d, v.dotResult x.t.toNat x.rm.toNat)
  | .vextr _ o x => some (o.d, extractValue x.t.toNat (v.lane 1 (namedLane lbp v.i v.s2)))
  | .mpop _ o _ => some (o.d, BitVec.ofNat 64 (popBelow v.mask v.n))
  | .mfirst _ o _ => some (o.d, match v.actives with
    | j :: _ => BitVec.ofNat 64 j
    | [] => BitVec.allOnes 64)
  | _ => none

/-- The mask that MAND, MOR, MXOR or MNOT writes. -/
def VOp.maskResult (a : Actor) (v : VOp) : Option (Nat × Nat) :=
  let all := 2 ^ maskBits a - 1
  match v.i with
  | .mand _ o _ => some (o.d.toNat, v.opnd 1 &&& v.opnd 2)
  | .mor _ o _ => some (o.d.toNat, v.opnd 1 ||| v.opnd 2)
  | .mxor _ o _ => some (o.d.toNat, v.opnd 1 ^^^ v.opnd 2)
  | .mnot _ o _ => some (o.d.toNat, v.opnd 1 ^^^ all)
  | _ => none

/-- The mask bits that VCMP gives for the lanes of its cycle k: those to clear and those to set. -/
def VOp.cmpBits (a : Actor) (v : VOp) (k : Nat) : Option (Nat × Nat × Nat) :=
  match v.i with
  | .vcmp _ cnd o x =>
    let w := maskWidth v.i
    let t := x.t.toNat
    let one (j : Nat) : Nat := (2 ^ w - 1) * 2 ^ (w * j)
    let r := (lanesAt (isLbp a) v.i v.n v.nch k).foldl (fun (p : Nat × Nat) j =>
      if v.active j then
        (p.1 + one j, if vcmpOf cnd.toNat t (v.lane 1 j) (v.lane 2 j) then p.2 + one j else p.2)
      else if x.mz then (p.1 + one j, p.2) else p) (0, 0)
    some (o.d.toNat, r)
  | _ => none

/-- The destination operand code of a lane-wise result, with VQNT's d. -/
def vdest (i : Instr) : Option Code :=
  (fields i).findSome? fun f => if f.no = 0 && (f.cls = .vw || f.cls = .vwq) then some f.code else none

/-- Neither a fault nor a mismatch has stopped the instruction. -/
def VOp.whole (v : VOp) : Bool := v.dead.isNone && v.cut.isNone

/-- No mismatch has stopped it at chunk k of its result or before (18: R433). -/
def VOp.uncut (v : VOp) (k : Nat) : Bool :=
  match v.cut with
  | none => true
  | some x => decide (k < x)

/-- The results of chunks of a lane-wise instruction that are written at the end of cycle t. -/
def VOp.chunkEffs (a : Actor) (v : VOp) (t : Nat) : List Eff :=
  let lbp := isLbp a
  let alive (k : Nat) : Bool := v.uncut k &&
    match v.dead with
    | none => true
    | some x => decide (vclass v.i ≠ some .w) && decide (laneCycle lbp v.i v.nch (min v.n (lastLane lbp (resultFmt v.i) k + 1) - 1) < x)
  match vdest v.i with
  | none => []
  | some d =>
    (List.range (chunkCount lbp (resultFmt v.i) v.n)).flatMap fun k =>
      if v.c + resultChunkAt lbp v.i v.n v.nch k = t && alive k then
        let (cl, st) := v.chunkOut a k
        if d.toNat < 48 then
          (if v.drop.contains d.toNat then [] else
            [.vrfBits (d.toNat * regBytes lbp + k * chunkBytes lbp) (chunkBytes lbp) cl st])
        else if d.toNat < 56 && !v.noPush then
          let p := match v.i with
            | .vqnt _ _ x => v.qntPush x.t.toNat k
            | _ => 0
          [.push (d.toNat - 48) ⟨cells 0 0 (natLe 1024 st), p⟩]
        else []
      else []

/-- The scale slots that a VQNT writes. -/
def VOp.scaleEffs (a : Actor) (v : VOp) (t : Nat) : List Eff :=
  match v.i with
  | .vqnt _ _ x =>
    if v.c + resultAt v.i v.nch (v.nch - 1) = t && v.whole && x.c.toNat < 48 && !v.drop.contains x.c.toNat then
      let m := ceilDiv v.n 32
      let (cl, st) := packLanes 16 ((List.range m).map fun b => (b, v.qntScale x.t.toNat b))
      [.vrfBits (x.c.toNat * regBytes (isLbp a)) (chunkBytes (isLbp a)) cl st]
    else []
  | _ => []

/-- DRAIN's writes at the end of cycle t (08: R236). -/
def VOp.drainEffs (v : VOp) (t : Nat) : List Eff :=
  match v.i with
  | .drain _ fn o x =>
    let all := 2 ^ 8192 - 1
    let masks : List Eff := if t = v.c + 1 && x.men then [.mask x.msk.toNat all (2 ^ (4 * v.draw) - 1)] else []
    let m := t - (v.c + 1)
    let r := m / 8
    let k := m % 8
    masks ++ (if v.c + 1 ≤ t && r ≤ fn.toNat && v.uncut m && !v.drop.contains (o.d.toNat + r) && o.d.toNat < 48 then
      [.vrfBits (8192 * (o.d.toNat + r) + 1024 * k) 1024 (all) ((v.opnd r >>> (8192 * k)) % 2 ^ 8192)] else [])
  | _ => []

/-- What an instruction in flight writes at the end of cycle t. -/
def VOp.effs (a : Actor) (v : VOp) (t : Nat) : List Eff :=
  let lbp := isLbp a
  let atEnd := decide (v.due = t) && v.whole
  let scalar : List Eff := match v.scalarResult a with
    | some (d, x) => if atEnd then [.reg (seqOf a) d x] else []
    | none => []
  let masks : List Eff := match v.maskResult a with
    | some (m, x) => if atEnd then [.mask m (2 ^ maskBits a - 1) x] else []
    | none => []
  let cmps : List Eff := (List.range v.nch).flatMap fun k =>
    if v.c + resultAt v.i v.nch k = t && v.cut.isNone && (match v.dead with
      | none => true
      | some x => decide (k < x)) then
      (match v.cmpBits a k with
       | some (m, cl, st) => [.mask m cl st]
       | none => [])
    else []
  match v.i with
  | .vins _ o x =>
    if atEnd && o.d.toNat < 48 && !v.drop.contains o.d.toNat then
      [laneBits lbp o.d.toNat x.t.toNat (namedLane lbp v.i v.s2) (v.s1.toNat % 2 ^ fmtBits x.t.toNat)] else []
  | .vsamp _ o _ =>
    if atEnd && o.d.toNat < 48 && !v.drop.contains o.d.toNat then
      [laneBits lbp o.d.toNat 0 0 (v.sampResult a)] else []
  | .defer _ fn _ _ => if atEnd then [.dq (v.deferRecs fn.toNat)] else []
  | .rowoutWr _ _ _ =>
    let x := v.s2.toNat % 4096
    if atEnd then [.orb (2 * x) (natLe (2 * min 64 (4096 - x)) (v.opnd 1))] else []
  | .drain _ _ _ _ => v.drainEffs t
  | .vcmp _ _ _ _ => cmps
  | _ => scalar ++ masks ++ v.chunkEffs a t ++ v.scaleEffs a t

/-! ### A diagnostic mismatch (16: R399; 18: R433) -/

/-- The chunk of its result that lane j of an instruction lies in; 0 of one that gives no chunks. -/
def VOp.cutAt (v : VOp) (j : Nat) : Nat :=
  match v.i, vdest v.i with
  | .drain _ _ _ _, _ => chunkOfLane false 2 j
  | _, some _ => if vclass v.i = some .x1d then 0 else chunkOfLane false (resultFmt v.i) j
  | _, none => 0

/-- The cycle in which the result that holds lane j is written. -/
def VOp.strikeAt (v : VOp) (j : Nat) : Nat :=
  match v.i, vdest v.i with
  | .drain _ _ _ _, _ => v.c + 1 + v.cutAt j
  | .vcmp _ _ _ _, _ => v.c + resultAt v.i v.nch (laneCycle false v.i v.nch j)
  | _, some _ => if vclass v.i = some .x1d || vclass v.i = some .r then v.due
    else v.c + resultChunkAt false v.i v.n v.nch (v.cutAt j)
  | _, none => v.due

/-- The result of lane j, or the instruction's scalar result. -/
def VOp.struck (a : Actor) (v : VOp) (j : Nat) : Nat :=
  match v.i, v.scalarResult a with
  | _, some (_, x) => x.toNat
  | .drain _ _ _ _, _ => elem 2 (v.opnd 0) j
  | .vins _ _ x, _ => v.s1.toNat % 2 ^ fmtBits x.t.toNat
  | .vsamp _ _ _, _ => v.sampResult a
  | _, none => ((v.value a j).getD 0) % 2 ^ 64

/-- The lane that an armed DIAGINJ of TGT 3 strikes among the results of cycle t, with its result. -/
def VOp.strike (s : State) (a : Actor) (v : VOp) (t : Nat) : Option (Nat × Nat) :=
  match a with
  | .core g _ =>
    let w := csrNat (s.core g).k csrDiaginj
    let j := bits w 47 32
    let flip := 2 ^ (bits w 55 48)
    if bits w 63 63 = 1 && bits w 7 0 = 3 && diagOn s a && v.whole && v.strikeAt j = t && (j < v.n || v.due = t) then
      some (j, v.struck a j ^^^ flip)
    else none
  | _ => none

/-- The room that a tokened instruction has reserved for the entries that it does not push from cycle t on. -/
def giveBack (s : State) (g : Nat) (v : VOp) (t : Nat) : State :=
  match queuePushes false v.i v.n with
  | some (q, n) =>
    if v.org.timed then s
    else
      let left := ((List.range n).filter fun k => decide (t ≤ v.c + resultChunkAt false v.i v.n v.nch k)).length
      s.modCore (queueHome s g q) fun x => x.release q left
  | none => s

/-- The bits that a VCMP's writes es replace are kept. -/
def VOp.noteMask (v : VOp) (s : State) (a : Actor) (es : List Eff) : VOp :=
  match v.i with
  | .vcmp _ _ _ _ => es.foldl (fun v e => match e with
      | .mask m cl _ => { v with snap := sset 0 v.snap 15 (v.opnd 15 + (s.maskOf a m &&& cl)) }
      | _ => v) v
  | _ => v

/-- A VCMP that a mismatch stops at chunk k leaves the whole mask as it was (18: R433): what its earlier chunks have
written is put back (DEDUCED, log entry 40). -/
def VOp.uncompare (a : Actor) (v : VOp) (k : Nat) : List Eff :=
  ((List.range k).filterMap fun j => v.cmpBits a j).map fun r => .mask r.1 r.2.1 (v.opnd 15 &&& r.2.1)

/-- The results of cycle t of one instruction, after a mismatch that DIAGINJ imitates. -/
def vopResult (s : State) (a : Actor) (v : VOp) (t : Nat) : State × VOp × List Eff :=
  match v.strike s a t with
  | none =>
    let s := match a, v.i with
      | .core g _, .defer _ _ _ _ =>
        if v.due = t && v.whole then s.modCore g fun x => { x with dqOnWay := x.dqOnWay - v.s1.toNat } else s
      | _, _ => s
    let es := v.effs a t
    (s, v.noteMask s a es, es)
  | some (j, val) =>
    let v := { v with cut := some (v.cutAt j) }
    let cnt := match v.i with
      | .defer _ _ _ _ => v.s1.toNat
      | _ => 0
    let s := match a with
      | .core g _ => giveBack (s.modCore g fun x =>
          { x with dqOnWay := x.dqOnWay - cnt }.hwSet csrDiaginj 63 63 0) g v t
      | _ => s
    (lateTrap s a v.org .pipeErr j (BitVec.ofNat 64 val), v, v.uncompare a (laneCycle (isLbp a) v.i v.nch j) ++ v.effs a t)

/-- The instruction has nothing left to do after cycle t. -/
def VOp.over (v : VOp) (t : Nat) : Bool := decide (v.c + lastResultAt v.i v.nch ≤ t)

/-- The results of this cycle of every vector instruction of a unit, as landings; instructions that are over
leave the engine. -/
def vopsLand (s : State) (a : Actor) : State × List Landing :=
  let t := s.now a
  let (s, ls) := (s.vops a).foldl (fun (p : State × List Landing) v =>
    let (s, v, es) := vopResult p.1 a v t
    (s.setVops a ((s.vops a).map fun w => if w.id = v.id then v else w),
      p.2 ++ es.map fun e => ⟨t, v.id, v.org, e, []⟩)) (s, [])
  (s.setVops a ((s.vops a).filter fun v => !v.over t), ls)

end Sys2Proof.Machine
end

