-- ==== Sys2Proof/Machine/MStep.lean ====
section
/-! DEFINITION. The commands of the matrix engine from issue to completion (09: R238 to R262; 16: R398, R399;
17: R476; 18: R436 to R438): their entry into a stream, when one starts, what it reads and writes cycle by
cycle, how it completes and how its completion word reaches cq (10: R294, R295). -/

namespace Sys2Proof.Machine

/-! ### Fields of a command -/

def xmOf (i : Instr) : Option XM :=
  match i with
  | .mmul _ _ x | .mmuls _ _ x | .msacc _ _ x | .macc _ _ x | .mzero _ _ x | .mrd _ _ x | .mwbl _ _ x
  | .mwbd _ _ x | .mscl _ _ x | .mchk _ _ x | .mfen _ _ x | .push _ _ x => some x
  | _ => none

def strOf (i : Instr) : Nat := ((xmOf i).map fun x => x.str.toNat).getD 0
def accOf (i : Instr) : Nat := ((xmOf i).map fun x => x.acc.toNat).getD 0

/-- The array that a command uses: 0 X, 1 Y (09: R261). -/
def arrOf (i : Instr) : Option Nat :=
  match i with
  | .mmul _ _ x | .mmuls _ _ x | .msacc _ _ x | .macc _ _ x | .mzero _ _ x | .mchk _ _ x =>
    some (natOfBool x.arr)
  | _ => none

/-- The major opcode less 0x50: CODE of the completion word (10: R294). -/
def meCode (i : Instr) : Nat :=
  match i with
  | .mmul _ _ _ => 0 | .mmuls _ _ _ => 1 | .msacc _ _ _ => 2 | .macc _ _ _ => 3 | .mzero _ _ _ => 4
  | .mrd _ _ _ => 5 | .mwbl _ _ _ => 6 | .mwbd _ _ _ => 7 | .mscl _ _ _ => 8 | .mchk _ _ _ => 9
  | _ => 11

def isMul (i : Instr) : Bool := (mmulA i).isSome

/-- A page's mode (09: R257). -/
def pageMode (x : Core) (off : Nat) : Nat := sget 0 x.wbMode (off / 4096)

/-! ### Issue -/

/-- The commands of stream str that have been issued and have not started. -/
def meQueued (x : Core) (str : Nat) : Nat := ((sget [] x.mcmds str).filter fun m => m.s.isNone && m.doneAt.isNone).length

/-- The activation numbers of C's active loop levels (07: R189). -/
def activeLevels (q : Seqr) : List Nat :=
  (List.range 6).filterMap fun l =>
    let x := sget {} q.loops l
    if x.act then some x.ord else none

/-- The ordinal of the next command of an engine's stream in the iteration, and the core that has counted it;
engine 0 CE, 1 ME. -/
def nextOrdinal (x : Core) (eng str : Nat) : Nat × Core :=
  let k := 4 * eng + str
  let n := sget 0 x.iterCmds k
  (n, { x with iterCmds := sset 0 x.iterCmds k (n + 1) })

/-- The command enters its stream's queue (09: R241; 06: R161). -/
def enterMe (s : State) (g : Nat) (i : Instr) (s1 s2 : DWord) : State :=
  let now := s.sccOf (s.partOfCore g)
  let org := s.origin s.actor i
  let n := match i with
    | .mrd _ _ x => if x.rm = 4 then 128 * mrdRows x.ta.toNat else 0
    | _ => 0
  let draw := csrNat (s.core g).c csrDraw1
  let s := if n = 0 then s
    else s.modSeqr (.core g .c) fun q => setCsrNat q csrDraw1 ((draw + n / 4) % 2 ^ 64)
  let x := s.core g
  let (ord, x) := nextOrdinal x 1 (strOf i)
  let std := ((xmOf i).map fun y => y.std.toNat).getD 0
  let m : MCmd := {
    id := s.effNo, i := i, org := org, c := now, stamp := if std = 0 then none else some (now + std),
    s1 := s1, s2 := s2, draw := draw, key := coreKey s g, ident := coreIdent s g 1
    gated := match mmulA i, i with
      | some (c, _), _ => decide (c.toNat < 48) && decide (powerOf (s.core g) c.toNat = 2)
      | none, .mrd _ o _ => decide (o.d.toNat < 48) && decide (powerOf (s.core g) o.d.toNat = 2)
      | none, _ => false
    iter := x.iter, seq := ord % 256, levs := activeLevels x.c }
  let l := sget [] x.mcmds (strOf i)
  { s.setCore g { x with mcmds := insert x.mcmds (strOf i) (l ++ [m]) } with effNo := s.effNo + 1 }

/-- Checks 12 and 14 of an ME command (18: R436). -/
def meCheck (s : State) (g : Nat) (i : Instr) (s1 s2 : DWord) : Option Body :=
  let a := s1.toNat
  let b := s2.toNat
  let when (bad : Bool) (f : Nat) : Option Body := if bad then some (trapVal i f) else none
  match i with
  | .mmul _ _ _ | .mmuls _ _ _ =>
    when (b % 64 ≠ 0 || 524288 ≤ b || 524288 < b + rawBytes i (pageMode (s.core g) b)) 2
  | .msacc _ _ _ => if 32640 < a then some (trapVal i 1) else when (32640 < b) 2
  | .mrd _ _ x => when (128 < a + mrdRows x.ta.toNat) 1
  | .mwbl _ _ _ => if b % 64 ≠ 0 || 520192 < b then some (trapVal i 2) else sourceCheck a 4096
  | .mwbd _ _ _ => if 127 < a then some (trapVal i 1) else when (2 < b) 2
  | .mscl _ _ x => if b % 32 ≠ 0 || 32256 < b then some (trapVal i 2) else sourceCheck a (if x.ta = 0 then 1024 else 512)
  | .mchk _ _ _ => when (infCode 0 ≤ a % 2 ^ 32) 1
  | _ => none
where
  /-- Check 12, with the field concerned. -/
  trapVal (i : Instr) (f : Nat) : Body := .trap .illegalOperand (0x0600 + f) (word0Val i)
  /-- The range of a source: alignment, bounds, one region (09: R256; 17: R417). -/
  sourceCheck (a n : Nat) : Option Body :=
    let bad (d x : Nat) : Option Body := some (.trap .bounds d (BitVec.ofNat 64 x))
    if a % 64 ≠ 0 then bad 2 a
    else match badByte s g a n with
      | some x => bad 1 x
      | none => if regionOf a = regionOf (a + n - 1) then none else bad 3 a

/-- The A operand of a product is a register that no write is still to reach when the command reads it, were it to start in the
cycle after this one (02: R37; 09: R242, R244). -/
def operandReady (s : State) (i : Instr) : Bool :=
  match mmulA i with
  | some (c, ta) => (List.range (aChunks ta)).all fun k =>
      chunkReadable (pendingChunks s s.actor) c.toNat k (s.now s.actor + 1 + k)
  | none => true

/-- The body of every ME command that enters a queue. -/
def meBody (i : Instr) (s : State) : Body :=
  match s.actor with
  | .core g _ =>
    let t := s.timedOf s.actor
    let s1 := vecScalar s i 1
    let s2 := vecScalar s i 2
    let full := decide (8 ≤ meQueued (s.core g) (strOf i))
    if !t && (full || !operandReady s i) then .wait s
    else match meCheck s g i s1 s2 with
      | some b => b
      | none => withPower s g i fun s => if t && full then .sched 6 else .done (enterMe s g i s1 s2) .seq
  | _ => .wait s

/-! ### Starting (09: R242; 18: R436) -/

/-- The first command of a stream that has not started. -/
def meHead (x : Core) (str : Nat) : Option MCmd := (sget [] x.mcmds str).find? fun m => m.s.isNone && m.doneAt.isNone

/-- The source latency of MWBL and MSCL (09: R244). -/
def meLat (g a : Nat) : Nat :=
  match regionOf a with
  | .spad _ => 2
  | _ => if dieOfAddr a = dieOf g then 6 else 30

def allMe (x : Core) : List MCmd := x.mcmds.flatMap fun e => e.2

/-- The cycles in which a started MWBL or MSCL writes, from the first on (09: R244). -/
def MCmd.portFrom (m : MCmd) (g : Nat) : Option (Nat × Nat) :=
  match m.i, m.s with
  | .mwbl _ _ _, some s0 => some (s0 + m.slip + meLat g m.s1.toNat + 1, 4)
  | .mscl _ _ _, some s0 => some (s0 + m.slip + meLat g m.s1.toNat + 1, 1)
  | _, _ => none

/-- The command writes through its port in cycle t. -/
def MCmd.portNow (m : MCmd) (g t : Nat) : Bool :=
  match m.portFrom g with
  | some (a, n) => decide (a ≤ t) && decide (t < a + n)
  | none => false

def isMwbl (i : Instr) : Bool :=
  match i with
  | .mwbl _ _ _ => true
  | _ => false

/-- The length of what stamped copies of timed code write in cycle t to a place of that kind. -/
def ceScheduled (x : Core) (kind : GKind) (t : Nat) : Nat :=
  (allCe x).foldl (fun n c =>
    if c.stamp.isSome && c.org.timed && !c.remote then
      match c.writeNow t with
      | some v => if (c.group v).kind = kind then n + (c.group v).len else n
      | none => n
    else n) 0

/-- The 32-byte writes of the weight-buffer port of core g that are scheduled in cycle t, of ME commands those that `who`
names (11: R306). -/
def wbScheduled (s : State) (g t : Nat) (who : MCmd → Bool := fun _ => true) : Nat :=
  let x := s.core g
  let me := ((allMe x).filter fun m => isMwbl m.i && who m && m.portNow g t).length
  let drd := s.dcs.foldl (fun n d => if s.partOf (.dcs d.1) = s.partOfCore g then
    n + (d.2.lands.filter fun l => l.wb = some g && l.due = t).length else n) 0
  32 * me + drd + ceScheduled x .wb t / 32

/-- The scale-memory port of core g is taken in cycle t, of ME commands by those that `who` names. -/
def smScheduled (s : State) (g t : Nat) (who : MCmd → Bool := fun _ => true) : Bool :=
  let x := s.core g
  ((allMe x).any fun m => !isMwbl m.i && who m && m.portNow g t) || decide (0 < ceScheduled x .slots t)

/-- The port that MWBL or MSCL m writes through has nothing else in cycle t, of ME commands none that `who` names. -/
def portOpen (s : State) (g : Nat) (m : MCmd) (t : Nat) (who : MCmd → Bool) : Bool :=
  if isMwbl m.i then wbScheduled s g t who = 0 else !smScheduled s g t who

/-- The port cycles that an MWBL or MSCL would take from cycle t on are free. -/
def portsFree (s : State) (g : Nat) (m : MCmd) (t : Nat) : Bool :=
  match ({ m with s := some t } : MCmd).portFrom g with
  | some (a, n) => (List.range n).all fun j => portOpen s g m (a + j) fun e => e.id ≠ m.id
  | none => true

/-- The resources that a command occupies are free when it starts in cycle t (09: R238, R242). -/
def meFree (s : State) (g : Nat) (m : MCmd) (t : Nat) : Bool :=
  let x := s.core g
  let arr := (arrOf m.i).getD 0
  match m.i with
  | .mmul _ _ _ | .mmuls _ _ _ => decide (sget 0 x.mulFree arr ≤ t)
  | .msacc _ _ _ | .macc _ _ _ | .mzero _ _ _ => decide (sget 0 x.accFree arr ≤ t)
  | .mrd _ _ _ => decide (x.rdFree ≤ t)
  | .mwbl _ _ _ | .mscl _ _ _ => portsFree s g m t
  | _ => true

/-- The stages that a command occupies are taken; a port is taken in the cycles of its commands' writes. -/
def meTake (x : Core) (m : MCmd) (t : Nat) : Core :=
  let arr := (arrOf m.i).getD 0
  match m.i with
  | .mmul _ _ _ | .mmuls _ _ _ => { x with mulFree := sset 0 x.mulFree arr (t + multiplyTime m.i) }
  | .msacc _ _ _ | .macc _ _ _ | .mzero _ _ _ => { x with accFree := sset 0 x.accFree arr (t + 8) }
  | .mrd _ _ y => { x with rdFree := t + (if bitsOf y.ta.toNat = 6 then 6 else 8) }
  | _ => x

/-- The chunks of an MRD. -/
def mrdChunks (t : Nat) : Nat := if bitsOf t = 6 then 6 else 8

/-- The queue operand of a tokened command holds what it pops, and mq has room for what it pushes. -/
def meQueuesReady (s : State) (g : Nat) (m : MCmd) : Bool :=
  match m.i with
  | .mrd _ o x => o.d ≠ 56 || queueRoom s g 8 (mrdChunks x.ta.toNat)
  | _ =>
    match mmulA m.i with
    | some (c, ta) =>
      (match queueOfCode s g c with
       | some q => m.reused || decide (aChunks ta + popsNow s g q (s.sccOf (s.partOfCore g)) ≤ ((s.core g).queue q).length)
       | none => true)
    | none => true

/-- The fields that a reissue shares with the command that failed (16: R399). -/
def sameFields (i j : Instr) : Bool :=
  match i, j with
  | .mmul _ o x, .mmul _ p y | .mmuls _ o x, .mmuls _ p y =>
    decide (o.a = p.a ∧ o.b = p.b ∧ x.arr = y.arr ∧ x.acc = y.acc ∧ x.ta = y.ta ∧ x.tb = y.tb)
  | _, _ => false

/-- The oldest failed command that a command of stream str reissues. -/
def reissueOf (x : Core) (m : MCmd) : Option Replay :=
  x.replay.find? fun r => r.failed && decide (r.str = strOf m.i) && sameFields r.i m.i

/-- C's accesses through the engine wait for its earlier fences, as its own do (04: R115). -/
def engineFenced (s : State) (g : Nat) (m : MCmd) : Bool :=
  (match m.i with
   | .mwbl _ _ _ | .mscl _ _ _ => true
   | _ => false) && (s.core g).c.fences.any fun f => decide (f.id < m.id)

/-- The next command of stream str of core g starts in this cycle. -/
def meMayStart (s : State) (g str : Nat) : Bool :=
  let x := s.core g
  let now := s.sccOf (s.partOfCore g)
  if s.held (s.partOfCore g) then false else match meHead x str with
  | none => false
  | some m =>
    let timed := m.org.timed
    let first := m.stamp.getD (m.c + 1)
    if timed then decide (first ≤ now)
    else if engineFenced s g m then false
    else
      let earlier := (sget [] x.mcmds str).all fun e => decide (m.id ≤ e.id) || (match e.doneAt with
        | some d => decide (d < now)
        | none => false)
      let fenced := (allMe x).any fun e => (match e.i with
        | .mfen _ _ _ => true
        | _ => false) && decide (e.id < m.id) && (match e.doneAt with
        | some d => decide (now ≤ d)
        | none => true)
      let again := match reissueOf x m with
        | some r => !r.again
        | none => false
      decide (first ≤ now) && earlier && !fenced && meFree s g m now && (again || meQueuesReady s g m)

def setMCmd (x : Core) (m : MCmd) : Core :=
  { x with mcmds := insert x.mcmds (strOf m.i) ((sget [] x.mcmds (strOf m.i)).map fun e => if e.id = m.id then m else e) }

/-- The last two commands of the stream to start are kept (16: R399). -/
def keepTwo (l : List Replay) (str : Nat) : List Replay :=
  let mine := (l.filter fun r => r.str = str).map (·.id)
  let last := mine.drop (mine.length - 2)
  (l.map fun r => if r.str = str then { r with kept := r.kept && last.contains r.id } else r).filter
    fun r => r.kept || r.failed

/-- The partial of an array is marked failed, or its mark is cleared. -/
def markPartial (x : Core) (arr : Nat) (bad : Bool) : Core := { x with partBad := sset false x.partBad arr bad }

/-- A MMUL or MMULS starts: the reissue that it may be, the faults of its B operand, the replay buffer. The mode that its
page has in this cycle governs every chunk of the operand, an MWBD of another stream that lands between two of them or not
(the model's choice, log entry 107). -/
def startMul (x : Core) (m : MCmd) (t : Nat) : Core × MCmd :=
  let arr := (arrOf m.i).getD 0
  let re := reissueOf x m
  let x := match re with
    | some r =>
      let l := x.replay.map fun e => if e.id = r.id then { e with failed := false } else e
      { x with replay := l.filter fun e => e.kept || e.failed }
    | none => x
  let queued := match mmulA m.i with
    | some (c, _) => decide (48 ≤ c.toNat) && decide (c.toNat < 63)
    | none => false
  let lost := match re with
    | some r => !r.kept && !r.again && queued
    | none => false
  if lost then
    ({ x with replay := keepTwo (x.replay ++ [⟨m.id, strOf m.i, m.i, true, false, 0, 0, false⟩]) (strOf m.i) },
      { m with atStart := 4, status := 4, doneAt := some t })
  else
    let b := m.s2.toNat
    let mode := pageMode x b
    let raw := rawBytes m.i mode
    let bad := match m.i with
      | .mmuls _ _ _ => decide (mode ≠ 0)
      | .mmul _ _ y =>
        (mode = 1 && (decide (bitsOf y.tb.toNat ≠ 8) || decide (b % 4096 < 64) || decide (4096 < b % 4096 + raw)))
          || decide (524288 < b + raw)
      | _ => false
    let m := match re with
      | some r => if r.kept && !r.again then { m with reused := true, abuf := r.abuf, apoi := r.apoi } else m
      | none => m
    let m := { m with mode := mode }
    let keep : Replay := ⟨m.id, strOf m.i, m.i, true, false, m.abuf, m.apoi, false⟩
    let x := { x with replay := keepTwo (x.replay ++ [keep]) (strOf m.i) }
    if bad then (markPartial x arr true, { m with atStart := 8, status := 8, doneAt := some t })
    else (x, { m with doneAt := some (t + multiplyTime m.i + 3) })

/-- A fault record of an ME command with a status other than DONE and CANCELLED (16: R392, R398), in the cycle of
detection; `addr` is the device address of a source. -/
def meRecord (s : State) (g : Nat) (m : MCmd) (status detail : Nat) (addr : Nat := 0) : State :=
  let det := match status with
    | 2 | 3 | 4 => 2
    | 9 => 3
    | _ => 15
  record s {
    det := det, sev := 1, part := s.partOfCore g, ukind := 0, unit := g, code := status, detail := detail, addr := addr
    tid := s.tidOf g, iter := m.iter, pc := m.org.pc }

/-- The command of stream str starts in this cycle. -/
def meStart (s : State) (g str : Nat) : State :=
  let x := s.core g
  let t := s.sccOf (s.partOfCore g)
  match meHead x str with
  | none => s
  | some m =>
    let m := { m with s := some t }
    let x := meTake x m t
    let arr := (arrOf m.i).getD 0
    let L := meLat g m.s1.toNat
    let (x, m) := match m.i with
      | .mmul _ _ _ | .mmuls _ _ _ => startMul x m t
      | .msacc _ _ _ | .macc _ _ _ =>
        (x, { m with doneAt := some (t + 9), status := if sget false x.partBad arr then 3 else 0 })
      | .mzero _ _ _ => (x, { m with doneAt := some (t + 9) })
      | .mrd _ _ y => (x, { m with doneAt := some (t + 3 + mrdChunks y.ta.toNat) })
      | .mwbl _ _ _ => (x, { m with doneAt := some (t + L + 4) })
      | .mscl _ _ _ => (x, { m with doneAt := some (t + L + 1) })
      | .mfen _ _ _ => (x, m)
      | _ => (x, { m with doneAt := some t })
    let s := s.setCore g (setMCmd x m)
    let s := if m.status = 0 then s else meRecord s g m m.status 0
    match m.i with
    | .mrd _ o y => if o.d = 56 && !m.org.timed then reserveQueue s g 8 (mrdChunks y.ta.toNat) else s
    | _ => s

/-! ### Reading -/

/-- A word that the command has read was uncorrectable: the record is written once (18: R438). -/
def meEcc (s : State) (g : Nat) (m : MCmd) (bad : Bool) (detail : Nat) (addr : Nat := 0) : State × MCmd :=
  if bad && !m.ecc then (meRecord s g m 9 detail addr, { m with ecc := true }) else (s, m)

/-- Accumulator elements lo to hi − 1 hold an uncorrectable one. -/
def badElems (x : Core) (lo hi : Nat) : Bool := (below (above x.accEcc lo) hi).any fun e => e.2

/-- Raw chunk k of B placed in the operand, expanded through the page's table in mode LUT4. R244 gives cycles to the raw
chunks alone; the table is read with each of them, in cycle s + k (the model's choice, log entry 87). -/
def readB (x : Core) (m : MCmd) (k : Nat) : MCmd :=
  let b := m.s2.toNat
  let raw := rawBytes m.i m.mode
  let n := min 1024 (raw - 1024 * k)
  let bs := x.wb.read (b + 1024 * k) n
  if m.mode = 1 then
    let tab := leNat (x.wb.read (b / 4096 * 4096) 16)
    let e (v : Nat) : Nat := (tab >>> (8 * v)) % 256
    let y := bs.foldr (fun c z => e (c.toNat % 16) + 256 * e (c.toNat / 16) + z * 65536) 0
    { m with bbuf := m.bbuf + y <<< (16 * 1024 * k) }
  else { m with bbuf := m.bbuf + (leNat bs) <<< (8 * 1024 * k) }

/-- A granule that a B operand reads is uncorrectable. -/
def badGranule (s : State) (g off n : Nat) : Bool :=
  s.wEcc ≠ [] && (List.range (n / 64 + 2)).any fun i =>
    let k := off / 64 + i
    decide (64 * k < off + n) && sget false s.wEcc (8192 * g + k)

/-- The chunks that a MMUL or MMULS reads in cycle s + k. A missing entry of timed code ends it: SCHED 4, and
CANCELLED (17: R476). -/
def mulRead (s : State) (g : Nat) (m : MCmd) (k : Nat) : State × MCmd :=
  let b := m.s2.toNat
  let raw := rawBytes m.i m.mode
  let (s, m) := if m.atStart = 0 && 1024 * k < raw then
      meEcc s g (readB (s.core g) m k) (badGranule s g (b + 1024 * k) (min 1024 (raw - 1024 * k))
        || (m.mode = 1 && badGranule s g (b / 4096 * 4096) 16)) 0
    else (s, m)
  match mmulA m.i with
  | none => (s, m)
  | some (c, ta) =>
    if m.reused || m.atStart = 4 || aChunks ta ≤ k then (s, m)
    else
      let put (m : MCmd) (v p : Nat) : MCmd :=
        { m with abuf := m.abuf + v <<< (8192 * k), apoi := m.apoi + p * 2 ^ (32 * k) }
      let (s, m) :=
        match queueOfCode s g c with
        | none => meEcc s g (put m (if m.gated then 0 else s.vchunk (.core g .c) c.toNat k) 0)
            (decide (c.toNat < 48) && sget false (s.core g).vrfEcc (8 * c.toNat + k)) 0
        | some q =>
          match (s.core g).queue q with
          | e :: rest =>
            let m := put m (leNat (e.data.read 0 1024)) e.poison.toNat
            let s := s.modCore g fun x => x.setQueue q rest
            (if c = 58 then s.modSeqr (.core g .c) fun y => setCsrNat y csrQstat (2 * natOfBool (m.apoi ≠ 0)) else s, m)
          | [] =>
            if m.org.timed then
              (lateTrap s (.core g .c) m.org .sched 4 (m.org.w0.setWidth 64),
                if m.atStart = 0 then { m with atStart := 1, status := 1, doneAt := some (s.sccOf (s.partOfCore g)) }
                else { m with reused := true, status := if m.pushed then m.status else 1 })
            else (s, m)
      let s := s.modCore g fun x => { x with replay := x.replay.map fun r =>
        if r.id = m.id then { r with abuf := m.abuf, apoi := m.apoi } else r }
      (s, m)

/-- Rows 16 i to 16 i + 15 of the array's partial as an accumulate command reads them. -/
def readPartial (x : Core) (m : MCmd) (i : Nat) : MCmd :=
  let arr := (arrOf m.i).getD 0
  (List.range 2048).foldl (fun m e =>
    let k := 2048 * i + e
    { m with
      rows := sset 0 m.rows k (sget 0 x.part (16384 * arr + k))
      rpoi := sset false m.rpoi k (sget false x.partP (16384 * arr + k)) }) m

/-- The 128 scale slots from slot b on, as one number. -/
def readSlots (x : Core) (b : Nat) : Nat := leNat (x.sm.read (2 * b) 256)

/-- A slot that is treated as poison: uncorrectable (18: R438). -/
def poisonSlots (x : Core) (b v : Nat) : Nat :=
  if x.smEcc = [] then v
  else (List.range 128).foldl (fun v j =>
    if sget false x.smEcc (b + j) then setBits v (16 * j + 15) (16 * j) poisonScale else v) v

/-- The chunk of its source that a started MWBL or MSCL reads in cycle t: its address and length (09: R244). -/
def MCmd.sourceNow (m : MCmd) (g t : Nat) : Option (Nat × Nat) :=
  match m.s with
  | none => none
  | some s0 =>
    let first := s0 + m.slip + meLat g m.s1.toNat
    match m.i with
    | .mwbl _ _ _ => if first ≤ t && t < first + 4 then some (m.s1.toNat + 1024 * (t - first), 1024) else none
    | .mscl _ _ y => if t = first then some (m.s1.toNat, if y.ta = 0 then 1024 else 512) else none
    | _ => none

/-- The n bytes at address a of its source have been read. -/
def takeSource (s : State) (g : Nat) (m : MCmd) (a n : Nat) (bs : Bytes) : State × MCmd :=
  let s := noteCorrected s g m.org [(a, n)]
  let (s, m) := meEcc s g m (eccBad s a n) (eccDetail s a n) ((eccAt s a n).getD 0)
  (s, { m with abuf := m.abuf + leNat bs <<< (8 * (a - m.s1.toNat)) })

/-- The reads of this cycle of core g's stamped MWBLs and MSCLs. One that would cross a withdrawn SL-C brings nothing: the
command goes no further (19: R459). -/
def meFetch (s : State) (g : Nat) : State :=
  let t := s.sccOf (s.partOfCore g)
  (allMe (s.core g)).foldl (fun s m =>
    match if m.stamp.isSome then m.sourceNow g t else none with
    | some (a, n) =>
      if s.gone 2 && decide (dieOfAddr a ≠ dieOf g) then
        s.modCore g fun x => setMCmd x { m with slip := m.slip + 1, doneAt := m.doneAt.map (· + 1) }
      else
        let (s, m) := takeSource s g m a n (s.readView (dieOf g) a n)
        s.modCore g fun x => setMCmd x m
    | none => s) s

/-- An unstamped MWBL or MSCL goes on by one cycle, or waits: for its source's banks, or for its port (04: R106). -/
def meUntimed (s : State) (g : Nat) (m : MCmd) : State × MCmd :=
  let waits : State × MCmd := (s, { m with slip := m.slip + 1, stall := true, doneAt := m.doneAt.map (· + 1) })
  if m.stall then waits
  else match s.ereqs.find? fun e => e.id = m.id with
    | none => (s, m)
    | some e =>
      if !e.parts.isEmpty then waits
      else
        let s := { s with ereqs := s.ereqs.filter fun x => x.id ≠ m.id }
        match e.rd with
        | (a, _, n) :: _ => takeSource s g m a n (e.got.read 0 n)
        | [] => (s, m)

/-- What one started command reads in this cycle. -/
def meRead (s : State) (g : Nat) (m : MCmd) : State × MCmd :=
  let x := s.core g
  let t := s.sccOf (s.partOfCore g)
  match m.s with
  | none => (s, m)
  | some s0 =>
    let k := t - s0
    let bank := 16384 * accOf m.i
    let (s, m) := match m.i with
      | .msacc _ _ _ | .macc _ _ _ | .mzero _ _ _ =>
        meEcc s g m (decide (2 ≤ k) && decide (k < 10) && m.status = 0 && badElems x (bank + 2048 * (k - 2)) (bank + 2048 * (k - 1))) 0
      | _ => (s, m)
    match m.i with
    | .mmul _ _ _ | .mmuls _ _ _ => if m.status = 1 then (s, m) else mulRead s g m k
    | .msacc _ _ _ =>
      if 8 ≤ k then (s, m)
      else
        let a := m.s1.toNat
        let b := m.s2.toNat
        let (s, m) := if k = 0 then
            meEcc s g { m with abuf := poisonSlots x a (readSlots x a), bbuf := poisonSlots x b (readSlots x b) }
              ((List.range 128).any fun j => sget false x.smEcc (a + j) || sget false x.smEcc (b + j)) 0
          else (s, m)
        (s, readPartial x m k)
    | .macc _ _ _ => if 8 ≤ k then (s, m) else (s, readPartial x m k)
    | .mrd _ o y =>
      if k ≠ 0 then (s, m)
      else
        let ta := y.ta.toNat
        let u (e : Nat) : Nat := if y.rm = 4 then drawOf (.core g .c) m.key m.ident m.draw e else 0
        let lost := x.accEcc.foldl (fun p e => if e.2 then sset false p e.1 true else p) x.accP
        let (out, poi) := readout ta y.rm.toNat m.s1.toNat y.acc.toNat x.acc lost u
        let (s, m) := meEcc s g m (badElems x (bank + 128 * m.s1.toNat) (bank + 128 * (m.s1.toNat + mrdRows ta))) 0
        let s := (List.range (mrdChunks ta)).foldl (fun s j =>
          let bs := natLe 1024 ((out >>> (8192 * j)) % 2 ^ 8192)
          let e : Eff := if o.d = 56 then .push 8 ⟨cells 0 0 bs, BitVec.ofNat 32 (poi / 2 ^ (32 * j))⟩
            else .mrd (8192 * o.d.toNat + 1024 * j) bs
          if m.gated then s else addLanding s (.core g .c) ⟨t + 4 + j, m.id, m.org, e, []⟩) s
        (s, m)
    | .mwbl _ _ _ | .mscl _ _ _ => if m.stamp.isSome then (s, m) else meUntimed s g m
    | _ => (s, m)

/-! ### Writing -/

/-- The outcome of a product at its latch: the values, the first failing column and row, and whether it is
checked at all (16: R399). -/
structure Latch where
  vals : List (Nat × W32)
  poi : List (Nat × Bool)
  sat : Bool
  col : Nat
  row : Nat
  injected : Bool
  deriving DecidableEq, Repr

/-- The latch of a MMUL or MMULS, with what an armed DIAGINJ flips in it before the check. -/
def latchOf (s : State) (g : Nat) (m : MCmd) : Latch :=
  let x := s.core g
  match xmOf m.i with
  | none => ⟨[], [], false, 0xFF, 0xFF, false⟩
  | some y =>
    let ta := y.ta.toNat
    let tb := y.tb.toNat
    let rows := aLines ta m.abuf m.apoi
    let cols := bLines m.i tb m.bbuf
    let d := 2 ^ (scaleOf ta + scaleOf tb)
    let p := productOf rows cols d
    let arr := natOfBool y.arr
    let inj := csrNat x.k csrDiaginj
    let hit := bits inj 63 63 = 1 && bits inj 7 0 = 1 + arr && diagOn s (.core g .k) && bits inj 47 32 < 16384
    let ix := bits inj 47 32
    let vals := if hit then sset 0 p.vals ix (sget 0 p.vals ix ^^^ (1#32 <<< (bits inj 55 48))) else p.vals
    let (c, r) := checksum (sget 0x37800000 x.chktol arr).toNat rows cols d p vals
    ⟨vals, p.poi, p.sat, c, r, hit⟩

/-- The latch's status and COUNT: 0 when it passed. -/
def Latch.failed (l : Latch) : Bool := decide (l.col ≠ 0xFF) || decide (l.row ≠ 0xFF)

/-- The partial of an array replaced by a latch. -/
def writePartial (x : Core) (arr : Nat) (l : Latch) : Core :=
  let lo := 16384 * arr
  let put {β : Type} (m : SMap β) (v : List (Nat × β)) : SMap β :=
    below m lo ++ v.map (fun e => (lo + e.1, e.2)) ++ above m (lo + 16384)
  { x with part := put x.part l.vals, partP := put x.partP l.poi }

/-- What an accumulate command makes of element k of its bank: the value and whether it saturated; none where it becomes
poison. -/
def accElem (x : Core) (m : MCmd) (k : Nat) : Option (Nat × Bool) :=
  let scaled := match m.i with
    | .msacc _ _ _ => true
    | _ => false
  let cr := elem 11 m.abuf (k / 128) % 512
  let cc := elem 11 m.bbuf (k % 128) % 512
  if sget false m.rpoi k || (scaled && (cr = poisonScale || cc = poisonScale)) then none
  else some (accumulate (sget 0 x.acc (16384 * accOf m.i + k)).toNat (sget 0 m.rows k).toNat (if scaled then some cr else none)
    (if scaled then some cc else none))

/-- An accumulator element becomes +0 and poison: it was uncorrectable (18: R438). -/
def loseElem (x : Core) (ix : Nat) : Core :=
  { x with acc := sset 0 x.acc ix 0, accP := sset false x.accP ix true, accEcc := sset false x.accEcc ix false }

/-- Group i of sixteen rows of an accumulate command. -/
def writeRows (x : Core) (m : MCmd) (i : Nat) : Core :=
  let bank := accOf m.i
  (List.range 2048).foldl (fun x e =>
    let k := 2048 * i + e
    let ix := 16384 * bank + k
    if sget false x.accEcc ix then loseElem x ix
    else match accElem x m k with
      | none => { x with accP := sset false x.accP ix true }
      | some (v, st) => { x with
        acc := sset 0 x.acc ix (BitVec.ofNat 32 v)
        sat := if st then sset false x.sat bank true else x.sat }) x

/-- MZERO's group i. -/
def zeroRows (x : Core) (m : MCmd) (i : Nat) : Core :=
  let lo := 16384 * accOf m.i + 2048 * i
  let lost := ((below (above x.accEcc lo) (lo + 2048)).filter fun e => e.2).map (·.1)
  lost.foldl loseElem { x with
    acc := below x.acc lo ++ above x.acc (lo + 2048)
    accP := below x.accP lo ++ above x.accP (lo + 2048) }

/-- A residue mismatch of the accumulate stage in cycle t, at the lowest element of the group that command m of core g then
writes: its element, with the value that fails (18: R433). -/
def accMismatch (s : State) (g : Nat) (m : MCmd) (t : Nat) : Option (Nat × Nat) :=
  match m.s with
  | none => none
  | some s0 =>
    let hit (e : Nat) : Bool := decide (e / 2048 + s0 + 2 = t) && s.mismatch.any fun y =>
      decide (y.unit = .core g .c) && decide (y.arr = arrOf m.i) && decide (y.at_ = t) && decide (y.lane = e)
    match m.i with
    | .msacc _ _ _ | .macc _ _ _ =>
      ((s.mismatch.map (·.lane)).filter hit).min?.map fun e => (e, ((accElem (s.core g) m e).map (·.1)).getD 0)
    | .mzero _ _ _ => ((s.mismatch.map (·.lane)).filter hit).min?.map fun e => (e, 0)
    | _ => none

/-- Such a mismatch traps C, and the command goes on to complete as CANCELLED, without this group and the later ones. -/
def accStrike (s : State) (g : Nat) (m : MCmd) : State × MCmd :=
  match if m.status = 0 then accMismatch s g m (s.sccOf (s.partOfCore g)) else none with
  | some (e, v) => (lateTrap s (.core g .c) m.org .pipeErr e (BitVec.ofNat 64 v), { m with status := 1 })
  | none => (s, m)

/-- A replay entry's command has failed; after an uncorrectable word a reissue reads its sources again (18: R438). -/
def failReplay (x : Core) (id : Nat) (again : Bool) : Core :=
  { x with replay := x.replay.map fun r => if r.id = id then { r with failed := true, again := again } else r }

/-- The latch of a MMUL or MMULS at the end of its last cycle, and the status that it completes with. -/
def meLatch (s : State) (g : Nat) (m : MCmd) : State × MCmd :=
  let x := s.core g
  let arr := (arrOf m.i).getD 0
  if m.ecc then (s.setCore g (failReplay (markPartial x arr true) m.id true), { m with status := 9 })
  else
    let l := latchOf s g m
    let x := markPartial (writePartial x arr l) arr l.failed
    let x := if l.sat && !l.failed then { x with sat := sset false x.sat (accOf m.i) true } else x
    let x := if l.failed then failReplay x m.id false else x
    let x := if l.injected then x.hwSet csrDiaginj 63 63 0 else x
    let s := s.setCore g x
    if l.failed then
      let d := if l.injected then 0xD1A6 else 0
      (meRecord s g m 2 d, { m with status := 2, count := l.col + 256 * l.row, detail := d })
    else (s, m)

/-- MWBL's 16 granules of chunk j. -/
def writeWb (s : State) (g : Nat) (m : MCmd) (j : Nat) : State :=
  let off := m.s2.toNat + 1024 * j
  let bs := natLe 1024 ((m.abuf >>> (8192 * j)) % 2 ^ 8192)
  let s := s.modCore g fun x => { x with wb := x.wb.write off bs }
  let src := m.s1.toNat + 1024 * j
  { s with wEcc := (List.range 16).foldl (fun e i =>
      let bad := eccBad s (src + 64 * i) 64
      sset false e (8192 * g + off / 64 + i) bad) s.wEcc }

/-- MSCL's 512 slots. -/
def writeSm (s : State) (g : Nat) (m : MCmd) : State :=
  let b := m.s2.toNat
  let wide : Bool := match m.i with
    | .mscl _ _ y => decide (y.ta = 0)
    | _ => true
  let bs := (List.range 512).flatMap fun k =>
    natLe 2 (if wide then (m.abuf >>> (16 * k)) % 512 else widen8 ((m.abuf >>> (8 * k)) % 256))
  let w := if wide then 2 else 1
  s.modCore g fun x => { x with
    sm := x.sm.write (2 * b) bs
    smEcc := (List.range 512).foldl (fun e k =>
      sset false e (b + k) (eccBad s (m.s1.toNat + w * k) w)) x.smEcc }

/-- What one started command writes at the end of this cycle, but for a latch, and for what comes after every latch. -/
def meWrite (s : State) (g : Nat) (m : MCmd) : State :=
  let x := s.core g
  let t := s.sccOf (s.partOfCore g)
  match m.s with
  | none => s
  | some s0 =>
    let k := t - s0
    match m.i with
    | .msacc _ _ _ | .macc _ _ _ =>
      if 2 ≤ k && k < 10 && m.status = 0 then s.setCore g (writeRows x m (k - 2)) else s
    | .mzero _ _ _ =>
      if 2 ≤ k && k < 10 && m.status = 0 then s.setCore g (zeroRows x m (k - 2)) else s
    | .mwbl _ _ _ | .mscl _ _ _ =>
      if m.stall || !m.portNow g t then s
      else if isMwbl m.i then writeWb s g m (t - (((m.portFrom g).map (·.1)).getD 0)) else writeSm s g m
    | .mwbd _ _ _ => if k = 0 then s.setCore g { x with wbMode := sset 0 x.wbMode m.s1.toNat (m.s2.toNat % 4) } else s
    | _ => s

/-- What comes after every latch of the cycle: MZERO clears SAT, what the cycle has set too (09: R252), and MCHK's
tolerance governs later latches (R259). -/
def meWriteLast (s : State) (g : Nat) (m : MCmd) : State :=
  let x := s.core g
  let t := s.sccOf (s.partOfCore g)
  match m.i, m.s with
  | .mzero _ _ _, some s0 => if t = s0 + 9 && m.status = 0 then s.setCore g { x with sat := sset false x.sat (accOf m.i) false } else s
  | .mchk _ _ _, some s0 =>
    if t = s0 then s.setCore g { x with
      chktol := sset 0x37800000 x.chktol ((arrOf m.i).getD 0) (BitVec.ofNat 32 m.s1.toNat) } else s
  | _, _ => s

/-- The selector stage of MMULS in its third cycle: an illegal nibble ends it (18: R437). -/
def meSelect (s : State) (g : Nat) (m : MCmd) : State × MCmd :=
  let t := s.sccOf (s.partOfCore g)
  match m.i, m.s with
  | .mmuls _ _ _, some s0 =>
    if t = s0 + 2 && m.atStart = 0 then
      match badNibble m.bbuf with
      | none => (s, m)
      | some (j, n) =>
        let arr := (arrOf m.i).getD 0
        let s := s.modCore g fun x =>
          failReplay { markPartial x arr true with mulFree := sset 0 x.mulFree arr (min (sget 0 x.mulFree arr) (t + 1)) } m.id false
        let s := lateTrap s (.core g .c) m.org .sparseMeta (8 * j + n) (BitVec.ofNat 64 (metaWord m.bbuf j))
        (s, { m with atStart := 12, status := 12, count := j + 256 * n, doneAt := some t })
    else (s, m)
  | _, _ => (s, m)

/-- The reads of a cycle of every started command of core g, then the rest of its work. A read of this cycle
sees no write of it (09: R244). Commands of both arrays that write one accumulator row in one cycle, which R238 leaves to
tokened code, do so one after the other in ascending stream order (the model's choice, log entry 108). -/
def meWorkAll (s : State) (g : Nat) : State :=
  let t := s.sccOf (s.partOfCore g)
  let s := (allMe (s.core g)).foldl (fun s m =>
    if m.s.isNone then s
    else
      let (s, m) := meRead s g m
      s.modCore g fun x => setMCmd x m) s
  let s := (allMe (s.core g)).foldl (fun s m =>
    if m.s.isNone then s
    else
      let (s, m) := accStrike s g m
      let (s, m) := meSelect s g m
      let (s, m) := if isMul m.i && m.atStart = 0 && m.doneAt = some t then meLatch s g m else (s, m)
      meWrite (s.modCore g fun x => setMCmd x m) g m) s
  (allMe (s.core g)).foldl (fun s m => meWriteLast s g m) s

/-! ### Completion (09: R243, R262; 10: R294, R295) -/

/-- A command's completion word. -/
def cqWordOf (eng str code utag status iter seq count : Nat) : BitVec 128 :=
  BitVec.ofNat 128 (1 + eng * 2 + str * 4 + code * 2 ^ 4 + utag * 2 ^ 8 + status * 2 ^ 16 + iter % 2 ^ 24 * 2 ^ 32
    + seq % 256 * 2 ^ 56 + count % 2 ^ 64 * 2 ^ 64)

def capCq : Nat := 64

/-- A completion word goes to cq, or waits for room behind those of its stream (09: R243); `key` is 0 to 3 for the ME's
streams, 4 to 7 for the CE's. -/
def offerWord (x : Core) (key : Nat) (w : CqWord) : Core :=
  if x.cq.length < capCq && (x.cqWait.all fun e => e.1 ≠ key) then { x with cq := x.cq ++ [w] }
  else { x with cqWait := x.cqWait ++ [(key, w)] }

/-- MFEN completes in the cycle in which every ME command issued before it has completed (09: R262). -/
def fenDone (x : Core) (m : MCmd) (t : Nat) : Bool :=
  m.s.isSome && (allMe x).all fun e => decide (m.id ≤ e.id) || (match e.doneAt with
    | some d => decide (d ≤ t)
    | none => false)

/-- The first command of a stream whose word has not gone to cq, if it has completed. -/
def meDone (s : State) (g str : Nat) : Option MCmd :=
  let x := s.core g
  let t := s.sccOf (s.partOfCore g)
  if s.held (s.partOfCore g) then none else match (sget [] x.mcmds str).find? fun m => !m.pushed with
  | none => none
  | some m =>
    match m.doneAt with
    | some d => if d ≤ t then some m else none
    | none => (match m.i with
      | .mfen _ _ _ => if fenDone x m t then some { m with doneAt := some t } else none
      | _ => none)

/-- The command completes and its completion word goes to cq. -/
def meComplete (s : State) (g str : Nat) : State :=
  match meDone s g str with
  | none => s
  | some m =>
    let m := { m with pushed := true, status := if m.status = 0 && m.ecc then 9 else m.status }
    let w := cqWordOf 1 str (meCode m.i) 0 m.status m.iter m.seq m.count
    s.modCore g fun x => offerWord (setMCmd x m) str { word := w }

/-- A MMUL or MMULS whose B operand has failed still reads its A operand into the replay buffer
(16: R399; 18: R437). -/
def stillReads (m : MCmd) (t : Nat) : Bool :=
  match mmulA m.i, m.s with
  | some (_, ta), some s0 => (m.atStart = 8 || m.atStart = 12) && !m.reused && decide (t + 1 < s0 + aChunks ta)
  | _, _ => false

/-- Commands that have completed and whose words have gone leave the engine at the end of the cycle. -/
def meSweep (x : Core) (t : Nat) : Core :=
  { x with mcmds := (x.mcmds.map fun e => (e.1, e.2.filter fun m => !(m.pushed && !stillReads m t && (match m.doneAt with
      | some d => decide (d ≤ t)
      | none => false)))).filter fun e => !e.2.isEmpty }

/-- Commands of both engines that have not started are discarded, to complete as cancelled at the end of cycle t:
those that `which` names by its loop activations (07: R189; 16: R395). -/
def cancelMe (x : Core) (t : Nat) (which : List Nat → Bool) : Core :=
  { x with mcmds := x.mcmds.map fun e => (e.1, e.2.map fun m =>
      if m.s.isNone && m.doneAt.isNone && which m.levs then { m with status := 1, doneAt := some t } else m) }

end Sys2Proof.Machine
end

