-- ==== Sys2Proof/Machine/Banks.lean ====
section
/-! DEFINITION. Reserved and open bank cycles (03: R89, R91; 13: R351): the banks that scheduled accesses name in
this cycle, and the host slots. -/

namespace Sys2Proof.Machine

/-- The banks that runs of bytes enter. -/
def runBanks (rs : List (Nat × Nat)) : List Nat := ((rs.flatMap runSectors).filterMap bankOf).eraseDups

def spadBanks (g : Nat) : List Nat := (List.range 16).map fun i => 1024 + 16 * g + i

/-- The banks that a landing of core g names in cycle t. A BRMW holds its bank from its read to its write. -/
def landingBanks (g t : Nat) (l : Landing) : List Nat :=
  match l.eff with
  | .perform (.rmwWrite cs) => if l.due = t || l.due = t + 1 then runBanks ((runsOf cs).map fun r => (r.1, r.2.length)) else []
  | .perform (.held a w) => if l.due = t || l.due = t + 1 then runBanks [(a, w)] else []
  | .perform (.rmw _ a w _ _ _ _) => if l.due ≤ t && t ≤ l.due + 2 then runBanks [(a, w)] else []
  | .perform (.vgather _ _ _ _) | .perform (.scatter _) => if l.org.timed && l.due = t then spadBanks g else []
  | .perform m => if l.org.timed && l.due = t then runBanks m.runs else []
  | .vstChunk _ _ rs at_ => if l.org.timed && at_ = t then runBanks (rs.map fun r => (r.1, r.2.2)) else []
  | .vscatter _ _ _ at_ => if l.org.timed && at_ = t then spadBanks g else []
  | .l1Fill _ _ _ a n _ | .l1Back _ _ a n _ => if l.org.timed && l.due = t then runBanks [(a, 128 * n)] else []
  | _ => []

/-- The banks that a stamped MWBL or MSCL reads in cycle t. -/
def meBanks (g t : Nat) (m : MCmd) : List Nat :=
  match m.s, m.stamp with
  | some s0, some _ =>
    let L := meLat g m.s1.toNat
    let k := t - s0 - L
    (match m.i with
     | .mwbl _ _ _ => if s0 + L ≤ t && k < 4 then runBanks [(m.s1.toNat + 1024 * k, 1024)] else []
     | .mscl _ _ y => if t = s0 + L then runBanks [(m.s1.toNat, if y.ta = 0 then 1024 else 512)] else []
     | _ => [])
  | _, _ => []

/-- The banks of a group's read or write. -/
def Grp.readBanks (x : Grp) : List Nat := if x.n = 0 then [] else runBanks [(x.src, x.n)]
def Grp.writeBanks (x : Grp) : List Nat :=
  match x.kind with
  | .bytes | .marker => if x.len = 0 then [] else runBanks [(x.dst, x.len)]
  | _ => []

def ceBanksOf (t : Nat) (c : CCmd) : List Nat :=
  (match c.readNow t with
   | some u => (c.group u).readBanks
   | none => []) ++
  (match c.writeNow t with
   | some u => (c.group u).writeBanks
   | none => [])

/-- The banks that scheduled accesses of core g name d cycles on; the record of a stamped command too. -/
def coreBanks (s : State) (g : Nat) (x : Core) (d : Nat) : List Nat :=
  let t := s.sccOf (s.partOfCore g) + d
  x.pend.flatMap (landingBanks g t) ++ (allMe x).flatMap (meBanks g t) ++
    (allCe x).flatMap fun c => if c.stamp.isSome && !c.remote then
      ceBanksOf t c ++ (if c.rcdAt = some t then runBanks [(c.dn 3, 64)] else []) else []

/-- The banks of the bursts that DRDs write and DWRs read e cycles on. -/
def dcsBanks (s : State) (h : Nat) (d : Dcs) (e : Nat) : List Nat :=
  let t := s.now (.dcs h) + e
  d.lands.filterMap fun l => if l.due = t && l.wb.isNone then bankOf l.addr else none

/-- The banks that accesses registered so far reserve d cycles on, by the units of partitions that are not held. -/
def reservedBanks (s : State) (d : Nat := 0) : List Nat :=
  (s.cores.flatMap fun e => if s.held (s.partOfCore e.1) then [] else coreBanks s e.1 e.2 d) ++
    s.dcs.flatMap fun e => if s.held (s.partOf (.dcs e.1)) then [] else dcsBanks s e.1 e.2 d

/-- The cycle d cycles on is a host cycle of partition p (13: R351). -/
def hostCycle (s : State) (p : Nat) (d : Nat := 0) : Bool :=
  let off := s.fieldOf (offPart p rHslot) 7 0
  let n := s.fieldOf (offPart p rHslot) 15 8
  let x := ((s.part p).scc + d) % 256
  s.locked p && decide (off ≤ x) && decide (x < off + n) && !s.held p

/-- A host AtomicOp has read the sector of address a and has not yet written it (13: R351). -/
def atomicHolds (s : State) (a : Nat) : Bool := s.bar2.any fun o => o.got.isSome && sectorOf o.addr = sectorOf a

/-- The sector at address a can be served to an untimed request in this cycle. -/
def bankOpen (s : State) (reserved : List Nat) (a : Nat) : Bool :=
  match bankOf a with
  | none => true
  | some b => !reserved.contains b && !s.banksUsed.contains b && !atomicHolds s a && (match sliceOwner s a with
    | some p => !hostCycle s p
    | none => true)

/-- The two cycles after this one are neither reserved cycles nor host cycles of the bank of address a: what a BRMW of
tokened code waits for (10: R278). -/
def windowOpen (s : State) (a : Nat) : Bool :=
  match bankOf a with
  | none => true
  | some b => [1, 2].all fun d => !(reservedBanks s d).contains b && (match sliceOwner s a with
    | some p => !hostCycle s p d
    | none => true)

/-- Of these sectors the first of each bank: a bank serves one in a cycle (03: R80, R89). What lies in no bank is not kept
back. -/
def firstOfBank : List Nat → List Nat
  | [] => []
  | x :: xs => x :: (firstOfBank xs).filter fun y => (bankOf y).isNone || decide (bankOf y ≠ bankOf x)

/-- The banks of these sectors are taken for this cycle. -/
def useBanks (s : State) (secs : List Nat) : State := { s with banksUsed := s.banksUsed ++ secs.filterMap bankOf }

/-! ### Untimed accesses of engines (03: R80, R89; 04: R106) -/

/-- An untimed access is issued, to reach its banks in cycle `arrive`. -/
def postReq (s : State) (e : EReq) : State :=
  let parts := (e.rd.flatMap fun r => if r.2.2 = 0 then [] else runSectors (r.1, r.2.2)) ++ (e.wr.map fun c => sectorOf c.1)
  { s with ereqs := s.ereqs ++ [{ e with parts := (e.parts ++ parts).eraseDups }] }

/-- An access to which R106 gives no latency class reaches its banks after a free delay (log entry 3). -/
def postLater (s : State) (e : EReq) : State :=
  let (n, s) := s.takeFresh
  postReq s { e with arrive := e.arrive + Config.accessDelay n }

def ereqOf (s : State) (id : Nat) : Option EReq := s.ereqs.find? fun e => e.id = id

def setReq (s : State) (r : EReq) : State := { s with ereqs := s.ereqs.map fun e => if e.id = r.id then r else e }

def dropReq (s : State) (id : Nat) : State := { s with ereqs := s.ereqs.filter fun e => e.id ≠ id }

end Sys2Proof.Machine
end

