-- ==== Sys2Proof/Machine/Xlate.lean ====
section
/-! DEFINITION. The host port as the device uses it, and translation (03: R102 to R104; 17: R418 to R420; 19: R460):
requests to host memory, the walkers and the cache of leaf translations. -/

namespace Sys2Proof.Machine

/-! ### Requests -/

/-- The die whose unit made a request. -/
def Purpose.die (s : State) (w : Purpose) : Option Nat :=
  match w with
  | .walk no => (s.walks.find? fun x => x.no = no).map (·.die)
  | .ceRead g _ _ _ | .cePeer g _ => some (dieOf g)
  | .entry _ _ | .cda _ => none

/-- The request, or its answer, would cross a withdrawn link: its flits are discarded (19: R459). -/
def Purpose.cut (s : State) (w : Purpose) : Bool := (w.die s).any s.gone

/-- A read of host memory is sent, and remembered under its tag. -/
def hostRead (s : State) (pa n : Nat) (why : Purpose) : State :=
  { s with
    effNo := s.effNo + 1
    host := if why.cut s then s.host else .read s.effNo pa n :: s.host
    outst := s.outst ++ [⟨s.effNo, s.wcc, why⟩] }

/-- The tag that the next request will carry. -/
def State.nextTag (s : State) : Nat := s.effNo

def hostSend (s : State) (m : Msg) : State := { s with host := m :: s.host }

/-- A request to the peer, which it answers. -/
def peerSend (s : State) (m : Nat → Msg) (why : Purpose) : State :=
  { s with
    effNo := s.effNo + 1
    peer := if why.cut s then s.peer else m s.effNo :: s.peer
    outst := s.outst ++ [⟨s.effNo, s.wcc, why⟩] }

/-- A fault record of the translation unit of a die (19: R460). -/
def xlRecord (s : State) (p die code detail addr tid iter pc : Nat) : State :=
  record s {
    det := 13, sev := 1, part := p, ukind := 6, unit := die, code := code, detail := detail, addr := addr % 2 ^ 48,
    tid := tid, iter := iter, pc := pc }

/-! ### Translation -/

/-- PHWIN admits the address (03: R101). -/
def admitted (s : State) (p a : Nat) : Bool :=
  let w := s.reg (offPart p rPhwin)
  2 ^ 39 ≤ a && a < 2 ^ 48 && bits w 26 0 ≤ bits a 47 21 && bits a 47 21 ≤ bits w 58 32

def cacheOf (s : State) (die p : Nat) : List Xlat := if die = 0 then (s.part p).xl0 else (s.part p).xl1

def setCache (s : State) (die p : Nat) (l : List Xlat) : State :=
  s.modPart p fun x => if die = 0 then { x with xl0 := l } else { x with xl1 := l }

/-- What a translation answers: the host address and the leaf's flags; not yet known; or refused, with a DETAIL. -/
inductive XRes where
  | ok (pa flags : Nat)
  | miss
  | refuse (detail : Nat)
  deriving DecidableEq, Repr

/-- The translation of device address a for a read or a write of partition p by a die's unit. -/
def translate (s : State) (die p a : Nat) (write : Bool) : XRes :=
  if !admitted s p a || s.fieldOf (offPart p rPtroot) 0 0 = 0 then .refuse 0x80
  else match (cacheOf s die p).find? fun x => x.page ≤ a && a < x.page + x.size with
    | none => .miss
    | some x =>
      if !write && bits x.flags 2 2 = 0 then .refuse 0x20
      else if write && bits x.flags 3 3 = 0 then .refuse 0x40
      else .ok (x.pa + (a - x.page)) x.flags

/-- The walkers of partition p that work on a die. -/
def walksOf (s : State) (die p : Nat) : List Walk := s.walks.filter fun w => w.die = die && w.part = p

/-- The table read of a walk at its level, from table address t. -/
def walkRead (s : State) (w : Walk) (t : Nat) : State :=
  hostRead s (t + 8 * bits w.va (12 + 9 * (w.lev - 1) + 8) (12 + 9 * (w.lev - 1))) 8 (.walk w.no)

/-- A walk for address a starts, if a walker is free and none works on its page (17: R419). -/
def startWalk (s : State) (die p a : Nat) (who : Waiter) : State :=
  let ws := walksOf s die p
  if 16 ≤ ws.length || ws.any (fun w => w.va / 4096 = a / 4096) then s
  else
    let w : Walk := { no := s.effNo, die := die, part := p, va := a, lev := 4, who := who }
    let s := { s with effNo := s.effNo + 1, walks := s.walks ++ [w] }
    walkRead s w (s.fieldOf (offPart p rPtroot) 51 12 * 4096)

def setWalk (s : State) (w : Walk) : State := { s with walks := s.walks.map fun x => if x.no = w.no then w else x }

/-- The table entry e that a walk has read: the next read, the leaf, or a refusal. -/
def walkEntry (s : State) (w : Walk) (e : Nat) : State :=
  let leaf (size : Nat) (hi lo : Nat) : State :=
    setWalk s { w with leaf := some ⟨w.va / size * size, size, bits e hi lo * 2 ^ lo, e % 64⟩ }
  if bits e 0 0 = 0 then setWalk s { w with refused := some (16 + w.lev) }
  else if w.lev = 2 && bits e 1 1 = 1 then leaf (2 ^ 21) 51 21
  else if w.lev = 1 then (if bits e 5 5 = 1 then leaf (2 ^ 16) 51 16 else leaf 4096 51 12)
  else
    let w := { w with lev := w.lev - 1 }
    walkRead (setWalk s w) w (bits e 51 12 * 4096)

/-- A command's request has ended it: the first such status stands. -/
def lateCe (s : State) (g str id status detail addr : Nat) : State :=
  s.modCore g fun x => { x with ccmds := x.ccmds.map fun e => if e.1 = str then (e.1, e.2.map fun c =>
    if c.id = id && c.late = 0 then { c with late := status, lateDetail := detail, lateAddr := addr } else c) else e }

/-- The newest 1,024 translations of a partition's part of the cache (03: R104; 17: R419). The spec does not say which entry
a full cache gives up: the oldest goes (the model's choice, log entry 88). -/
def keepNew (l : List Xlat) : List Xlat := l.drop (l.length - 1024)

/-- The walk that is done on a die, lowest number first. -/
def walkDone (s : State) (die : Nat) : Option Walk :=
  s.walks.find? fun w => w.die = die && (w.leaf.isSome || w.refused.isSome)

/-- A finished walk leaves its walker: its leaf is cached, or its refusal ends what waited for it, but for a queue
entry, which is given up by its slot. -/
def finishWalk (s : State) (w : Walk) : State :=
  let s := { s with walks := s.walks.filter fun x => x.no ≠ w.no }
  match w.leaf, w.refused with
  | some l, _ => setCache s w.die w.part (keepNew (cacheOf s w.die w.part ++ [l]))
  | none, some d =>
    (match w.who with
     | .ce g str id => lateCe s g str id 7 d w.va
     | .slot _ _ => s
     | .cda q => { s with cdaWait := s.cdaWait.filter fun x => x.1 ≠ q })
  | none, none => s

end Sys2Proof.Machine
end

