-- ==== Sys2Proof/Machine/CopyEngine.lean ====
section
/-! DEFINITION. Copy-engine commands from acceptance to completion (10: R280, R282, R285 to R295; 11: R306; 17: R418;
18: R441 to R445): acceptance, the start, the groups of local commands cycle by cycle, the steps of remote
commands, completion, cancellation. -/

namespace Sys2Proof.Machine

def setCCmd (x : Core) (c : CCmd) : Core :=
  { x with ccmds := insert x.ccmds c.str ((sget [] x.ccmds c.str).map fun e => if e.id = c.id then c else e) }

def State.setCe (s : State) (g : Nat) (c : CCmd) : State := s.modCore g fun x => setCCmd x c

/-! ### Acceptance (10: R280; 18: R441) -/

/-- The commands of stream str that are accepted and have not started. -/
def ceQueued (x : Core) (str : Nat) : Nat := ((sget [] x.ccmds str).filter fun c => c.s.isNone && c.doneAt.isNone).length

/-- A fault record of a command's status (16: R398). -/
def ceRecord (s : State) (g : Nat) (c : CCmd) (status detail addr : Nat) : State :=
  if status = 6 || status = 7 || status = 10 then
    xlRecord s (s.partOfCore g) (dieOf g) status detail addr (s.tidOf g) c.iter c.org.pc
  else
    record s {
      det := if status = 9 then 3 else 15, sev := 1, part := s.partOfCore g, ukind := 0, unit := g, code := status,
      detail := detail, addr := addr % 2 ^ 48, tid := s.tidOf g, iter := c.iter, pc := c.org.pc }

/-- The command's fields and record are complete: its latencies, its kind and its checks. -/
def ceSettle (s : State) (g : Nat) (c : CCmd) : State × CCmd :=
  let (li, ls, ld) := ceLats g c
  let c := { c with rcdAt := none, remote := c.isRemote, li := li, ls := ls, ld := ld }
  match ceCheck s g c with
  | none => (s, c)
  | some (status, detail, addr) =>
    let c := { c with bad := status, badDetail := detail }
    let s := if c.code = 7 then s.modCore g fun x => { x with collBad := x.collBad ++ [(c.str, c.ordinal)] } else s
    (ceRecord s g c status detail addr, c)

/-- The record of a command has been read: the command is settled, or an uncorrectable word of the record makes it a null
command (16: R398, R399; 18: R441). -/
def ceRecRead (s : State) (g : Nat) (c : CCmd) (bs : Bytes) : State × CCmd :=
  match eccAt s (c.dn 3) 64 with
  | some a =>
    let detail := eccDetail s (c.dn 3) 64
    (ceRecord s g c 9 detail a, { c with rcdAt := none, remote := c.isRemote, bad := 9, badDetail := detail })
  | none => ceSettle (noteCorrected s g c.org [(c.dn 3, 64)]) g { c with rcd := cells 0 0 bs }

/-- The CE of core g accepts the command in D0 to D7. -/
def ceAccept (s : State) (g : Nat) (i : Instr) (std str : Nat) (d : List DWord) : State :=
  let now := s.sccOf (s.partOfCore g)
  let q := seqOf s.actor
  let org := s.origin s.actor i
  let x := s.core g
  let (ord, x) := nextOrdinal x 0 str
  let c : CCmd := {
    id := s.effNo, org := org, str := str, c := now, stamp := if std = 0 then none else some (now + std), d := d,
    iter := x.iter, seq := ord % 256, levs := activeLevels (x.seqr q), ordinal := sget 0 x.colls str }
  let x := if c.code = 7 then { x with colls := sset 0 x.colls str (c.ordinal + 1) } else x
  let s := { s.setCore g x with effNo := s.effNo + 1 }
  let readable := c.hasRec && c.dn 3 % 64 = 0 && (ceBad s g false (c.dn 3) 64).isNone
  let (s, c) := if readable then (s, { c with rcdAt := some (now + if farRegion (c.dn 3) then 1 else ceLat g (c.dn 3)) })
    else ceSettle s g c
  s.modCore g fun x => { x with ccmds := insert x.ccmds str (sget [] x.ccmds str ++ [c]) }

/-- PUSH (R280). -/
def pushBody (i : Instr) (o : A3) (x : XM) (s : State) : Body :=
  match s.actor with
  | .core g _ =>
    let t := s.timedOf s.actor
    if ceQueued (s.core g) x.str.toNat < 8 then
      let d := (codesFrom o.a 8).map s.rd
      let s := s.result i o.d 1 0
      .done (ceAccept s g i x.std.toNat x.str.toNat d) .seq
    else if t then .sched 6
    else .done (s.result i o.d 1 1) .seq
  | _ => .wait s

/-! ### Starting (10: R282) -/

/-- The first command of a stream that has not started. -/
def ceHead (x : Core) (str : Nat) : Option CCmd := (sget [] x.ccmds str).find? fun c => c.s.isNone && c.doneAt.isNone

/-- A sequencer's accesses through the engine wait for its earlier fences, as its own do (04: R115; 15: R388, R389). -/
def ceFenced (s : State) (g : Nat) (c : CCmd) : Bool := fenced ((s.core g).seqr c.org.q) c.id

/-- A local GATHER or SCATTER with its list as it stands. -/
def withList (s : State) (g : Nat) (c : CCmd) : CCmd :=
  { c with rcd := cells 0 0 (s.readView (dieOf g) (c.dn 3) (4 * bits (c.dn 0) 63 32)) }

def CCmd.listed (c : CCmd) : Bool := c.code = 2 || c.code = 3

/-- The command is remote: of itself, or through an element that its list names (10: R282). -/
def goesFar (s : State) (g : Nat) (c : CCmd) : Bool := c.remote || (c.listed && (withList s g c).reachesFar)

/-- The head of stream str of core g starts in this cycle. -/
def ceMayStart (s : State) (g str : Nat) : Option CCmd :=
  let x := s.core g
  let now := s.sccOf (s.partOfCore g)
  if s.held (s.partOfCore g) then none else match ceHead x str with
  | none => none
  | some c =>
    let earlier := (sget [] x.ccmds str).all fun e => decide (c.id ≤ e.id) || (match e.doneAt with
      | some d => decide (d < now)
      | none => false)
    if c.rcdAt.isNone && decide (c.stamp.getD (c.c + 1) ≤ now) && earlier && !ceFenced s g c
        && (c.bad ≠ 0 || goesFar s g c || decide (x.ceFree ≤ now)) then some c else none

/-- The command c starts on core g. A list that reaches host memory, a line buffer or an ingress window makes it remote
(10: R282); a local command is checked whole (17: R418). -/
def ceStart (s : State) (g : Nat) (c : CCmd) : State :=
  let now := s.sccOf (s.partOfCore g)
  let c := { c with s := some now, start0 := s.wcc }
  let null (s : State) (c : CCmd) (status count : Nat) : State :=
    s.setCe g { c with status := status, count := count, doneAt := some now }
  if c.bad ≠ 0 then null s c c.bad (if c.bad = 5 then c.badDetail else 0)
  else if c.peer && (s.fieldOf offPeercfg 0 0 = 0 || !s.peerUp) then null (ceRecord s g c 11 0 0) c 11 0
  else if goesFar s g c then s.setCe g { c with remote := true }
  else match if c.listed then (withList s g c).plan.findSome? (grpBad s g false) else none with
    | some a => null (ceRecord s g c 8 1 a) c 8 0
    | none =>
      let n := c.groupCount
      if n = 0 then s.setCe g { c with doneAt := some now }
      else (s.setCe g { c with groups := n }).modCore g fun x => { x with ceFree := now + n }

/-! ### Groups of local commands -/

/-- The bytes that a group writes, from those that it has read; `old` is what the last byte read would replace. -/
def Grp.out (x : Grp) (data : Bytes) (old : Byte) : Bytes :=
  let keep := data.take x.n
  let keep := if x.last < 8 then
      match keep.getLast? with
      | some b =>
        let m : Byte := BitVec.ofNat 8 (2 ^ x.last - 1)
        keep.dropLast ++ [(b &&& m) ||| (if x.zero then 0 else old &&& ~~~m)]
      | none => keep
    else keep
  keep ++ List.replicate (x.len - x.n) 0

/-- The cells that a group writes to memory, as a die's view stands. -/
def grpCells (s : State) (die : Nat) (x : Grp) (data : Bytes) : List (Nat × Byte) :=
  match x.kind with
  | .bytes => runCells x.dst (x.out data ((s.view die).byte (x.dst + x.n - 1)))
  | .marker => runCells x.dst x.mark
  | _ => []

/-- A copy finds the weight buffer's port, or the scale memory's, free for group x in cycle t (09: R238; 11: R306). -/
def portRoom (s : State) (g t : Nat) (x : Grp) : Bool :=
  match x.kind with
  | .wb => decide (wbScheduled s g t + (s.core g).wbUse + x.len / 32 ≤ 32)
  | .slots => !smScheduled s g t && !(s.core g).smUse
  | _ => true

/-- It takes the port for this cycle. -/
def takeRoom (s : State) (g : Nat) (x : Grp) : State :=
  match x.kind with
  | .wb => s.modCore g fun y => { y with wbUse := y.wbUse + x.len / 32 }
  | .slots => s.modCore g fun y => { y with smUse := true }
  | _ => s

/-- The writes of the command are scheduled: it is stamped, in timed code (11: R306). -/
def CCmd.scheduled (c : CCmd) : Bool := c.stamp.isSome && c.org.timed

/-- The port that the command writes through in cycle t has no room for it. -/
def noRoom (s : State) (g : Nat) (c : CCmd) (t : Nat) : Bool :=
  match c.writeNow t with
  | some v => !c.scheduled && !portRoom s g t (c.group v)
  | none => false

/-- What group u has read, with the writes of earlier groups of the command (10: R286). -/
def grpSees (s : State) (g : Nat) (c : CCmd) (u : Nat) (x : Grp) (bs : Bytes) : Bytes :=
  let m := cells 0 0 bs
  let m := c.fly.foldl (fun (m : Mem) f =>
    if f.1 < u then
      ((grpCells s (dieOf g) (c.group f.1) f.2).filter fun y => x.src ≤ y.1 && y.1 < x.src + x.n).foldl
        (fun m y => m.setByte (y.1 - x.src) y.2) m
    else m) m
  m.read 0 x.n

/-- The command moves nothing in this cycle: its groups, and the datapath's later ones, are a cycle later (11: R306). -/
def ceSlip (s : State) (g : Nat) (c : CCmd) : State :=
  (s.setCe g { c with slip := c.slip + 1, stall := true }).modCore g fun x => { x with ceFree := x.ceFree + 1 }

/-- A local command in progress. -/
def CCmd.moving (c : CCmd) : Bool := c.s.isSome && !c.remote && c.doneAt.isNone

/-- The group that a local command reads in cycle t has been read; an uncorrectable word ends it with what it has read
before (16: R398, R399). -/
def ceRead (s : State) (g : Nat) (c : CCmd) (t : Nat) (data : Grp → Bytes) : State × CCmd :=
  match c.readNow t with
  | none => (s, c)
  | some u =>
    let x := c.group u
    match if x.n = 0 then none else eccAt s x.src x.n with
    | some a => (ceRecord s g c 9 (eccDetail s x.src x.n) a, { c with status := 9, groups := u, doneAt := if u = 0 then some t else none })
    | none =>
      let s := if x.n = 0 then s else noteCorrected s g c.org [(x.src, x.n)]
      let bs := grpSees s g c u x (data x)
      (s, if x.kind = .index then { c with rcd := c.rcd.write x.dst bs, fly := c.fly ++ [(u, [])] }
        else { c with fly := (c.fly.filter fun f => f.1 ≠ u) ++ [(u, bs)] })

/-- Bytes into the weight buffer. -/
def wbWrite (s : State) (g off : Nat) (bs : Bytes) : State :=
  let s := s.modCore g fun x => { x with wb := x.wb.write off bs }
  { s with wEcc := (List.range (ceilDiv bs.length 64)).foldl (fun e i => sset false e (8192 * g + off / 64 + i) false) s.wEcc }

/-- Scales into slots (10: R291). -/
def slotWrite (s : State) (g : Nat) (c : CCmd) (slot : Nat) (bs : Bytes) : State :=
  let wide := bits (c.dn 0) 16 16 = 0
  let n := if wide then bs.length / 2 else bs.length
  let out := (List.range n).flatMap fun k =>
    natLe 2 (if wide then leNat ((bs.drop (2 * k)).take 2) % 512 else widen8 (bs.getD k 0).toNat)
  s.modCore g fun x => { x with
    sm := x.sm.write (2 * slot) out
    smEcc := (List.range n).foldl (fun e k => sset false e (slot + k) false) x.smEcc }

/-- The data that the command has read for group v. -/
def CCmd.data (c : CCmd) (v : Nat) : Bytes := ((c.fly.find? fun f => f.1 = v).map (·.2)).getD []

/-- What a group writes besides memory. -/
def grpStore (s : State) (g : Nat) (c : CCmd) (x : Grp) (data : Bytes) : State :=
  match x.kind with
  | .wb => wbWrite s g x.dst data
  | .slots => slotWrite s g c x.dst data
  | _ => s

/-- The group that a local command writes in cycle t has been written; with the last one the command completes. -/
def ceWrote (s : State) (g : Nat) (c : CCmd) (t : Nat) : State :=
  match c.writeNow t with
  | none => s.setCe g c
  | some v =>
    let x := c.group v
    (grpStore s g c x (c.data v)).setCe g { c with
      fly := c.fly.filter fun f => f.1 ≠ v
      t := v + 1, count := c.count + x.counts, doneAt := if v + 1 = c.groups then some t else none }

/-- The lowest byte that the groups of cycle t of a local command may not touch any more. -/
def ceBadNow (s : State) (g : Nat) (c : CCmd) (t : Nat) : Option Nat :=
  ((c.readNow t).bind fun u => ceBad s g false (c.group u).src (c.group u).n) <|>
    ((c.writeNow t).bind fun v => grpBad s g false { c.group v with n := 0 })

/-! ### Sectors that engine commands write (04: R119) -/

/-- Command c started before m. -/
def CCmd.startedBefore (c m : CCmd) : Bool := decide (c.start0 < m.start0) || (c.start0 = m.start0 && decide (c.id < m.id))

/-- One of a command's groups from lo up to hi writes the sector at x. A BATOM's elements lie each in one sector. -/
def CCmd.writesIn (c : CCmd) (lo hi x : Nat) : Bool :=
  let meets (a n : Nat) : Bool := decide (0 < n) && runsMeet (a, n) (x, 64)
  let run (n : Nat) : Bool := meets (c.dn 2 + 256 * lo) (min n (256 * hi) - 256 * lo)
  match c.code with
  | 0 => c.dsp ≠ 1 && !c.peer && run (bits (c.dn 0) 63 32)
  | 6 => false
  | 7 => decide (c.ph = 3) && run c.groups
  | _ => (List.range (min c.groupCount hi)).any fun t => lo ≤ t && (match (c.group t).kind with
      | .bytes => !c.peer && meets (c.group t).dst (c.group t).len
      | .marker => meets (c.group t).dst (c.group t).len
      | _ => false)

/-- A started command still has to write the sector at x. A COLL counts once its result is there. -/
def CCmd.stillWrites (c : CCmd) (x : Nat) : Bool :=
  !(c.s.isNone || c.doneAt.isSome || c.late ≠ 0 || c.bad ≠ 0) && c.writesIn c.t (c.groups + c.groupCount + 1) x

/-- A command has written a part of the sector at x. -/
def hasBegun (s : State) (c : CCmd) (x : Nat) : Bool :=
  c.s.isSome && c.writesIn 0 c.t x || (ereqOf s c.id).any fun e => !e.parts.contains x && e.wr.any fun y => sectorOf y.1 = x

/-- Stamped command c of a core writes cells: of a sector that another command has begun and is still to write, the other's
later bytes there count as written before these. -/
def noteLost (s : State) (c : CCmd) (cs : List (Nat × Byte)) : State :=
  let secs := (cellSectors cs).filter fun x => !c.lost.any fun a => sectorOf a = x
  let lose (e : CCmd) : CCmd :=
    let hit := secs.filter fun x => e.id ≠ c.id && e.stillWrites x && hasBegun s e x
    if hit = [] then e else { e with lost := e.lost ++ (cs.map (·.1)).filter fun a => hit.contains (sectorOf a) }
  { s with cores := s.cores.map fun y => (y.1, { y.2 with ccmds := y.2.ccmds.map fun e => (e.1, e.2.map lose) }) }

/-- The cells of a command's write that no later write of its sectors has overtaken. -/
def CCmd.unlost (c : CCmd) (cs : List (Nat × Byte)) : List (Nat × Byte) := cs.filter fun y => !c.lost.contains y.1

/-- Such a command ends with BOUNDS (16: R398). -/
def ceBounds (s : State) (g : Nat) (c : CCmd) (t a : Nat) : State :=
  (ceRecord s g c 8 1 a).setCe g { c with status := 8, count := 0, doneAt := some t }

/-- The cells of the group that a local command writes to memory in cycle t. -/
def ceCells (s : State) (g : Nat) (c : CCmd) (t : Nat) : List (Nat × Byte) :=
  match c.writeNow t with
  | some v => grpCells s (dieOf g) (c.group v) (c.data v)
  | none => []

/-! ### Stamped commands: timed accesses (10: R282) -/

/-- What the command reads or writes in cycle t would cross a withdrawn SL-C: its flits are discarded (19: R459). -/
def ceCut (s : State) (g : Nat) (c : CCmd) (t : Nat) : Bool :=
  let far (a n : Nat) : Bool := decide (0 < n) && decide (dieOfAddr a ≠ dieOf g)
  s.gone 2 && (((c.readNow t).any fun u => far (c.group u).src (c.group u).n) ||
    ((c.writeNow t).any fun v => ((c.group v).kind = .bytes || (c.group v).kind = .marker) && far (c.group v).dst (c.group v).len))

/-- The reads of this cycle of a stamped command, its record's among them (18: R441). -/
def ceFetchOne (s : State) (g : Nat) (c : CCmd) : State :=
  let t := s.sccOf (s.partOfCore g)
  if c.rcdAt = some t && !farRegion (c.dn 3) then
    if s.gone 2 && decide (dieOfAddr (c.dn 3) ≠ dieOf g) then s else
    let (s, c) := ceRecRead s g c (s.readView (dieOf g) (c.dn 3) 64)
    s.setCe g c
  else if !c.moving then s
  else match ceBadNow s g c t with
    | some a => ceBounds s g c t a
    | none =>
      if noRoom s g c t || ceCut s g c t then ceSlip s g c
      else
        let s := match c.writeNow t with
          | some v => if c.scheduled then s else takeRoom s g (c.group v)
          | none => s
        let (s, c) := ceRead s g { c with stall := false } t fun x => s.readView (dieOf g) x.src x.n
        s.setCe g c

/-- The scheduled reads of this cycle of core g's CE. -/
def ceFetch (s : State) (g : Nat) : State :=
  (allCe (s.core g)).foldl (fun s c => if c.stamp.isSome then ceFetchOne s g c else s) s

/-- The scheduled writes of this cycle of core g's CE. -/
def ceWrites (s : State) (g : Nat) : State :=
  let t := s.sccOf (s.partOfCore g)
  ((allCe (s.core g)).map (·.id)).foldl (fun s id => match (allCe (s.core g)).find? fun c => c.id = id with
   | none => s
   | some c =>
    if c.stamp.isSome && c.moving && !c.stall then
      let cs := c.unlost (ceCells s g c t)
      ceWrote (if cs = [] then s else timedWrite (noteLost s c cs) cs) g c t
    else s) s

/-! ### Unstamped commands: untimed accesses (04: R106) -/

/-- The number of stream str of core g's CE among the agents of the race detector. -/
def ceAgent (g str : Nat) : Nat := 1000 + 4 * g + str

/-- A request of command c of core g, in the stream of writes that its die has. -/
def CCmd.request (c : CCmd) (g arrive : Nat) : EReq :=
  { id := c.id, g := g, agent := ceAgent g c.str, arrive := arrive, parts := [], cmd := c.id, orig := origCd (dieOf g) }

/-- What an unstamped local command asks of its banks in this cycle. -/
def ceAskOne (s : State) (g : Nat) (c : CCmd) : State :=
  let t := s.sccOf (s.partOfCore g)
  if c.rcdAt.any (· ≤ t) then
    if farRegion (c.dn 3) || ceFenced s g c || (ereqOf s c.id).isSome then s
    else postReq s { c.request g t with rd := [(c.dn 3, 0, 64)] }
  else if !c.moving then s
  else match ceBadNow s g c t with
    | some a => ceBounds (dropReq s c.id) g c t a
    | none =>
      if noRoom s g c t then s.setCe g { c with stall := true }
      else
        let s := match c.writeNow t with
          | some v => takeRoom s g (c.group v)
          | none => s
        let s := s.setCe g { c with stall := false }
        let wr := ceCells s g c t
        match ereqOf s c.id with
        | some e => setReq s { e with wr := wr }
        | none =>
          let rd := match c.readNow t with
            | some u => [((c.group u).src, 0, (c.group u).n)].filter fun r => r.2.2 ≠ 0
            | none => []
          if rd = [] && wr = [] then s else postReq s { c.request g t with rd := rd, wr := wr }

/-- What the unstamped local commands of core g ask of their banks in this cycle. -/
def ceAsks (s : State) (g : Nat) : State :=
  (allCe (s.core g)).foldl (fun s c => if c.stamp.isSome then s else ceAskOne s g c) s

/-- One unstamped local command at the end of the cycle: it goes on, or waits for its banks or its port. -/
def ceMoveOne (s : State) (g : Nat) (c : CCmd) : State :=
  let t := s.sccOf (s.partOfCore g)
  let e := ereqOf s c.id
  let got : Mem := (e.map (·.got)).getD []
  if e.any fun e => !e.parts.isEmpty then (if c.moving then ceSlip s g c else s)
  else if c.rcdAt.isSome then
    if e.isNone then s
    else
      let (s, c) := ceRecRead (dropReq s c.id) g c (got.read 0 64)
      s.setCe g c
  else if !c.moving then s
  else if c.stall then ceSlip s g c
  else
    let (s, c) := ceRead (dropReq s c.id) g c t fun x => got.read 0 x.n
    ceWrote s g c t

/-- The unstamped local commands of core g at the end of the cycle. -/
def ceMoves (s : State) (g : Nat) : State :=
  (allCe (s.core g)).foldl (fun s c => if c.stamp.isSome then s else ceMoveOne s g c) s

/-! ### Remote commands: reading and writing a run (17: R418) -/

/-- A doubleword of port p's ingress window (12: R341). -/
def ingressWord (s : State) (p k : Nat) : Nat :=
  let x := s.port p
  match k with
  | 0 => x.frame
  | 1 => x.app
  | 2 => x.tfs
  | 3 => x.lastTcap
  | _ => 0

/-- The n bytes at device address a as core g's CE reads them. -/
def ceBytes (s : State) (g a n : Nat) : Bytes :=
  match regionOf a with
  | .lineBuf b => (s.lbp b).buf.read (a - 0x100000000 - b * 0x100000) n
  | .ingress p =>
    let off := a - 0x110000000 - p * 0x10000
    (List.range n).map fun i => BitVec.ofNat 8 (ingressWord s p ((off + i) / 8) / 2 ^ (8 * ((off + i) % 8)))
  | _ => s.readView (dieOf g) a n

/-- A run cut where pages of 4 KiB meet. -/
def pageCut (a n : Nat) : List (Nat × Nat) :=
  let m := 4096 - a % 4096
  if n ≤ m then [(a, n)] else [(a, m), (a + m, n - m)]

/-- The translations of a run of host memory: all of them, or the first that is refused or not known. -/
def pagesOf (s : State) (g : Nat) (write : Bool) : List (Nat × Nat) → List (Nat × Nat) ⊕ (Nat × XRes)
  | [] => .inl []
  | r :: rs =>
    match translate s (dieOf g) (s.partOfCore g) r.1 write with
    | .ok pa _ =>
      (match pagesOf s g write rs with
       | .inl l => .inl ((pa, r.2) :: l)
       | .inr e => .inr e)
    | e => .inr (r.1, e)

/-- A command ends with a status once its requests have come back. -/
def endLate (c : CCmd) (status detail addr : Nat) : CCmd :=
  if c.late = 0 then { c with late := status, lateDetail := detail, lateAddr := addr } else c

/-- What a translation that is not there does to a command: a refusal ends it, a miss starts a walk. -/
def needPage (s : State) (g : Nat) (c : CCmd) (a : Nat) (e : XRes) : State × CCmd :=
  match e with
  | .refuse d => (s, endLate c 7 d a)
  | _ => (startWalk s (dieOf g) (s.partOfCore g) a (.ce g c.str c.id), c)

/-- The run's addresses pass their bounds and, in host memory, their translations are at hand. -/
def runReady (s : State) (g : Nat) (c : CCmd) (write : Bool) (a n : Nat) : State × CCmd × Bool :=
  if n = 0 then (s, c, true)
  else if regionOf a = .host then
    if !s.hostUp then (s, endLate c 10 5 a, false)
    else match pagesOf s g write (pageCut a n) with
      | .inl _ => (s, c, true)
      | .inr (b, e) =>
        let (s, c) := needPage s g c b e
        (s, c, false)
  else match ceBad s g write a n with
    | some b => (s, endLate c 8 1 b, false)
    | none => (s, c, true)

/-- The remote unit has asked its banks for what it does next; answers what they have read once they have served it. -/
def remAsk (s : State) (c : CCmd) (r : EReq) : State × Option Mem :=
  match ereqOf s c.id with
  | some e => if e.parts.isEmpty then (dropReq s c.id, some e.got) else (s, none)
  | none => (postLater s { r with arrive := r.arrive + 1 }, none)

/-- Only tile store and scratchpads have banks. -/
def hasBank (a : Nat) : Bool :=
  match regionOf a with
  | .tile _ | .spad _ => true
  | _ => false

/-- A run of n bytes at a is read into the command's buffer at off; answers whether it is done. -/
def remRead (s : State) (g : Nat) (c : CCmd) (a n off : Nat) : State × CCmd × Bool :=
  if n = 0 then (s, c, true)
  else if c.stall then (if c.outs = [] then (s, { c with stall := false }, true) else (s, c, false))
  else
    let (s, c, ready) := runReady s g c false a n
    if !ready then (s, c, false)
    else if regionOf a = .host then
      match pagesOf s g false (pageCut a n) with
      | .inl ps =>
        let (s, c, _) := ps.foldl (fun (p : State × CCmd × Nat) r =>
          (hostRead p.1 r.1 r.2 (.ceRead g c.str p.2.2 r.2),
            { p.2.1 with outs := p.2.1.outs ++ [p.1.nextTag] }, p.2.2 + r.2)) (s, { c with from_ := a - off }, off)
        (s, { c with stall := true }, false)
      | .inr _ => (s, c, false)
    else if !hasBank a then (if s.gone (dieOf g) then (s, c, false) else (s, { c with buf := c.buf.write off (ceBytes s g a n) }, true))
    else
      match remAsk s c { c.request g (s.sccOf (s.partOfCore g)) with rd := [(a, 0, n)] } with
      | (s, none) => (s, c, false)
      | (s, some got) =>
        match eccAt s a n with
        | some x => (s, endLate c 9 (eccDetail s a n) x, false)
        | none => (noteCorrected s g c.org [(a, n)], { c with buf := c.buf.write off (got.read 0 n) }, true)

/-- The origin that a command's write enters: what the SFD delivers of a line buffer enters SFD's stream (04: R112). -/
def ceOrig (g src : Nat) : Nat :=
  match regionOf src with
  | .lineBuf _ => origSfd
  | _ => origCd (dieOf g)

/-- The bytes bs, which come from `src`, are written at a: to host memory, to the peer, or to the device. -/
def remWrite (s : State) (g : Nat) (c : CCmd) (peer : Bool) (src a : Nat) (bs : Bytes) : State × CCmd × Bool :=
  if bs = [] then (s, c, true)
  else if c.stall then (if c.outs = [] then (s, { c with stall := false }, true) else (s, c, false))
  else if peer then
    (peerSend s (fun t => .peerWrite t a bs) (.cePeer g c.str),
      { c with from_ := a, outs := c.outs ++ [s.nextTag], stall := true }, false)
  else
    let (s, c, ready) := runReady s g c true a bs.length
    if !ready then (s, c, false)
    else if regionOf a = .host then
      match pagesOf s g true (pageCut a bs.length) with
      | .inl ps =>
        let (s, _) := if s.gone (dieOf g) then (s, 0) else ps.foldl (fun (p : State × Nat) r => (hostSend p.1 (.write r.1 ((bs.drop p.2).take r.2)), p.2 + r.2)) (s, 0)
        (s, { c with hostWrite := true }, true)
      | .inr _ => (s, c, false)
    else
      let r : EReq := { c.request g (s.sccOf (s.partOfCore g)) with wr := runCells a bs, orig := ceOrig g src }
      match remAsk s c r with
      | (s, none) => (s, c, false)
      | (s, some _) => (s, c, true)

/-- The read that shows the command's writes to host memory applied (04: R115). -/
def readBehind (s : State) (g : Nat) (c : CCmd) : State × CCmd :=
  (hostRead s 0 0 (.ceRead g c.str 0 0), { c with from_ := 0, outs := c.outs ++ [s.nextTag], behind := true })

/-- The end of a remote command: a read of host memory behind its writes there, if any (04: R115, R120). -/
def remFinish (s : State) (g : Nat) (c : CCmd) : State × CCmd :=
  if c.hostWrite && !c.behind then (if s.hostUp then readBehind s g c else (s, endLate c 10 5 0))
  else if c.outs = [] then (s, { c with doneAt := some (s.sccOf (s.partOfCore g)) })
  else (s, c)

/-! ### Remote copies -/

/-- The group in hand needs the byte that its last bits replace from host memory. -/
def needsOld (x : Grp) : Bool := x.last < 8 && !x.zero && x.kind = .bytes && regionOf x.dst = .host

/-- One step of a remote copy: 0 checks the group, 1 and 2 read, 3 writes, 4 ends. -/
def remCopy (s : State) (g : Nat) (c : CCmd) : State × CCmd :=
  let x := c.group c.t
  let a := x.dst + x.n - 1
  match c.ph with
  | 0 =>
    if c.t = c.groupCount then (s, { c with ph := 4 })
    else if x.kind = .idle then (s, { c with t := c.t + 1 })
    else
      let (s, c, r) := runReady s g c false x.src x.n
      let mem := (x.kind = .bytes && !c.peer) || x.kind = .marker
      let (s, c, w) := if mem then runReady s g c true x.dst x.len else (s, c, true)
      (s, if r && w then { c with ph := 1, buf := [] } else c)
  | 1 =>
    let (s, c, ok) := remRead s g c x.src x.n 0
    (s, if ok then { c with ph := 2 } else c)
  | 2 =>
    if needsOld x then
      let (s, c, ok) := remRead s g c a 1 4096
      (s, if ok then { c with ph := 3 } else c)
    else (s, { c with ph := 3 })
  | 3 =>
    let data := c.buf.read 0 x.n
    let next (c : CCmd) : CCmd := { c with ph := 0, t := c.t + 1, count := c.count + x.counts }
    (match x.kind with
     | .index => (s, next { c with rcd := c.rcd.write x.dst data })
     | .wb =>
       if portRoom s g (s.sccOf (s.partOfCore g)) x then (takeRoom (wbWrite s g x.dst data) g x, next c) else (s, c)
     | .slots =>
       if portRoom s g (s.sccOf (s.partOfCore g)) x then (takeRoom (slotWrite s g c x.dst data) g x, next c) else (s, c)
     | .marker =>
       let (s, c, ok) := remWrite s g c false 0 x.dst x.mark
       (s, if ok then next c else c)
     | _ =>
       let old := if needsOld x then c.buf.byte 4096 else (s.view (dieOf g)).byte a
       let (s, c, ok) := remWrite s g c c.peer x.src x.dst (x.out data old)
       (s, if ok then next c else c))
  | _ => remFinish s g c

/-! ### BATOM (10: R292; 18: R443) -/

/-- Target t_i. -/
def batTarget (c : CCmd) (i : Nat) : Nat :=
  wrap 64 ((c.dn 2 : Int) + batW c * (if bits (c.dn 0) 23 23 = 1 then c.index i else (i : Int)))

/-- The target at a of an element can be read and written: BATOM reads it too (10: R292; 19: R460). -/
def batReady (s : State) (g : Nat) (c : CCmd) (a : Nat) : State × CCmd × Bool :=
  match runReady s g c false a (batW c) with
  | (s, c, true) => runReady s g c true a (batW c)
  | r => r

/-- Step 2 of R443 for element i. -/
def batCheck (s : State) (g : Nat) (c : CCmd) (i : Nat) : State × CCmd × Bool :=
  let a := batTarget c i
  if c.peer then (s, c, true)
  else match regionOf a with
    | .host =>
      if !(batOp c = 0 || batOp c = 5 || batOp c = 6) then (s, endLate c 8 0x0108 a, false)
      else
        let (s, c, ok) := batReady s g c a
        if !ok then (s, c, false)
        else match translate s (dieOf g) (s.partOfCore g) a true with
          | .ok _ f => if bits f 4 4 = 0 then (s, endLate c 6 0 a, false) else (s, c, true)
          | _ => (s, c, false)
    | .tile _ => batReady s g c a
    | _ => (s, endLate c 8 1 a, false)

/-- Where an atomic access notes that its word was uncorrectable: it has then written nothing (16: R398). -/
def atomBadAt : Nat := 16

/-- The atomic access of element i. -/
def batApply (s : State) (g : Nat) (c : CCmd) (i : Nat) : State × CCmd × Bool :=
  let a := batTarget c i
  let w := batW c
  let y := leNat (c.buf.read 0 w)
  let z := leNat (c.buf.read 16 w)
  let u := bits (c.dn 0) 22 22 = 1
  if c.stall then (if c.outs = [] then (s, { c with stall := false }, true) else (s, c, false))
  else if c.peer then
    (peerSend s (fun t => .peerAtomic t a (batOp c) w (BitVec.ofNat 64 y) (BitVec.ofNat 64 z)) (.cePeer g c.str),
      { c with from_ := a - 32, outs := c.outs ++ [s.nextTag], stall := true }, false)
  else match regionOf a with
    | .host =>
      let (s, c, ok) := batReady s g c a
      if !ok then (s, c, false)
      else match translate s (dieOf g) (s.partOfCore g) a true with
        | .ok pa _ =>
          let tag := s.nextTag
          let s := { s with
            effNo := s.effNo + 1
            host := if s.gone (dieOf g) then s.host else .atomic tag pa (batOp c) w (BitVec.ofNat 64 y) (BitVec.ofNat 64 z) :: s.host
            outst := s.outst ++ [⟨tag, s.wcc, .ceRead g c.str 32 w⟩] }
          (s, { c with from_ := a - 32, outs := c.outs ++ [tag], stall := true }, false)
        | _ => (s, c, false)
    | _ =>
      let r : EReq := { c.request g (s.sccOf (s.partOfCore g)) with parts := [sectorOf a], atom := some (a, batOp c, u, y, z), rd := [(a, 0, w)] }
      match remAsk s c r with
      | (s, none) => (s, c, false)
      | (s, some got) =>
        if got.byte atomBadAt ≠ 0 then (s, endLate c 9 (eccDetail s a w) a, false)
        else (s, { c with buf := c.buf.write 32 (got.read 0 w) }, true)

/-- One step of a BATOM: 0 reads the list, 1 checks the targets, 2 to 5 apply an element, 6 ends. -/
def remBatom (s : State) (g : Nat) (c : CCmd) : State × CCmd :=
  let n := batCount c
  let w := batW c
  let go (r : State × CCmd × Bool) (f : CCmd → CCmd) : State × CCmd := (r.1, if r.2.2 then f r.2.1 else r.2.1)
  match c.ph with
  | 0 =>
    if bits (c.dn 0) 23 23 = 0 || 4 * n ≤ 256 * c.t then (s, { c with ph := 1, t := 0, rcd := c.buf, buf := [] })
    else go (remRead s g c (c.dn 3 + 256 * c.t) (min 256 (4 * n - 256 * c.t)) (256 * c.t)) fun c =>
      { c with t := c.t + 1 }
  | 1 =>
    if c.t = n then (s, { c with ph := 2, t := 0 })
    else go (batCheck s g c c.t) fun c => { c with t := c.t + 1 }
  | 2 =>
    if c.t = n then (s, { c with ph := 6 })
    else go (remRead s g c (c.dn 1 + w * c.t) w 0) fun c => { c with ph := 3 }
  | 3 =>
    if batOp c ≠ 6 then (s, { c with ph := 4 })
    else go (remRead s g c (c.dn 5 + w * c.t) w 16) fun c => { c with ph := 4 }
  | 4 => go (batApply s g c c.t) fun c => { c with ph := 5 }
  | 5 => go (remWrite s g c false 0 (c.dn 4 + w * c.t) (c.buf.read 32 w)) fun c =>
      { c with ph := 2, t := c.t + 1, count := c.t + 1 }
  | _ => remFinish s g c

/-! ### COLL (10: R293; 18: R444; 04: R117) -/

/-- The fields that participants exchange. -/
def collFields (c : CCmd) : List Nat := [collOp c, collFmt c, collLev c, collCount c, collRoot c]

/-- The COLL of core h that matches c, once its source has been read. -/
def collOf (s : State) (h : Nat) (c : CCmd) : Option CCmd :=
  (sget [] (s.core h).ccmds c.str).find? fun e => e.code = 7 && e.ordinal = c.ordinal && e.s.isSome && e.doneAt.isNone && e.late = 0 && 1 ≤ e.ph

/-- Core h's COLL of that ordinal was refused, or has ended because participants differ. -/
def collRefused (s : State) (h : Nat) (c : CCmd) : Bool := (s.core h).collBad.contains (c.str, c.ordinal)

/-- The result in every participant's destination, from the sources by rank. -/
def collResult (c : CCmd) (xs : List Bytes) : Bytes :=
  let t := collFmt c
  let w := fmtBits t / 8
  match collOp c with
  | 3 => xs.flatMap id
  | 4 => xs.getD (collRoot c) []
  | op => (List.range (collCount c)).flatMap fun e =>
      natLe w (tree (redOp op t 0) (redIdent op t) (xs.map fun x => leNat ((x.drop (w * e)).take w)))

/-- A COLL whose peer half has come back holds it in its list: how many participants, then their sources. -/
def peerHalf (c : CCmd) : List Bytes :=
  let n := if collBytes c = 0 then 0 else c.rcd.nat 0 8 / collBytes c
  (List.range n).map fun r => c.rcd.read (8 + r * collBytes c) (collBytes c)

/-- The COLLs that match c of core g, with their cores. -/
def collParts (s : State) (g : Nat) (c : CCmd) : List (Nat × CCmd) :=
  (s.members (collLev c) g).filterMap fun h => (collOf s h c).map fun e => (h, e)

/-- Participants differ, here or on the peer: every one of them completes with BOUNDS, and so will those that are still to
find it (18: R444). -/
def collFail (s : State) (g : Nat) (c : CCmd) : State :=
  (collParts s g c).foldl (fun s e =>
    (s.setCe e.1 { endLate e.2 8 0x0108 0 with outs := [] }).modCore e.1 fun x => { x with collBad := x.collBad ++ [(c.str, c.ordinal)] }) s

/-- The accesses to buffers that preceded COLL c in its sequencer have performed and are applied in every view: what the COLL
releases (04: R117). -/
def collReady (s : State) (g : Nat) (c : CCmd) (bufs : List (Nat × Nat)) : Bool :=
  let meets (rs : List (Nat × Nat)) : Bool := rs.any fun r => bufs.any fun b => runsMeet r b
  let cell (l : Option (List (Nat × Byte))) : Bool := (l.getD []).any fun e => meets [(e.1, 1)]
  let a : Actor := .core g c.org.q
  (s.reqs.all fun r => !(decide (r.own = a) && decide (r.id < c.id) && meets r.op.runs)) &&
  ((s.core g).pend.all fun l => !(decide (l.org.q = c.org.q) && decide (l.id < c.id) && meets (effRuns l.eff))) &&
  (s.ereqs.all fun e => !(e.ofSeq g c.org.q && decide (e.id < c.id) && meets e.runs)) &&
  s.vwrites.all fun w => !(decide (w.own = a) && w.acc ≠ 0 && decide (w.acc < c.id) && (cell w.left0 || cell w.left1))

/-- A COLL of core g that has met the others releases its sequencer's writes to the buffers: for the race detector they
become writes of the engine that are released (04: R117; 17: R421). -/
def collRelease (s : State) (g : Nat) (c : CCmd) (bufs : List (Nat × Nat)) : State :=
  let me := seqAgent g c.org.q
  let ce := ceAgent g c.str
  let named (sec : Nat) : Bool := bufs.any fun b => runsMeet (sec, 64) b
  let hit (e : Nat × Nat × Nat × Nat) : Bool := named e.1 && decide (e.2.1 = me) && decide (e.2.2.1 < c.id)
  let s := { s with
    race := s.race.map fun e => if hit e then (e.1, ce, c.id - 1, 0) else e
    pubs := insert s.pubs (8 * ce + 3) (sset 0 [] ce (c.id - 1)) }
  s.modSeqr (.core g c.org.q) fun q => { q with clock := joinAfter q.clock [(ce, c.id - 1)] }

/-- Every participant on this device has come: all of them end, with the result to write or with BOUNDS. What they release
has been performed and applied first (04: R117). -/
def collMeet (s : State) (g : Nat) (c : CCmd) : State :=
  let ms := s.members (collLev c) g
  if !(ms.all fun h => (collOf s h c).isSome || collRefused s h c) then s
  else
    let cs := collParts s g c
    let same := cs.length = ms.length && cs.all fun e => collFields e.2 = collFields c && e.2.peer = c.peer
    let bufs := cs.flatMap fun e => collBufs s e.1 e.2
    let all (s : State) (f : CCmd → CCmd) : State := cs.foldl (fun s e => (collRelease s e.1 e.2 bufs).setCe e.1 (f e.2)) s
    if !same then collFail s g c
    else if !(cs.all fun e => collReady s e.1 e.2 bufs) then s
    else
      let mine := cs.map fun e => e.2.buf.read 0 (collBytes c)
      match c.peer, cs with
      | true, (h, e) :: _ =>
        if e.ph = 1 then
          -- the lowest participant exchanges fields and sources with the peer
          (peerSend s (fun t => .peerColl t ((collFields c).flatMap (natLe 4) ++ mine.flatMap id)) (.cePeer h e.str)).setCe h
            { e with ph := 2, outs := e.outs ++ [s.nextTag] }
        else if e.outs ≠ [] then s
        else
          let xs := if s.fieldOf offPeercfg 1 1 = 0 then mine ++ peerHalf e else peerHalf e ++ mine
          let r := collResult c xs
          all s fun y => { y with ph := 3, t := 0, start0 := s.wcc, buf := cells 0 0 r, groups := r.length }
      | _, _ =>
        let r := collResult c mine
        all s fun y => { y with ph := 3, t := 0, start0 := s.wcc, buf := cells 0 0 r, groups := r.length }

/-- One step of a COLL: 0 reads the source, 1 and 2 wait for the others, 3 writes the result, 4 ends. -/
def remColl (s : State) (g : Nat) (c : CCmd) : State × CCmd :=
  let n := collBytes c
  let w := fmtBits (collFmt c) / 8
  match c.ph with
  | 0 =>
    if c.t = 0 && !collReady s g c (collBufs s g c) then (s, c)
    else if n ≤ 256 * c.t then (s, { c with ph := 1 })
    else
      let (s, c, ok) := remRead s g c (c.dn 1 + 256 * c.t) (min 256 (n - 256 * c.t)) (256 * c.t)
      (s, if ok then { c with t := c.t + 1 } else c)
  | 1 | 2 => (s, c)
  | 3 =>
    if c.groups ≤ 256 * c.t then (s, { c with ph := 4, count := collCount c })
    else
      let (s, c, ok) := remWrite s g c false 0 (c.dn 2 + 256 * c.t) (c.buf.read (256 * c.t) (min 256 (c.groups - 256 * c.t)))
      (s, if ok then { c with t := c.t + 1, count := min (collCount c) (256 * (c.t + 1) / w) } else c)
  | _ => remFinish s g c

/-! ### The remote unit -/

/-- A remote command that a status has ended completes once nothing of it is outstanding, and its writes to host memory
are shown applied (04: R120). -/
def remLate (s : State) (g : Nat) (c : CCmd) : State × CCmd :=
  if c.outs ≠ [] then (s, c)
  else if c.hostWrite && !c.behind && s.hostUp then readBehind s g c
  else
    let count := if c.late = 6 || (c.code = 6 && c.ph < 2) then 0 else c.count
    (ceRecord (dropReq s c.id) g c c.late c.lateDetail c.lateAddr,
      { c with status := c.late, count := count, doneAt := some (s.sccOf (s.partOfCore g)) })

/-- The remote unit reads a record that lies in host memory, a line buffer or an ingress window, before the command starts
(10: R282; 18: R441); one that it cannot read makes a null command. -/
def remRecord (s : State) (g : Nat) (c : CCmd) : State :=
  let (s, c, ok) := remRead s g c (c.dn 3) 64 0
  if c.late ≠ 0 then
    if c.outs ≠ [] then s.setCe g c
    else (ceRecord s g c c.late c.lateDetail c.lateAddr).setCe g
      { c with rcdAt := none, remote := true, bad := c.late, badDetail := c.lateDetail, late := 0 }
  else if ok then
    let (s, c) := ceSettle s g { c with rcd := cells 0 0 (c.buf.read 0 64), buf := [] }
    s.setCe g c
  else s.setCe g c

/-- One step of a started remote command, or of one whose record it reads. -/
def remStep (s : State) (g : Nat) (c : CCmd) : State :=
  if c.rcdAt.any (· ≤ s.sccOf (s.partOfCore g)) && farRegion (c.dn 3) then (if ceFenced s g c then s else remRecord s g c)
  else if c.s.isNone || !c.remote || c.doneAt.isSome then s
  else
    let c := if c.peer && !s.peerUp then { endLate c 11 0 0 with outs := [] } else c
    let (s, c) :=
      if c.late ≠ 0 then remLate s g c
      else match c.code with
        | 6 => remBatom s g c
        | 7 => remColl s g c
        | _ => remCopy s g c
    let s := s.setCe g c
    if c.code = 7 && (c.ph = 1 || c.ph = 2) && c.late = 0 then collMeet s g c else s

/-- The work of this cycle of core g's remote unit. -/
def ceRemote (s : State) (g : Nat) : State := (allCe (s.core g)).foldl (fun s c => remStep s g c) s

/-! ### Completion (10: R294, R295; 04: R120) -/

/-- The first command of stream str whose word has not gone to cq, if it has completed and its writes are applied
in every view. -/
def ceDone (s : State) (g str : Nat) : Option CCmd :=
  let now := s.sccOf (s.partOfCore g)
  if s.held (s.partOfCore g) then none else match (sget [] (s.core g).ccmds str).find? fun c => !c.pushed with
  | none => none
  | some c =>
    match c.doneAt with
    | some d => if d ≤ now && s.vwrites.all (fun w => w.cmd ≠ c.id) then some c else none
    | none => if 8 ≤ c.code && (ceMayStart s g str).isSome then some c else none

/-- The copy of a word at CWA, a write of the core's die origin (10: R295). -/
def cwaWrite (s : State) (g : Nat) (w : CqWord) : State :=
  if w.cwa = 0 then s
  else
    postLater { s with effNo := s.effNo + 1 } {
      id := s.effNo, g := g, agent := ceAgent g (bits w.word.toNat 3 2), cmd := w.cmd, arrive := s.sccOf (s.partOfCore g) + 1
      parts := [], wr := runCells w.cwa (natLe 16 w.word.toNat), orig := origCd (dieOf g), copy := some (bits w.word.toNat 3 2) }

/-- The writes of a command whose completion word enters cq are released at partition scope, with those of the commands
before it in its stream (17: R421). -/
def ceRelease (s : State) (g : Nat) (w : CqWord) : State :=
  let ce := ceAgent g (bits w.word.toNat 3 2)
  if w.cmd = 0 then s else { s with pubs := insert s.pubs (8 * ce + 3) (sset 0 [] ce w.cmd) }

/-- What the entry of a word into cq does: the release of its command's writes, and the copy at its CWA. -/
def wordEnters (s : State) (g : Nat) (w : CqWord) : State := cwaWrite (ceRelease s g w) g w

/-- A word goes to core g's cq, or waits. -/
def enterWord (s : State) (g key : Nat) (w : CqWord) : State :=
  let x := s.core g
  let y := offerWord x key w
  let s := s.setCore g y
  if x.cq.length < y.cq.length then wordEnters s g w else s

/-- The command completes, and its word goes to cq. -/
def ceComplete (s : State) (g : Nat) (c : CCmd) : State :=
  let c := if c.doneAt.isSome then c else { c with s := some (s.sccOf (s.partOfCore g)), status := c.bad, doneAt := some (s.sccOf (s.partOfCore g)) }
  let s := s.setCe g { c with pushed := true }
  let cwa := if cwaPlaced g c.cwa && (ceBad s g true c.cwa 16).isNone then c.cwa else 0
  enterWord s g (4 + c.str) ⟨cqWordOf 0 c.str (c.code % 16) c.utag c.status c.iter c.seq c.count, cwa, c.id⟩

/-- The first of the words that wait for room in cq enters it: the ME's in ascending stream order, then the CE's (09:
R243; 10: R295). -/
def enterWaiting (s : State) (g : Nat) : State :=
  let x := s.core g
  let k := x.cqWait.foldl (fun m e => min m e.1) 8
  match x.cqWait.find? fun e => e.1 = k with
  | none => s
  | some e => wordEnters (s.setCore g { x with cq := x.cq ++ [e.2], cqWait := x.cqWait.erase e }) g e.2

/-- Completed commands whose words have gone leave the engine at the end of the cycle. -/
def ceSweep (x : Core) (t : Nat) : Core :=
  { x with ccmds := (x.ccmds.map fun e => (e.1, e.2.filter fun c => !(c.pushed && (match c.doneAt with
      | some d => decide (d ≤ t)
      | none => false)))).filter fun e => !e.2.isEmpty }

/-- Commands that have not started are discarded, to complete as cancelled at the end of cycle t (18: R445). -/
def cancelCe (x : Core) (t : Nat) (which : List Nat → Bool) : Core :=
  { x with ccmds := x.ccmds.map fun e => (e.1, e.2.map fun c =>
      if c.s.isNone && c.doneAt.isNone && which c.levs then
        { c with status := 1, doneAt := some t, rcdAt := none } else c) }

/-- The commands of both engines that are named, and have not started, are discarded. -/
def cancelAll (x : Core) (t : Nat) (which : List Nat → Bool) : Core := cancelCe (cancelMe x t which) t which

/-- The COLL of stream str of core g has waited for its match for AWAIT_LIMIT cycles of wall time (18: R444). -/
def collLate (s : State) (g str : Nat) : Option CCmd :=
  (sget [] (s.core g).ccmds str).find? fun c => c.code = 7 && c.s.isSome && c.doneAt.isNone && c.ph ≤ 2 && c.late = 0 && c.bad = 0
    && c.start0 + s.fieldOf (offPart (s.partOfCore g) rAwaitLimit) 31 0 ≤ s.wcc

end Sys2Proof.Machine
end

