-- ==== Sys2Proof/Machine/RegRead.lean ====
section
/-! DEFINITION. Reading the memory-mapped registers and the management controller's own space (13: R346;
02: R43): registers whose fields the hardware keeps elsewhere in the state are computed here. -/

namespace Sys2Proof.Machine

/-- HOLD_STAT (02: R43). -/
def holdStat (s : State) (p : Nat) : Nat :=
  let x := s.part p
  let h := x.hold
  let b (v : Bool) (n : Nat) : Nat := if v && h.held then 2 ^ n else 0
  b true 63 + b h.aw 62 + b h.th 61 + b h.lr 60 + x.level % 16 * 2 ^ 56 + x.pos % 16 * 2 ^ 52 + x.total % 2 ^ 52

/-- MULT: the larger of the codes decoded for the two sub-channels; 2 before the first (11: R319). -/
def Dcs.multOf (d : Dcs) : Nat := if d.mult = [] then 2 else max (sget 0 d.mult 0) (sget 0 d.mult 1)

/-- A hold or idle refresh is in progress on the channel. -/
def refreshingNow (s : State) (d : Dcs) : Bool := d.banks.any fun e => match e.2 with
  | .refreshing u true => decide (4 * s.wcc < u)
  | _ => false

/-- DRFSTAT (11: R317). -/
def drfstat (s : State) (h : Nat) : Nat :=
  let d := s.dcsAt h
  natOfBool (refreshingNow s d) * 2 ^ 27 + d.multOf % 8 * 2 ^ 24 + sget 0 d.rp 1 % 16 * 2 ^ 20 + sget 0 d.rp 0 % 16 * 2 ^ 16
    + wrap 8 (sget 0 d.owed 1) * 2 ^ 8 + wrap 8 (sget 0 d.owed 0)

/-- What an 8-byte register reads as (00: R7: a WO field reads zero). -/
def regValue (s : State) (off : Nat) : Nat :=
  if 0x10000 ≤ off ∧ off < 0x14000 ∧ off % 0x1000 = rHoldStat then holdStat s ((off - 0x10000) / 0x1000)
  else if off = offTbnow then s.tb / 2 ^ 28 % 2 ^ 64
  else if 0x60200 ≤ off ∧ off < 0x60400 then natOfBool (s.lbp ((off - 0x60200) / 8)).seqr.run * 2
  else if off = offTbstep then 0
  else if off = offStatus then
    let v := setBits (s.reg off) 7 4 (s.fieldOf offCfglock 3 0)
    if s.bootAt.isSome then setBits v 15 8 (s.bootPh.filter (· ≤ s.wcc)).length else v
  else if 0x40000 ≤ off ∧ off < 0x40300 then setBits (s.reg off) 1 1 (natOfBool (s.checker ((off - 0x40000) / 8)))
  else if offLbpImem ≤ off ∧ off < 0x68000 then leNat ((s.lbp (s.fieldOf offLbpimw 5 0)).imem.read (off - offLbpImem) 8)
  else if 0x80000 ≤ off ∧ off < 0xC0000 ∧ off % 0x4000 = rDrfstat then drfstat s ((off - 0x80000) / 0x4000)
  else if 0x80000 ≤ off ∧ off < 0xC0000 ∧ off % 0x4000 = rDcsstat then
    let h := (off - 0x80000) / 0x4000
    setBits (s.reg off) 8 8 (natOfBool ((s.dcsAt h).seqr.run && decide ((s.dcsAt h).tsb ≤ s.now (.dcs h))))
  else s.reg off

/-- n bytes of BAR0 space. -/
def regBytesAt (s : State) (off : Nat) : Nat → Bytes
  | 0 => []
  | n + 1 => BitVec.ofNat 8 (regValue s (off / 8 * 8) / 2 ^ (8 * (off % 8))) :: regBytesAt s (off + 1) n

/-- A read of w bytes by the management controller (13: R346). -/
def mgmtRead (s : State) (a w : Nat) : Bytes :=
  if a + w ≤ 0x400000 then s.mgmtMem.read a w else regBytesAt s (a - 0x400000) w

end Sys2Proof.Machine
end

