-- ==== Sys2Proof/Machine/Dram.lean ====
section
/-! DEFINITION. The DRAM command sequencers (11: R296 to R322; 18: R446; 19: R448 to R453): the commands, the timing
checker, refreshes, polls of mode register 4, and the migration of rows. -/

namespace Sys2Proof.Machine

/-! ### The profile's values (R311) -/

def dtim (s : State) (h i hi lo : Nat) : Nat := s.fieldOf (offDcs h (rDtim i)) hi lo
def tRRD (s : State) (h : Nat) : Nat := dtim s h 0 59 48
def tRC (s : State) (h : Nat) : Nat := dtim s h 0 47 36
def tRAS (s : State) (h : Nat) : Nat := dtim s h 0 35 24
def tRP (s : State) (h : Nat) : Nat := dtim s h 0 23 12
def tRCD (s : State) (h : Nat) : Nat := dtim s h 0 11 0
def tRTP (s : State) (h : Nat) : Nat := dtim s h 1 59 48
def tWTR (s : State) (h : Nat) : Nat := dtim s h 1 47 36
def tWR (s : State) (h : Nat) : Nat := dtim s h 1 35 24
def tCCD (s : State) (h : Nat) : Nat := dtim s h 1 23 12
def tFAW (s : State) (h : Nat) : Nat := dtim s h 1 11 0
def tZQLAT (s : State) (h : Nat) : Nat := dtim s h 2 59 48
def tMRR (s : State) (h : Nat) : Nat := dtim s h 2 47 36
def tMRW (s : State) (h : Nat) : Nat := dtim s h 2 35 24
def tRFC (s : State) (h : Nat) : Nat := dtim s h 2 23 12
def tREFI (s : State) (h : Nat) : Nat := dtim s h 2 11 0
def rdlat (s : State) (h : Nat) : Nat := dtim s h 3 39 32
def burstBeats (s : State) (h : Nat) : Nat := dtim s h 3 31 24
def slackBeats (s : State) (h : Nat) : Nat := dtim s h 3 23 16
def tZQCAL (s : State) (h : Nat) : Nat := dtim s h 3 15 0

/-- The cycles that a period keeps free of pin commands (R315). -/
def tHRG (s : State) (h : Nat) : Nat := ceilDiv (tRFC s h) 4 - 32

/-! ### Banks (R298) -/

/-- The bank's state, in schedule quarter-slot qs and wall quarter-slot qw. -/
def Dcs.bank (d : Dcs) (x n qs qw : Nat) : BankSt :=
  match sget .idle d.banks (16 * x + n) with
  | .precharging u w => if u ≤ (if w then qw else qs) then .idle else .precharging u w
  | .refreshing u w => if u ≤ (if w then qw else qs) then .idle else .refreshing u w
  | b => b

def Dcs.isIdle (d : Dcs) (x n qs qw : Nat) : Bool := decide (d.bank x n qs qw = .idle)

def BankSt.isActive (b : BankSt) : Bool :=
  match b with
  | .active _ => true
  | _ => false

def Dcs.setBank (d : Dcs) (x n : Nat) (b : BankSt) : Dcs := { d with banks := sset .idle d.banks (16 * x + n) b }

/-- The ACTIVE banks of a sub-channel. -/
def Dcs.open_ (d : Dcs) (x : Nat) : List Nat := (List.range 16).filter fun n => (sget .idle d.banks (16 * x + n)).isActive

/-- The row that a bank holds open. -/
def Dcs.openRow (d : Dcs) (x n : Nat) : Nat :=
  match sget .idle d.banks (16 * x + n) with
  | .active r => r
  | _ => 0

/-- A burst, by sub-channel, bank, row and column. -/
def burstOf (x n row col : Nat) : Nat := ((16 * x + n) * 131072 + row) * 64 + col

/-! ### The timing checker (R313, R314; 19: R448) -/

/-- DACT or DREF, which counts as an activate (R307). -/
def PinCmd.isAct (p : PinCmd) : Bool := p.kind = 0 || p.kind = 5
def PinCmd.isCol (p : PinCmd) : Bool := p.kind = 1 || p.kind = 2

/-- The distance of two commands: in schedule time between stream commands, else in wall time (R301). -/
def pinDist (p c : PinCmd) : Nat := if p.own || c.own then c.qw - p.qw else c.qs - p.qs

/-- The tests of R448 that command c fails, by their PARAM codes in rising order. That no command falls in a period's first
tHRG cycles is the loader's to see to: R448 tests R313, R314 and the bank states. Its kind is a function code of
R162, with 9 for DZQ op 1. -/
def violations (s : State) (h : Nat) (d : Dcs) (c : PinCmd) : List Nat :=
  let some_ (f : PinCmd → Bool) (gap : Nat) : Bool := d.hist.any fun p => p.sub = c.sub && f p && pinDist p c < gap
  let bank (p : PinCmd) : Bool := p.bank = c.bank
  let pre : Bool := c.kind = 3 || c.kind = 4
  let hit (p : PinCmd) : Bool := if c.kind = 4 then (d.open_ c.sub).contains p.bank else bank p
  let acts := (d.hist.filter fun p => p.sub = c.sub && p.isAct).reverse
  let named : Bool := c.isAct || c.isCol || c.kind = 3
  let idle (n : Nat) : Bool := d.isIdle c.sub n c.qs c.qw
  let tests : List (Nat × Bool) := [
    (0x01, c.kind = 0 && some_ (fun p => p.kind = 0 && bank p) (tRC s h)),
    (0x02, c.isAct && some_ (fun p => p.isAct && !bank p) (tRRD s h)),
    (0x03, c.isAct && (match acts.drop 3 with
      | p :: _ => decide (pinDist p c ≤ tFAW s h)
      | [] => false)),
    (0x04, c.isCol && some_ (fun p => p.kind = 0 && bank p) (tRCD s h)),
    (0x05, pre && some_ (fun p => p.kind = 0 && hit p) (tRAS s h)),
    (0x06, pre && some_ (fun p => p.kind = 1 && hit p) (tRTP s h)),
    (0x07, pre && some_ (fun p => p.kind = 2 && hit p) (tWR s h)),
    (0x08, c.isAct && some_ (fun p => p.kind = 3 && bank p) (tRP s h)),
    (0x09, named && some_ (fun p => p.kind = 5 && bank p) (tRFC s h)),
    (0x0A, c.kind = 1 && some_ (fun p => p.kind = 2) (tWTR s h)),
    (0x0B, c.isCol && some_ (fun p => p.isCol && p.bank / 4 = c.bank / 4) (tCCD s h)),
    (0x0C, some_ (fun p => p.kind = 6) (tMRW s h)),
    (0x0D, (c.kind = 6 || c.kind = 7) && some_ (fun p => p.kind = 7) (tMRR s h)),
    (0x0E, c.kind = 9 && some_ (fun p => p.kind = 8) (tZQCAL s h)),
    (0x0F, c.isAct && some_ (fun p => p.kind = 9) (tZQLAT s h)),
    (0x10, d.hist.any fun p => pinDist p c < 1),
    (0x11, c.isCol && 9 * c.qs + slackBeats s h < sget 0 d.cad c.sub),
    (0x12, (c.isCol && !(d.bank c.sub c.bank c.qs c.qw).isActive) || (c.isAct && !idle c.bank)
      || ((c.kind = 6 || c.kind = 8 || c.kind = 9) && !(List.range 16).all idle))]
  (tests.filter fun t => t.2).map (·.1)

/-- The command joins the history; one that no test can look back to leaves it. -/
def Dcs.note (d : Dcs) (c : PinCmd) : Dcs :=
  { d with hist := (d.hist.filter fun p => decide (c.qw - p.qw < 70000) || (!p.own && decide (c.qs - p.qs < 70000))) ++ [c] }

/-- What a pin command does to the banks and to the history; row is a DACT's physical row. A DPREA counts as a DPRE
of each bank that it closes. -/
def Dcs.pin (s : State) (h : Nat) (d : Dcs) (c : PinCmd) (row : Nat) : Dcs :=
  let at_ := if c.own then c.qw else c.qs
  match c.kind with
  | 0 => (d.note c).setBank c.sub c.bank (.active row)
  | 1 | 2 =>
    let d := d.note c
    { d with cad := sset 0 d.cad c.sub (max (sget 0 d.cad c.sub) (9 * c.qs) + burstBeats s h) }
  | 3 =>
    let d := d.note c
    if (sget .idle d.banks (16 * c.sub + c.bank)).isActive then
      d.setBank c.sub c.bank (.precharging (at_ + tRP s h) c.own) else d
  | 4 => (d.open_ c.sub).foldl (fun e n =>
      (e.note { c with kind := 3, bank := n }).setBank c.sub n (.precharging (at_ + tRP s h) c.own)) (d.note c)
  | 5 => (d.note c).setBank c.sub c.bank (.refreshing (at_ + tRFC s h) c.own)
  | _ => d.note c

/-- A refresh of bank n of sub-channel x moves the pointer and pays the debt (R307, R316). -/
def Dcs.refreshed (d : Dcs) (x n : Nat) : Dcs :=
  { d with
    rp := sset 0 d.rp x ((n + 1) % 16)
    owed := sset 0 d.owed x (max (-8) (sget 0 d.owed x - 1)) }

/-! ### Commands of a stream (R303 to R310; 18: R446) -/

/-- The body of a pin command of the DCS that issues: the timing checker's tests, then the command. -/
def pinBody (kind : Nat) (qs x n : Nat) (i : Instr) (row : State → Nat → Nat) (check : State → Nat → Option Body)
    (f : State → Nat → State) (s : State) : Body :=
  match s.actor with
  | .dcs h =>
    (match check s h with
     | some b => b
     | none =>
       let d := s.dcsAt h
       let c : PinCmd := ⟨kind, x, n, 4 * s.now s.actor + qs, 4 * s.wcc + qs, false⟩
       (match violations s h d c with
        | p :: _ => .trap .dramTiming p (word0Val i)
        | [] => .done (f (s.setDcs h (Dcs.pin s h d c (row s h))) h) .seq))
  | _ => .wait s

def subOf (sc : Bool) : Nat := natOfBool sc

/-- Entry j of the remap table of a bank, as its register holds it (R322). -/
def remapAt (s : State) (h x n j : Nat) : Nat := s.reg32 (offDcs h (rRemap x n j))

/-- The physical row of a logical row: by the lowest switched entry that names it. -/
def physRow (s : State) (h x n row : Nat) : Nat :=
  match (List.range 16).find? fun j =>
      let e := remapAt s h x n j
      bits e 17 17 = 1 && bits e 19 18 = 0 && bits e 16 0 = row with
  | some j => 131056 + j
  | none => row

/-- DACT (R304). -/
def execDact (h : Hdr) (q : DQ) (row : B18) (s : State) : Host.Outcome State Fault Refusal :=
  let i : Instr := .dact h q row
  issue h i (pinBody 0 q.qs.toNat (subOf q.sc) q.bank.toNat i
    (fun s ch => physRow s ch (subOf q.sc) q.bank.toNat row.toNat) (fun _ _ => none) (fun s _ => s)) s

/-- A column command's tile-store sector lies in a slice of the partition (18: R446, check 14). -/
def sliceCheck (addr : Nat) (s : State) (h : Nat) : Option Body :=
  if ownsTile s (s.partOf (.dcs h)) addr then none else some (.trap .bounds 1 (BitVec.ofNat 64 addr))

/-- The burst that a column command names in the row its bank holds open. -/
def openBurst (s : State) (h : Nat) (q : DQ) (col : B6) : Nat :=
  let d := s.dcsAt h
  burstOf (subOf q.sc) q.bank.toNat (d.openRow (subOf q.sc) q.bank.toNat) col.toNat

def addCol (s : State) (h : Nat) (o : ColOp) : State := s.setDcs h { s.dcsAt h with lands := (s.dcsAt h).lands ++ [o] }

/-- DRD into the tile store (R306). -/
def execDrd (h : Hdr) (q : DQ) (col : B6) (addr : B23) (s : State) : Host.Outcome State Fault Refusal :=
  let i : Instr := .drd h q col addr
  let a := 32 * addr.toNat
  issue h i (pinBody 1 q.qs.toNat (subOf q.sc) q.bank.toNat i (fun _ _ => 0) (sliceCheck a) fun s ch =>
    let c := s.now (.dcs ch)
    addCol s ch { c := c, wr := false, burst := openBurst s ch q col, wb := none, addr := a, due := c + rdlat s ch }) s

/-- DRD into a weight buffer (R306). -/
def execDrdWb (h : Hdr) (q : DQ) (col core : B6) (off : B14) (s : State) : Host.Outcome State Fault Refusal :=
  let i : Instr := .drdWb h q col core off
  let a := 32 * off.toNat
  let check (s : State) (ch : Nat) : Option Body :=
    if s.partOfCore (48 * (ch / 8) + core.toNat) = s.partOf (.dcs ch) then none else some (.trap .bounds 1 (BitVec.ofNat 64 a))
  issue h i (pinBody 1 q.qs.toNat (subOf q.sc) q.bank.toNat i (fun _ _ => 0) check fun s ch =>
    let c := s.now (.dcs ch)
    addCol s ch {
      c := c, wr := false, burst := openBurst s ch q col, wb := some (48 * (ch / 8) + core.toNat), addr := a, due := c + rdlat s ch }) s

/-- The remap entries of a bank that are being copied from the row it holds open (17: R425). -/
def copyingOf (s : State) (h x n row : Nat) : List Nat :=
  (List.range 16).filter fun j =>
    let e := remapAt s h x n j
    bits e 17 17 = 1 && bits e 19 18 = 1 && bits e 16 0 = row

/-- The column's bit is set in the dirty map of each such entry. -/
def setDirty (s : State) (h : Nat) (q : DQ) (col : B6) : State :=
  let x := subOf q.sc
  let n := q.bank.toNat
  (copyingOf s h x n ((s.dcsAt h).openRow x n)).foldl (fun s j => s.setField (offDcs h (rDirty x n j)) col.toNat col.toNat 1) s

/-- DWR (R306). -/
def execDwr (h : Hdr) (q : DQ) (col : B6) (wb : Bool) (addr : B23) (s : State) : Host.Outcome State Fault Refusal :=
  let i : Instr := .dwr h q col wb addr
  let a := 32 * addr.toNat
  issue h i (pinBody 2 q.qs.toNat (subOf q.sc) q.bank.toNat i (fun _ _ => 0) (sliceCheck a) fun s ch =>
    let c := s.now (.dcs ch)
    setDirty (addCol s ch { c := c, wr := true, burst := openBurst s ch q col, wb := none, addr := a, due := c + 1 }) ch q col) s

/-- DPRE (R305). -/
def execDpre (h : Hdr) (q : DQ) (s : State) : Host.Outcome State Fault Refusal :=
  let i : Instr := .dpre h q
  issue h i (pinBody 3 q.qs.toNat (subOf q.sc) q.bank.toNat i (fun _ _ => 0) (fun _ _ => none) (fun s _ => s)) s

/-- DPREA (R305). -/
def execDprea (h : Hdr) (qs : B2) (sc : Bool) (s : State) : Host.Outcome State Fault Refusal :=
  let i : Instr := .dprea h qs sc
  issue h i (pinBody 4 qs.toNat (subOf sc) 0 i (fun _ _ => 0) (fun _ _ => none) (fun s _ => s)) s

/-- DREF (R307). -/
def execDref (h : Hdr) (q : DQ) (s : State) : Host.Outcome State Fault Refusal :=
  let i : Instr := .dref h q
  issue h i (pinBody 5 q.qs.toNat (subOf q.sc) q.bank.toNat i (fun _ _ => 0) (fun _ _ => none) fun s ch =>
    s.setDcs ch ((s.dcsAt ch).refreshed (subOf q.sc) q.bank.toNat)) s

/-- DMRW (R308): of a run-time mode register of the loaded profile. -/
def execDmrw (h : Hdr) (qs : B2) (sc : Bool) (mr val : B8) (s : State) : Host.Outcome State Fault Refusal :=
  let i : Instr := .dmrw h qs sc mr val
  let check (s : State) (_ : Nat) : Option Body :=
    if sget false s.runMrs mr.toNat then none else some (.trap .illegalOperand 0x0509 (word0Val i))
  issue h i (pinBody 6 qs.toNat (subOf sc) 0 i (fun _ _ => 0) check fun s ch =>
    s.setDcs ch { s.dcsAt ch with mrs := insert (s.dcsAt ch).mrs (256 * subOf sc + mr.toNat) val }) s

/-- The value of a mode register: as a stream wrote it, else one that the DRAM gives (log entry 8). -/
def modeValue (s : State) (h x mr : Nat) : Byte × State :=
  let (n, s) := s.takeFresh
  ((look (s.dcsAt h).mrs (256 * x + mr)).getD (Config.modeReg n), s)

/-- DMRR (R308): the value lands in DCSSTAT tMRR after the command. The spec does not say whether a hold that falls between
stops that time: tMRR counts wall quarter-slots (the model's choice, log entry 111). -/
def execDmrr (h : Hdr) (qs : B2) (sc : Bool) (mr : B8) (s : State) : Host.Outcome State Fault Refusal :=
  let i : Instr := .dmrr h qs sc mr
  issue h i (pinBody 7 qs.toNat (subOf sc) 0 i (fun _ _ => 0) (fun _ _ => none) fun s ch =>
    let (v, s) := modeValue s ch (subOf sc) mr.toNat
    s.setDcs ch { s.dcsAt ch with
      mrr := (s.dcsAt ch).mrr ++ [(4 * s.wcc + qs.toNat + tMRR s ch, subOf sc, mr.toNat, v)] }) s

/-- DZQ (R309). -/
def execDzq (h : Hdr) (qs : B2) (sc : Bool) (op : B2) (s : State) : Host.Outcome State Fault Refusal :=
  let i : Instr := .dzq h qs sc op
  issue h i (pinBody (if op = 0 then 8 else 9) qs.toNat (subOf sc) 0 i (fun _ _ => 0) (fun _ _ => none) (fun s _ => s)) s

/-- DIDLE (R310). -/
def execDidle (h : Hdr) (n : B18) (s : State) : Host.Outcome State Fault Refusal :=
  issue h (.didle h n) (fun s => .done s (.idle n.toNat)) s

/-- DSYNC (R310). -/
def execDsync (h : Hdr) (n : B8) (s : State) : Host.Outcome State Fault Refusal :=
  issue h (.dsync h n) (fun s =>
    match s.actor with
    | .dcs ch => .done (s.setField (offDcs ch rDcsstat) 7 0 n.toNat) .seq
    | _ => .wait s) s

/-! ### The work of a cycle (R302, R306, R308) -/

/-- A DRD's burst is fixed, or a DWR's burst takes the bytes of its source, one cycle after the command. -/
def colStep (s : State) (h : Nat) (o : ColOp) : State × ColOp :=
  let d := s.dcsAt h
  let t := s.now (.dcs h)
  let die := h / 8
  if o.wr then
    if o.due = t then
      let bs := s.readView die o.addr 32
      let bad := eccBad s o.addr 32
      (s.setDcs h { d with
        mem := d.mem.write (32 * o.burst) bs, bad := sset false d.bad o.burst bad, weak := sset false d.weak o.burst false }, o)
    else (s, o)
  else if o.data.isNone && (o.c < t || o.due = t) then
    (s, { o with data := some (d.mem.read (32 * o.burst) 32), bad := sget false d.bad o.burst, weak := sget false d.weak o.burst })
  else (s, o)

/-- The reads of the cycle of channel h: sources of DWRs, and bursts. -/
def dcsReads (s : State) (h : Nat) : State :=
  let d := s.dcsAt h
  let r := d.lands.foldl (fun (p : State × List ColOp) o =>
    let (s, o) := colStep p.1 h o
    (s, p.2 ++ [o])) (s, [])
  let s := r.1
  s.setDcs h { s.dcsAt h with lands := r.2 }

/-- The count and the record of a burst that is uncorrectable, or corrected (19: R451). -/
def burstRecord (s : State) (h : Nat) (o : ColOp) : State :=
  let off := offDcs h rDcsflt
  let lo := if o.bad then 32 else 16
  let s := s.setField off (lo + 15) lo (min 65535 (s.fieldOf off (lo + 15) lo + 1))
  let row := o.burst / 64 % 131072
  let g := (s.dcsAt h).task.bind fun t => (s.task t).members.head?
  record s {
    det := 4, sev := natOfBool o.bad, part := s.partOf (.dcs h), ukind := 2, unit := h, detail := o.burst / (64 * 131072), addr := o.addr
    tid := (g.map s.tidOf).getD 0, val := row + o.burst % 64 * 2 ^ 32 }

/-- A DRD's data lands (R306; 19: R451). -/
def landCol (s : State) (h : Nat) (o : ColOp) : State :=
  let bs := o.data.getD []
  let s := match o.wb with
    | none => timedWrite s (runCells o.addr bs)
    | some g => wbWrite s g o.addr bs
  if o.bad then
    let s := burstRecord s h o
    match o.wb with
    | none => { s with tsEcc := (List.range 4).foldl (fun m i => insert m (o.addr / 8 + i) 2) s.tsEcc }
    | some g => { s with wEcc := insert s.wEcc (8192 * g + o.addr / 64) true }
  else if o.weak then burstRecord s h o
  else s

/-- The writes of the cycle of channel h. -/
def dcsWrites (s : State) (h : Nat) : State :=
  let t := s.now (.dcs h)
  let due := (s.dcsAt h).lands.filter fun o => o.due ≤ t
  let s := (due.filter fun o => !o.wr).foldl (fun s o => landCol s h o) s
  s.setDcs h { s.dcsAt h with lands := (s.dcsAt h).lands.filter fun o => t < o.due }

/-- MULT takes the refresh-rate field of a value of mode register 4 that is read in wall quarter-slot q, through RRMAP
(R319). -/
def takeMr4 (s : State) (h x q : Nat) (v : Byte) : State :=
  let m := s.reg (offDcs h rRrmap)
  let f := v.toNat / 2 ^ bits m 34 32 % 8
  let d := s.dcsAt h
  let e := { d with mult := insert d.mult x (bits m (3 * f + 2) (3 * f)) }
  s.setDcs h (if e.multOf = d.multOf && d.mult ≠ [] then e else { e with multAt := q })

/-- A mode register's value lands in DCSSTAT (R308, R321). -/
def landMrr (s : State) (h : Nat) (r : Nat × Nat × Nat × Byte) : State :=
  let x := r.2.1
  let off := offDcs h rDcsstat
  let s := s.setField off (55 + 8 * x) (48 + 8 * x) r.2.2.1
  let s := s.setField off (39 + 8 * x) (32 + 8 * x) r.2.2.2.toNat
  if r.2.2.1 = 4 then takeMr4 s h x r.1 r.2.2.2 else s

/-- The mode-register values that land in this wall cycle. -/
def dcsMrr (s : State) (h : Nat) : State :=
  let due := (s.dcsAt h).mrr.filter fun r => r.1 < 4 * (s.wcc + 1)
  let s := due.foldl (fun s r => landMrr s h r) s
  s.setDcs h { s.dcsAt h with mrr := (s.dcsAt h).mrr.filter fun r => 4 * (s.wcc + 1) ≤ r.1 }

/-- A command of the DCS's own in the first quarter-slot of this wall cycle that every test admits. -/
def ownCmd (s : State) (h kind x n : Nat) : Option PinCmd :=
  (List.range 4).findSome? fun q =>
    let c : PinCmd := ⟨kind, x, n, 4 * s.now (.dcs h) + q, 4 * s.wcc + q, true⟩
    if (violations s h (s.dcsAt h) c).isEmpty then some c else none

/-- The DPREAs of a stream that has been stopped (16: R395 step 5; 19: R448): on both sub-channels, each at the first
quarter-slot that R313 admits. -/
def closeBanks (s : State) (h : Nat) : State :=
  (s.dcsAt h).closing.foldl (fun s x =>
    match ownCmd s h 4 x 0 with
    | some c =>
      let d := Dcs.pin s h (s.dcsAt h) c 0
      s.setDcs h { d with closing := d.closing.erase x }
    | none => s) s

/-- A command of the stream keeps a bank from idle; a refresh or a precharge of the DCS's own does not count (R320). -/
def BankSt.inStream (b : BankSt) : Bool :=
  match b with
  | .idle => false
  | .active _ => true
  | .precharging _ own | .refreshing _ own => !own

/-- A stream leaves a bank from idle at a period boundary that it spans, whether it runs on or has halted (R315): the channel
is quarantined (19: R448). -/
def periodCheck (s : State) (p : Nat) : State :=
  s.dcs.foldl (fun s e =>
    let d := s.dcsAt e.1
    let q := 4 * s.now (.dcs e.1)
    let busy : Bool := [0, 1].any fun x => (List.range 16).any fun n => (d.bank x n q (4 * s.wcc)).inStream
    if s.chOwner e.1 = some p && d.task.isSome && d.closing = [] && s.fieldOf (offDcs e.1 rDcsflt) 8 8 = 0 && busy then
      stopUnit s (.dcs e.1) .dramTiming 0x13 0 d.seqr.pc
    else s) s

/-! ### Refresh (R316 to R320; 19: R450) -/

/-- The wall quarter-slot in which OWED of a sub-channel next increases, and E starts again: where E has come to the
interval, and after a change of MULT that makes the interval shorter than E in the quarter-slot after it; none until the
profile is loaded. -/
def refreshAt (s : State) (h x : Nat) : Option Nat :=
  let d := s.dcsAt h
  if tREFI s h = 0 then none else some (max (sget 0 d.e x + ceilDiv (tREFI s h * 4) (2 ^ d.multOf)) (d.multAt + 1))

def refreshDue (s : State) (h x : Nat) : Bool :=
  match refreshAt s h x with
  | some q => decide (h < 16) && decide (x < 2) && decide (q < 4 * (s.wcc + 1))
  | none => false

/-- OWED reaches 7, of which a record alone is written, or 16 (19: R450). -/
def debtFault (s : State) (h : Nat) (owed : Int) : State :=
  if owed = 7 then record s {
    det := 9, sev := 2, part := s.partOf (.dcs h), ukind := 2, unit := h, detail := 0x20 }
  else if owed = 16 then stopUnit s (.dcs h) .dramTiming 0x21 0 (s.dcsAt h).seqr.pc
  else s

/-- REFRESH_DUE (R316). -/
def execRefreshDue (s : State) : Host.Outcome State Fault Refusal :=
  let h := s.unit
  let x := s.sub
  if refreshDue s h x then
    let d := s.dcsAt h
    let owed := sget 0 d.owed x + 1
    let at_ := (refreshAt s h x).getD 0
    .next (debtFault (s.setDcs h { d with e := sset 0 d.e x at_, owed := sset 0 d.owed x owed }) h owed)
  else .fault (.notDue "REFRESH_DUE")

/-- The DCS runs a stream. -/
def streaming (s : State) (h : Nat) : Bool :=
  let d := s.dcsAt h
  d.seqr.run && d.tsb ≤ s.now (.dcs h)

/-- The DCS's partition is held in a hold that began at a boundary. -/
def boundaryHold (s : State) (h : Nat) : Bool :=
  let x := (s.part (s.partOf (.dcs h))).hold
  x.held && !x.off

/-- The wall quarter-slot by which a refresh of the DCS's own that starts in this cycle must end; none without a
limit. -/
def ownLimit (s : State) (h : Nat) : Option Nat :=
  let x := (s.part (s.partOf (.dcs h))).hold
  let now := s.now (.dcs h)
  let d := s.dcsAt h
  if boundaryHold s h then
    let aw := match x.decided with
      | some w => w + 32
      | none => if x.awaitOpen then s.wcc + 33 else 0
    some (4 * (max (max aw (x.slotEnd.getD 0)) (s.wcc + 1) + tHRG s h))
  else if d.seqr.run then some (4 * (s.wcc + (d.tsb - now) + tHRG s h))
  else match s.chOwner h with
    | some _ => some (4 * (s.wcc + (ceilDiv (now + 32) 256 * 256 - now) + tHRG s h))
    | none => none

def inLimit (s : State) (h q : Nat) : Bool :=
  match ownLimit s h with
  | some l => decide (q ≤ l)
  | none => true

/-- The refresh of bank RP of sub-channel x that the DCS issues of its own in this cycle. -/
def ownRefresh (s : State) (h x : Nat) : Option PinCmd :=
  let d := s.dcsAt h
  if h < 16 && x < 2 && 0 < sget 0 d.owed x && d.busyTo ≤ 4 * s.wcc then
    match ownCmd s h 5 x (sget 0 d.rp x) with
    | some c => if inLimit s h (c.qw + tRFC s h) then some c else none
    | none => none
  else none

def doRefresh (s : State) (h : Nat) (c : PinCmd) : State :=
  s.setDcs h ((Dcs.pin s h (s.dcsAt h) c 0).refreshed c.sub c.bank)

def holdRefreshDue (s : State) (h x : Nat) : Option PinCmd := if boundaryHold s h then ownRefresh s h x else none

/-- HOLD_REFRESH (R318). -/
def execHoldRefresh (s : State) : Host.Outcome State Fault Refusal :=
  match holdRefreshDue s s.unit s.sub with
  | some c => .next (doRefresh s s.unit c)
  | none => .fault (.notDue "HOLD_REFRESH")

/-- None in a hold that began off a boundary (R302, R320). -/
def idleRefreshDue (s : State) (h x : Nat) : Option PinCmd :=
  if !streaming s h && !s.held (s.partOf (.dcs h)) then ownRefresh s h x else none

/-- IDLE_REFRESH (R320). -/
def execIdleRefresh (s : State) : Host.Outcome State Fault Refusal :=
  match idleRefreshDue s s.unit s.sub with
  | some c => .next (doRefresh s s.unit c)
  | none => .fault (.notDue "IDLE_REFRESH")

/-- The DCS reads mode register 4 itself (R319): at the start of a hold at a boundary, and every 25,600 wall cycles
while it runs no stream. -/
def pollDue (s : State) (h : Nat) : Bool :=
  let d := s.dcsAt h
  let x := (s.part (s.partOf (.dcs h))).hold
  h < 16 && tREFI s h ≠ 0 && ((boundaryHold s h && d.polled ≠ x.first + 1) || (!streaming s h && d.poll ≤ s.wcc))

/-- Mode register 4 of both sub-channels is read. -/
def pollMr4 (s : State) (h : Nat) : State :=
  [0, 1].foldl (fun s x =>
    let (v, s) := modeValue s h x 4
    takeMr4 s h x (4 * s.wcc) v) s

/-- MR4_POLL (R319). -/
def execMr4Poll (s : State) : Host.Outcome State Fault Refusal :=
  let h := s.unit
  if pollDue s h then
    let s := pollMr4 s h
    .next (s.setDcs h { s.dcsAt h with
      poll := s.wcc + 25600
      polled := if boundaryHold s h then (s.part (s.partOf (.dcs h))).hold.first + 1 else (s.dcsAt h).polled })
  else .fault (.notDue "MR4_POLL")

/-! ### Row migration (19: R452, R453; 17: R425) -/

/-- The entry whose copy MIGCTL.GO has started, while MIGCTL is busy: sub-channel, bank, entry. -/
def migEntry (s : State) (h : Nat) : Option (Nat × Nat × Nat) :=
  if s.fieldOf (offDcs h rMigctl) 9 9 = 1 then (s.dcsAt h).mig else none

def dirtyOf (s : State) (h x n j : Nat) : Nat := s.reg (offDcs h (rDirty x n j))

/-- The quarter-slots that a pass over m columns takes, from its first DACT to the end of its last precharge. -/
def passLength (s : State) (h m : Nat) : Nat :=
  let step := max (max 1 (tCCD s h)) (ceilDiv (burstBeats s h) 9)
  let lastCol := tRCD s h + (m - 1) * step
  let pre := max (tRAS s h) (lastCol + tRTP s h)
  let act := max (pre + tRP s h) (tRC s h)
  act + max (tRAS s h) (lastCol + tWR s h) + tRP s h

/-- The columns that the dirty map names. -/
def dirtyCols (v : Nat) : List Nat := (List.range 64).filter fun c => v.testBit c

/-- A pass over the dirty columns starts in this cycle: its first DACT. No burst that a DWR has still to write is
pending. -/
def passDue (s : State) (h : Nat) : Option PinCmd :=
  match migEntry s h with
  | none => none
  | some (x, n, j) =>
    let d := s.dcsAt h
    let cols := dirtyCols (dirtyOf s h x n j)
    if h < 16 && (boundaryHold s h || !streaming s h) && sget 0 d.owed 0 ≤ 0 && sget 0 d.owed 1 ≤ 0 && d.busyTo ≤ 4 * s.wcc
        && !cols.isEmpty && d.lands.all (fun o => !o.wr) then
      match ownCmd s h 0 x n with
      | some c => if inLimit s h (c.qw + passLength s h cols.length) then some c else none
      | none => none
    else none

/-- One column is copied from the row to the spare row; an uncorrectable one stays so, and a pass, which is no DRD, counts
and records none (19: R451, R453; the model's choice, log entry 28). -/
def copyCol (d : Dcs) (x n row j col : Nat) : Dcs :=
  let a := burstOf x n row col
  let b := burstOf x n (131056 + j) col
  { d with
    mem := d.mem.write (32 * b) (d.mem.read (32 * a) 32), bad := sset false d.bad b (sget false d.bad a), weak := sset false d.weak b false }

/-- A pass: the dirty columns are copied and their bits cleared, and the channel is busy until it ends. -/
def runPass (s : State) (h : Nat) (c : PinCmd) (x n j : Nat) : State :=
  let cols := dirtyCols (dirtyOf s h x n j)
  let row := bits (remapAt s h x n j) 16 0
  let end_ := c.qw + passLength s h cols.length
  let d := cols.foldl (fun d k => copyCol d x n row j k) (s.dcsAt h)
  let last : PinCmd := { c with kind := 3, qs := c.qs + (end_ - c.qw) - tRP s h, qw := end_ - tRP s h }
  let d := { (d.note last).setBank x n (.precharging end_ true) with busyTo := end_ }
  (s.setDcs h d).setReg (offDcs h (rDirty x n j)) 0

/-- The entry that has been copied is switched in this cycle (17: R425). -/
def switchDue (s : State) (h : Nat) : Option (Nat × Nat × Nat) :=
  match migEntry s h with
  | none => none
  | some (x, n, j) =>
    let d := s.dcsAt h
    let now := s.now (.dcs h)
    if h < 16 && dirtyOf s h x n j = 0 && d.busyTo ≤ 4 * s.wcc && d.isIdle x n (4 * now) (4 * s.wcc)
        && (!streaming s h || now % 256 = 0) then some (x, n, j) else none

/-- The entry is SWITCHED, and MIGCTL is no longer busy (R452). -/
def switchEntry (s : State) (h x n j : Nat) : State :=
  let s := s.setReg32 (offDcs h (rRemap x n j)) (setBits (remapAt s h x n j) 19 18 0)
  let s := s.setField (offDcs h rMigctl) 9 9 0
  record s { det := 4, sev := 0, part := s.partOf (.dcs h), ukind := 2, unit := h, detail := 0xA0 }

/-- MIGRATION_PASS (R453). -/
def execMigrationPass (s : State) : Host.Outcome State Fault Refusal :=
  let h := s.unit
  match switchDue s h, passDue s h, migEntry s h with
  | some (x, n, j), _, _ => .next (switchEntry s h x n j)
  | none, some c, some (x, n, j) => .next (runPass s h c x n j)
  | _, _, _ => .fault (.notDue "MIGRATION_PASS")

end Sys2Proof.Machine
end

