-- ==== Sys2Proof/Machine/Launch.lean ====
section
/-! DEFINITION. Tasks from the event that fires them to their completion (02: R46, R49 to R59; 06: R172, R173; 11:
R299; 13: R353; 17: R405): launch records and loop-nest records, arbitration, the walker's checks, the hand-off of an
iteration, retirement. -/

namespace Sys2Proof.Machine

/-! ### Launch records (02: R53) -/

/-- Launch record i of partition p, as one number. -/
def launchRec (s : State) (p i : Nat) : Nat := leNat (bar0Read s (offTrig p i) 64)

def recSrc (r : Nat) : Nat := bits r 3 0
def recArm (r : Nat) : Bool := bits r 4 4 = 1
def recOneshot (r : Nat) : Bool := bits r 5 5 = 1
def recSrcid (r : Nat) : Nat := bits r 15 8
def recTid (r : Nat) : Nat := bits r 31 16
def recOrd (r : Nat) : Nat := bits r 39 32
def recMissed (r : Nat) : Nat := bits r 47 40
def recLnoff (r : Nat) : Nat := bits r 90 64
def recThresh (r : Nat) : Nat := bits r 191 128
def recTag (r : Nat) : Nat := bits r 223 192

/-! ### Loop-nest records (02: R49) -/

def dieBase (d : Nat) : Nat := if d = 0 then 0 else 0x8000000

/-- The dies that a partition spans. -/
def diesOf (s : State) (p : Nat) : List Nat := [0, 1].filter (spansDie s p)

/-- The loop-nest record at an offset of a die's tile store. -/
def nestAt (s : State) (die off : Nat) : Nat := leNat (s.readView die (dieBase die + off) 128)

def nestNlev (r : Nat) : Nat := bits r 3 0
def nestOrder (r j : Nat) : Nat := bits r (3 * j + 6) (3 * j + 4)
def nestDlev (r : Nat) : Nat := bits r 23 22
def nestDid (r : Nat) : Nat := bits r 30 24
def nestPrio (r : Nat) : Nat := bits r 35 32
def nestSlen (r : Nat) : Nat := bits r 51 36
def nestExt (r x : Nat) : Nat := bits r (32 * x + 95) (32 * x + 64)
def nestTtoff (r : Nat) : Nat := bits r 282 256
def nestKey (r i : Nat) : Nat := bits r (320 + 32 * i + 31) (320 + 32 * i)
def nestArg (r j : Nat) : Nat := bits r (64 * j + 575) (64 * j + 512)

/-- KT: the product of the extents. -/
def nestKt (r : Nat) : Nat := (List.range (nestNlev r)).foldl (fun n x => n * nestExt r x) 1

/-- The level indices of iteration k (R50). -/
def nestIdx (r k : Nat) : List Nat :=
  let n := nestNlev r
  let idx := ((List.range n).reverse.foldl (fun (p : Nat × SMap Nat) j =>
    let x := nestOrder r j
    (p.1 / nestExt r x, sset 0 p.2 x (p.1 % nestExt r x))) (k, [])).2
  (List.range 6).map fun x => sget 0 idx x

/-- A loop-nest record of a task, as it was read at its launch. -/
def Task.nest (k : Task) : Nat := leNat (k.ln.read 0 128)

/-! ### Timetable images (06: R172, R173) -/

/-- n bytes of the image of a record, as a number. -/
def imageNat (s : State) (die r off n : Nat) : Nat := leNat (s.readView die (dieBase die + nestTtoff r + off) n)

/-- Stream x of the image: the offset of its first word, 0 where it is absent, and its length in words. -/
def imageStream (s : State) (die r x : Nat) : Nat × Nat :=
  let e := imageNat s die r (64 + 8 * x) 8
  (bits e 31 0, bits e 55 32)

/-- The segments of stream x. -/
def imageSegs (s : State) (die r x : Nat) : List Seg :=
  let n := imageNat s die r 8 2
  let off := imageNat s die r 12 4
  (List.range n).filterMap fun i =>
    let e := imageNat s die r (off + 8 * i) 8
    if bits e 4 0 = x then some ⟨4 * bits e 31 8, bits e 5 5 = 1, bits e 63 32⟩ else none

/-- The channels that the image holds streams for (11: R299). -/
def imageChans (s : State) (die r : Nat) : List Nat :=
  (List.range 16).filter fun h => (imageStream s die r (4 + h)).1 ≠ 0

/-! ### Firing (02: R54, R55) -/

/-- The task of a record that is neither armed nor done. -/
def activeTask (s : State) (p i : Nat) : Bool := s.tasks.any fun e => e.2.part = p && e.2.trig = some i

/-- A task comes into being, to become pending at cycle `since` (R57). -/
def addTask (s : State) (k : Task) (since : Nat) : State :=
  let (m, s) := s.takeFresh
  let k := { k with since := since, startAt := since + Config.launchDelay m % 35 }
  { s with tasks := insert s.tasks s.taskNo k, taskNo := s.taskNo + 1 }

/-- The cycle in which what an event fires becomes pending, at most `bound` cycles on (R57): one for all that fires with it
(R55). -/
def takeSince (s : State) (bound : Nat := 36) : Nat × State :=
  let (n, s) := s.takeFresh
  (s.wcc + 1 + Config.launchDelay n % bound, s)

/-- Record i of partition p fires: a one-shot record is no longer armed, and the firing is launched or counted as
missed. -/
def fireRecord (s : State) (p i : Nat) (arg0 : Option DWord) (tid : Option Nat) (since : Nat) : State :=
  let s := ctlUse s (ctlTrig p i) p 9 0
  let r := launchRec s p i
  let s := if recOneshot r || recSrc r = 6 then bar0Write s (offTrig p i) [BitVec.ofNat 8 (r % 256 - 16)] else s
  if activeTask s p i then
    bar0Write s (offTrig p i + 5) [BitVec.ofNat 8 (min 255 (recMissed r + 1))]
  else
    addTask s {
      part := p, trig := some i, tid := tid.getD (recTid r), lnoff := recLnoff r, arg0 := arg0
      lrec := cells 0 0 (natLe 64 r) } since

/-- Every armed record of partition p that an event names fires, in ascending index order. -/
def fireWhere (s : State) (p : Nat) (on : Nat → Bool) (arg0 : Option DWord := none) : State :=
  let (since, s) := takeSince s
  (List.range 256).foldl (fun s i =>
    let r := launchRec s p i
    if recArm r && on r then fireRecord s p i arg0 none since else s) s

/-- A frame or sweep starts on a port (SRC 1). -/
def fireFrame (s : State) (port : Nat) : State :=
  match s.portOwner port with
  | some p => fireWhere s p fun r => recSrc r = 1 && recSrcid r = port
  | none => s

/-- A row ring's row counter passes from `old` to `new` (SRC 2). -/
def fireRow (s : State) (p ring old new : Nat) : State :=
  fireWhere s p fun r => recSrc r = 2 && recSrcid r = ring && old < recThresh r && recThresh r ≤ new

/-- A fusion set's window counter advances (SRC 3). -/
def fireWindow (s : State) (p set : Nat) : State := fireWhere s p fun r => recSrc r = 3 && recSrcid r = set

/-- A message with a tag arrives: from the host (SRC 4) or the peer (SRC 5). -/
def fireMessage (s : State) (p src tag : Nat) (addr : DWord) : State :=
  fireWhere s p (fun r => recSrc r = src && recTag r = tag) (some addr)

/-- The task of trigger `ix` with identifier tp completes (SRC 7). -/
def fireSpawn (s : State) (p ix tp : Nat) : State :=
  let (since, s) := takeSince s
  (List.range 256).foldl (fun s i =>
    let r := launchRec s p i
    if recArm r && recSrc r = 7 && recSrcid r = ix then
      fireRecord s p i none (some ((tp * 0x0101 + recOrd r + 1) % 65536)) since else s) s

/-! ### Arbitration (02: R55; 11: R299) -/

/-- The ranked members of the domain that a record names. -/
def domainOf (s : State) (r : Nat) : List Nat := (s.domainCores (nestDlev r) (nestDid r)).filter fun g => !s.checker g

/-- The die whose copy a domain's member of rank 0 reads. -/
def leadDie (s : State) (r : Nat) : Nat := dieOf ((domainOf s r).headD 0)

/-- The dies that the domain of a record spans. -/
def domainDies (s : State) (r : Nat) : List Nat := [0, 1].filter fun d => (domainOf s r).any fun g => dieOf g = d

/-- A tile-store offset lies in a slice that partition p owns on each of the dies. -/
def ownedOff (s : State) (p : Nat) (dies : List Nat) (off : Nat) : Bool :=
  dies.all fun d => off < 0x8000000 && ownsSlice s p (dieBase d + off)

/-- R405: the DETAIL of the first check that a launch fails. -/
def launchBad (s : State) (k : Task) (r : Nat) : Option Nat :=
  let l := leNat (k.lrec.read 0 64)
  let n := nestNlev r
  let order := (List.range n).map (nestOrder r)
  let cores := s.domainCores (nestDlev r) (nestDid r)
  let die := leadDie s r
  if bits l 7 6 ≠ 0 || bits l 63 48 ≠ 0 || bits l 127 91 ≠ 0 || bits l 511 224 ≠ 0
      || bits r 31 31 ≠ 0 || bits r 63 52 ≠ 0 || bits r 319 283 ≠ 0 || bits r 511 448 ≠ 0 then some 0x0101
  else if 6 < n || !((List.range n).all fun x => order.contains x) then some 0x0102
  else if 2 ^ 24 < nestKt r then some 0x0103
  else if (domainOf s r).isEmpty || !(cores.all fun g => s.partOfCore g = k.part) then some 0x0104
  else if k.lnoff % 64 ≠ 0 || nestTtoff r % 64 ≠ 0 || !ownedOff s k.part (domainDies s r) k.lnoff
      || !ownedOff s k.part (domainDies s r) (nestTtoff r) then
    some 0x0105
  else if imageNat s die r 0 4 ≠ 0x4C4E4D39 || imageNat s die r 4 1 ≠ 1 || imageNat s die r 6 2 ≠ nestSlen r then some 0x0106
  else none

/-- The record that task k launches by, as it stands in tile store. A copy stands on every die that the task's domain
spans (R49): the first die counts whose copy passes the walker's checks and names a domain that the die leads; or, where
none does, the first whose copy names one. -/
def nestFound (s : State) (k : Task) : Nat :=
  let at_ (d : Nat) : Nat := nestAt s d k.lnoff
  let leads (d : Nat) : Bool := (domainDies s (at_ d)).head? = some d
  let ds := diesOf s k.part
  match ds.find? fun d => leads d && (launchBad s k (at_ d)).isNone with
  | some d => at_ d
  | none => at_ ((ds.find? leads).getD (ds.headD 0))

/-- The record that a task launches by: as read at its launch, or as it stands in tile store now. -/
def nestOf (s : State) (k : Task) : Nat :=
  match k.st with
  | .pending | .armed => nestFound s k
  | _ => k.nest

/-- The tasks of partition p that compete for their domains: pending launches and pre-empted tasks. -/
def competing (s : State) (p : Nat) : List (Nat × Task) :=
  s.tasks.filter fun e => e.2.part = p && (match e.2.st with
    | .pending => decide (e.2.since ≤ s.wcc)
    | .preempted => true
    | _ => false)

/-- Order among those of one domain: by priority, by age, triggers before queues, by index or slot. -/
def rankKey (s : State) (k : Task) : Nat × Nat × Nat × Nat :=
  (15 - nestPrio (nestOf s k), k.since, natOfBool k.queue.isSome, k.trig.getD k.slot)

def keyLt (x y : Nat × Nat × Nat × Nat) : Bool :=
  x.1 < y.1 || (x.1 = y.1 && (x.2.1 < y.2.1 || (x.2.1 = y.2.1 && (x.2.2.1 < y.2.2.1 || (x.2.2.1 = y.2.2.1 && x.2.2.2 < y.2.2.2)))))

/-- Two records' domains share a core, or their images a channel. -/
def sharesDomain (s : State) (r q : Nat) : Bool :=
  let c := s.domainCores (nestDlev q) (nestDid q)
  (s.domainCores (nestDlev r) (nestDid r)).any c.contains ||
    (imageChans s (leadDie s r) r).any (imageChans s (leadDie s q) q).contains

/-- The domain and the channels of a record are free, as far as partition p owns them. -/
def domainFree (s : State) (p r : Nat) : Bool :=
  ((s.domainCores (nestDlev r) (nestDid r)).all fun g => s.partOfCore g ≠ p || (s.core g).task.isNone) &&
    (imageChans s (leadDie s r) r).all fun h => s.chOwner h ≠ some p || (s.dcsAt h).task.isNone

/-- MGMT_STATUS.READY. -/
def ready (s : State) : Bool := s.fieldOf offStatus 0 0 = 1

/-- Task t starts in this cycle: its domain is free, and it wins. Its records are checked then (17: R405). -/
def mayLaunch (s : State) (p t : Nat) : Bool :=
  let k := s.task t
  let r := nestOf s k
  ready s && !s.held p && (s.part p).resetting.isNone && decide (k.startAt ≤ s.wcc) && domainFree s p r &&
    (competing s p).all fun e => e.1 = t || !keyLt (rankKey s e.2) (rankKey s k) || !sharesDomain s r (nestOf s e.2)

/-- The launch of partition p that starts in this cycle. -/
def launchNext (s : State) (p : Nat) : Option Nat := ((competing s p).find? fun e => mayLaunch s p e.1).map (·.1)

/-- A higher launch is pending for a domain that shares a core with task t's (02: R61). -/
def higherPending (s : State) (t : Nat) : Bool :=
  let k := s.task t
  (competing s k.part).any fun e =>
    let q := nestOf s e.2
    let c := s.domainCores (nestDlev q) (nestDid q)
    e.1 ≠ t && k.prio < nestPrio q && k.members.any c.contains

/-! ### The hand-off (02: R51) -/

/-- The first period boundary at least 32 sc after cycle c. -/
def firstBoundary (c : Nat) : Nat := ceilDiv (c + 32) 256 * 256

/-- A sequencer as a hand-off leaves it. -/
def handSeqr (q : Seqr) (base len : Nat) (segs : List Seg) (run : Bool) (nextAt : Nat) : Seqr :=
  { q with
    run := run, pc := 0, regs := [], tokP := [], tokN := [], base := base, len := len, segs := segs, nextAt := nextAt
    blocked := false, qual := none, park := none, spin := none, loads := [], after := [], seen := [], fences := []
    cand := none, wait0 := none, missed := none }

/-- The first cycle in which a stream issues: its stamp where it begins timed, else within the bounds of R57. -/
def firstIssue (segs : List Seg) (tsb now delay : Nat) : Nat :=
  match segAt segs 0 with
  | some g => if g.timed then tsb + g.t0 else now + 1 + delay
  | none => now + 1 + delay

/-- The DCS of channel h receives its stream of the image (11: R299); a DPREA that it still owes is issued all the same (16:
R395 step 5). -/
def handDcs (s : State) (t die r tsb h : Nat) : State :=
  let (off, len) := imageStream s die r (4 + h)
  let segs := imageSegs s die r (4 + h)
  let d := s.dcsAt h
  s.setDcs h { d with
    seqr := handSeqr d.seqr (dieBase die + nestTtoff r + off) (4 * len) segs (s.fieldOf (offDcs h rDcsflt) 8 8 = 0) (firstIssue segs tsb tsb 0)
    task := some t, tsb := tsb }

/-- Iteration k of task t is handed to core g, of rank `rank`: tokened segments begin `delay` cycles after the next one, and
the awaits that the core has registered stand until their boundaries (10: R273). -/
def handOff (s : State) (t g rank k : Nat) (delay : Nat := 0) : State :=
  let task := s.task t
  let s := ctlUse s (ctlWalker g) task.part 0 g
  let r := task.nest
  let now := s.sccOf task.part
  let tsb := firstBoundary now
  let die := dieOf g
  let x := s.core g
  let hand (q : Seqr) (i : Nat) : Seqr :=
    let (off, len) := imageStream s die r i
    let segs := imageSegs s die r i
    handSeqr q (dieBase die + nestTtoff r + off) (4 * len) segs (off ≠ 0) (firstIssue segs tsb now delay)
  let kq := hand x.k 0
  let idx := nestIdx r k
  let kq := (List.range 6).foldl (fun q j => writeS q (BitVec.ofNat 6 (32 + j)) (BitVec.ofNat 64 (idx.getD j 0))) kq
  let kq := writeS kq 0 (task.arg0.getD (BitVec.ofNat 64 (nestArg r 0)))
  let kq := writeS kq 1 (BitVec.ofNat 64 task.lnoff)
  let kq := (List.range 4).foldl (fun q i => setCsrNat q (csrKey i) (nestKey r i)) kq
  let kq := setCsrNat kq csrIdent (task.tid % 65536 * 2 ^ 48 + k % 2 ^ 24 * 2 ^ 24)
  let cq := setCsrNat (setCsrNat (setCsrNat (hand x.c 2) csrDraw0 0) csrDraw1 0) csrFtv (imageNat s die r 5 1)
  let x := { x with
    k := kq, l := hand x.l 1, c := cq, s := hand x.s 3
    st := .entry, task := some t, iter := k, rank := rank, tsb := tsb, tsbWcc := 0, lateSent := false
    phNum := 0, phWait := none, phHold := false, psets := [], trap := {}, iterCmds := []
    safepts := [], safept := none, frozen := false, replays := if x.iter = k && x.task = some t then x.replays else 0
    misses := if x.iter = k && x.task = some t then x.misses else 0 }
  let s := (s.setCore g x).noteMove g true allSeq
  let s := s.setTask t { task with nextK := insert task.nextK rank (k + task.members.length) }
  if rank = 0 then (imageChans s die r).foldl (fun s h => handDcs s t die r tsb h) s else s

/-- The first iterations of a task are handed to the members that have one. What is left of R57's bounds to the first
instruction is 18 cycles. -/
def handAll (s : State) (t : Nat) : State :=
  let k := s.task t
  k.members.foldl (fun (p : State × Nat) g =>
    let (n, s) := p.1.takeFresh
    let s := s.modCore g fun x => { x with task := some t, st := .wait, replays := 0 }
    (if p.2 < k.kt then handOff s t g p.2 p.2 (Config.launchDelay n % 18) else s, p.2 + 1)) (s, 0) |>.1

/-! ### Completion (02: R52; 13: R353) -/

/-- Launches that wait for the domain of record r, which has become free, may start some cycles later, within the bounds of
R57. -/
def redelay (s : State) (p r : Nat) : State :=
  let (n, s) := s.takeFresh
  let at_ := s.wcc + Config.launchDelay n % 35
  { s with tasks := s.tasks.map fun e =>
      if e.2.part = p && e.2.st = .pending && sharesDomain s r (nestOf s e.2) then
        (e.1, { e.2 with startAt := max e.2.startAt at_ }) else e }

/-- A queue's completion doubleword is to be written at its CDA. -/
def queueDone (s : State) (q : Nat) (failed : Bool) : State :=
  let head := s.fieldOf (offQdesc q + 16) 63 32
  { s with cdaWait := s.cdaWait ++ [(q, head + if failed then 2 ^ 63 else 0, 0)] }

/-- Task t is done: its cores and channels are free, and the records that it spawns fire. -/
def completeTask (s : State) (t : Nat) (spawn failed : Bool) : State :=
  let k := s.task t
  let s := k.members.foldl (fun s g => s.modCore g fun x => { x with task := none, st := .wait }) s
  let s := { s with
    dcs := s.dcs.map fun e => if e.2.task = some t then (e.1, { e.2 with task := none }) else e
    tasks := erase s.tasks t }
  let s := match k.queue with
    | some q => queueDone s q failed
    | none => s
  let s := match spawn, k.trig with
    | true, some i => fireSpawn s k.part i k.tid
    | _, _ => s
  redelay s k.part k.nest

/-- Every member of task t has retired its last iteration. -/
def taskOver (s : State) (t : Nat) : Bool := (s.task t).members.all fun g => (s.core g).st = .wait

/-! ### Launching -/

/-- The contact-sheet event of a launch. -/
def launchEvent (s : State) (k : Task) (first : Nat) : State :=
  csEvent s 5 k.part 0 (k.members.headD 0) (k.tid + 65536 * (k.trig.getD k.slot)) first

/-- A launch that fails a check starts nothing (17: R405). -/
def refuseLaunch (s : State) (t detail : Nat) : State :=
  let k := s.task t
  let s := record s {
    det := 15, sev := 1, part := k.part, ukind := 0, unit := 0, code := 0, detail := detail, addr := k.lnoff, tid := k.tid }
  let s := { s with tasks := erase s.tasks t }
  match k.queue with
  | some q => queueDone s q true
  | none => s

/-- A launch that passes its checks starts. -/
def beginTask (s : State) (t r : Nat) : State :=
  let k := s.task t
  let k := { k with
    ln := cells 0 0 (natLe 128 r), st := .running, prio := nestPrio r, dlev := nestDlev r
    slen := nestSlen r, members := domainOf s r, kt := nestKt r, nextK := [] }
  let s := launchEvent (s.setTask t k) k 0
  if k.kt = 0 then completeTask s t true false else handAll s t

/-! ### Retirement (02: R52, R59) -/

/-- Every command of both engines of the core has completed by the end of cycle t. -/
def enginesDone (x : Core) (t : Nat) : Bool :=
  ((allMe x).all fun m => match m.doneAt with
    | some d => decide (d ≤ t)
    | none => false) &&
  (allCe x).all fun c => match c.doneAt with
    | some d => decide (d ≤ t)
    | none => false

/-- The four sequencers of the core have issued their final HALT. -/
def allHalted (x : Core) : Bool := allSeq.all fun q => !(x.seqr q).run

/-- The DCSs of task t have halted and their last DRD has landed. The stream of a quarantined channel that has not
begun never halts (19: R449). -/
def dcsOver (s : State) (t : Nat) : Bool :=
  s.dcs.all fun e => e.2.task ≠ some t || (!e.2.seqr.run && e.2.lands.all (·.wr)
    && (e.2.seqr.pc ≠ 0 || s.fieldOf (offDcs e.1 rDcsflt) 8 8 = 0))

/-- Core g retires its iteration in this cycle. -/
def mayRetire (s : State) (g : Nat) : Bool :=
  let x := s.core g
  let p := s.partOfCore g
  match x.task with
  | none => false
  | some t =>
    s.worked && !s.held p && x.st ≠ .wait && x.st ≠ .retired && allHalted x && !x.frozen
      && x.trap.stopAfter.isNone && !(s.task t).broken && enginesDone x (s.sccOf p) && (x.rank ≠ 0 || dcsOver s t)

/-- Core g retires: its next iteration is handed off, or none remains, and the task may be complete. -/
def retire (s : State) (g : Nat) : State :=
  let x := s.core g
  match x.task with
  | none => s
  | some t =>
    let k := s.task t
    let next := sget 0 k.nextK x.rank
    if next < k.kt then handOff s t g x.rank next
    else
      let s := s.modCore g fun x => { x with st := .wait }
      if taskOver s t && (s.task t).st = .running then completeTask s t true false else s

/-- ITERATION_RETIRE (R52). -/
def execIterationRetire (s : State) : Host.Outcome State Fault Refusal :=
  if mayRetire s s.unit then .next (retire s s.unit) else .fault (.notDue "ITERATION_RETIRE")

/-- TSB_REACHED (R59): the body of the iteration begins. -/
def tsbDue (s : State) (g : Nat) : Bool :=
  let x := s.core g
  x.st = .entry && x.tsb ≤ s.sccOf (s.partOfCore g) && !s.held (s.partOfCore g)

/-- The domain of a task whose image holds a stream for a quarantined channel breaks at TSB (19: R449). -/
def quarantined (s : State) (g : Nat) : State :=
  if (s.core g).rank ≠ 0 then s
  else (s.dcs.filter fun e => e.2.task = (s.core g).task && s.fieldOf (offDcs e.1 rDcsflt) 8 8 = 1).foldl
    (fun s e => stopUnit s (.dcs e.1) .dramTiming 0x22 0 0) s

/-- TSB_REACHED (R59). -/
def execTsbReached (s : State) : Host.Outcome State Fault Refusal :=
  if tsbDue s s.unit then
    .next (quarantined (s.modCore s.unit fun x => { x with st := .body, tsbWcc := s.wcc }) s.unit)
  else .fault (.notDue "TSB_REACHED")

/-- The record whose WCC compare meets this cycle (SRC 6). -/
def wccDue (s : State) (p i : Nat) : Bool :=
  let r := launchRec s p i
  recArm r && recSrc r = 6 && recThresh r = s.wcc

/-- The cycle in which a record of partition p whose compare meets this cycle becomes pending: that of the records of
lower index that it has met (R55). A compare crosses no link: what is left of R57's bounds is 14 cycles (15: R385). -/
def wccSince (s : State) (p : Nat) : Nat × State :=
  match s.tasks.find? fun e => e.2.part = p && e.2.st = .pending && e.2.trig.isSome &&
      (let r := leNat (e.2.lrec.read 0 64)
       recSrc r = 6 && recThresh r = s.wcc) with
  | some e => (e.2.since, s)
  | none => takeSince s 14

/-- WCC_COMPARE_TRIGGER (R54). -/
def execWccCompareTrigger (s : State) : Host.Outcome State Fault Refusal :=
  if wccDue s s.unit s.sub then
    let (since, s) := wccSince s s.unit
    .next (fireRecord s s.unit s.sub none none since)
  else .fault (.notDue "WCC_COMPARE_TRIGGER")

/-- A timed iteration of core g has passed its latency budget (16: R400). -/
def lateIteration (s : State) (g : Nat) : Bool :=
  let x := s.core g
  let n := s.fieldOf (offFctl (s.partOfCore g)) 23 16
  match x.task with
  | none => false
  | some t =>
    let slen := (s.task t).slen
    (x.st = .body || x.st = .drain) && !x.lateSent && n ≠ 0 && slen ≠ 0
      && decide (256 * slen * (16 + n) < 16 * (s.wcc - x.tsbWcc))

/-- LATENCY_BUDGET_EXCEEDED (R400). -/
def execLatencyBudgetExceeded (s : State) : Host.Outcome State Fault Refusal :=
  if lateIteration s s.unit then
    let g := s.unit
    let s := s.modCore g fun x => { x with lateSent := true }
    .next (record s {
      det := 16, sev := 2, part := s.partOfCore g, ukind := 0, unit := g, tid := s.tidOf g, iter := (s.core g).iter })
  else .fault (.notDue "LATENCY_BUDGET_EXCEEDED")

end Sys2Proof.Machine
end

