-- ==== Sys2Proof/Machine/Rings.lean ====
section
/-! DEFINITION. Rings (03: R92 to R96; 18: R440): descriptors in the ring units, the quantities of a ring,
what each ring operation does at its home ring unit, and the conditions of awaits. -/

namespace Sys2Proof.Machine

/-- A ring descriptor (03: R93). -/
structure Ring where
  base : Nat
  slog : Nat
  rows : Bool
  rps : Nat
  nslot : Nat
  srcp : Nat
  pub : Nat
  rel : Nat
  claim : Nat
  deriving DecidableEq, Repr

def State.ring (s : State) (p n : Nat) : Ring :=
  let o := offRing p n
  let w0 := s.reg o
  let w1 := s.reg (o + 8)
  { base := bits w0 47 0, slog := bits w0 51 48, rows := bits w0 52 52 = 1, rps := bits w0 59 53,
    nslot := bits w1 23 0, srcp := bits w1 31 24,
    pub := leNat (bar0Read s (o + 12) 6), rel := leNat (bar0Read s (o + 18) 6),
    claim := leNat (bar0Read s (o + 24) 6) }

def State.setPub (s : State) (p n v : Nat) : State := bar0Write s (offRing p n + 12) (natLe 6 v)
def State.setRel (s : State) (p n v : Nat) : State := bar0Write s (offRing p n + 18) (natLe 6 v)
def State.setClaim (s : State) (p n v : Nat) : State := bar0Write s (offRing p n + 24) (natLe 6 v)

/-! ### Quantities (03: R94) -/

def Ring.unit (r : Ring) : Nat := if r.rows then r.rps else 1
def Ring.cap (r : Ring) : Nat := r.nslot * r.unit
def Ring.filled (r : Ring) : Nat := r.pub - r.rel
def Ring.free (r : Ring) : Nat := r.cap - (r.claim - r.rel)
def Ring.slot (r : Ring) (q : Nat) : Nat := q / r.unit % r.nslot
def Ring.addr (r : Ring) (q : Nat) : Nat := r.base + r.slot q * 2 ^ (r.slog + 6)

/-- The die of the ring's home ring unit (03: R92). -/
def Ring.home (r : Ring) : Nat := dieOfAddr r.base

/-- Ring n of partition p takes the records of a fusion set (12: R342). -/
def isRecordRing (s : State) (p n : Nat) : Bool :=
  (List.range 16).any fun f =>
    let v := s.reg (offFscfg f)
    decide (bits v 29 29 = 1) && decide (bits v 31 30 = p) && decide (bits v 39 32 = n)

/-- The hardware is the ring's producer (18: R440). -/
def hwProducer (s : State) (p n : Nat) : Bool :=
  let r := s.ring p n
  (r.rows && r.srcp ≠ 0xFF) || isRecordRing s p n

/-- What keeps a ring operation from being made: the DETAIL of R440. -/
def ringBad (s : State) (p n fn c : Nat) : Option Nat :=
  let r := s.ring p n
  if r.nslot = 0 then some 0x0801
  else if fn ≠ 2 && hwProducer s p n then some 0x0801
  else if fn = 1 && r.claim - r.pub < c then some 0x0901
  else if fn = 2 && r.pub - r.rel < c then some 0x0901
  else none

/-- A ring operation of core g performs: FN 0 RCLAIM, 1 RPUB, 2 RREL (03: R95; 10: R272). -/
def ringPerform (s : State) (g : Nat) (org : Origin) (id fn n c : Nat) (d : Code) : State :=
  let p := s.partOfCore g
  let act : Actor := .core g org.q
  let s := ctlUse s (ctlRing p n) p 9 0
  let r := s.ring p n
  match ringBad s p n fn c with
  | some x => lateTrap s act org .illegalOperand x (org.w0.setWidth 64)
  | none =>
    match fn with
    | 0 =>
      let ok := decide (c ≤ r.free)
      let v : DWord := if ok then BitVec.ofNat 64 r.claim else BitVec.allOnes 64
      let late := if r.home = dieOf g then 0 else 24
      let s := if ok then acquire (s.setClaim p n (r.claim + c)) g org.q 3 else s
      addLanding s act ⟨s.now act + late, id, org, .reg org.q d v, []⟩
    | 1 => release (s.setPub p n (r.pub + c)) act 3 id
    | _ => release (s.setRel p n (r.rel + c)) act 3 id

/-! ### Ring operations of one cycle (03: R96) -/

/-- Core g's operations on ring n would cross a withdrawn SL-C to its home ring unit: their flits are discarded
(19: R459). -/
def ringCut (s : State) (g n : Nat) : Bool := s.gone 2 && decide ((s.ring (s.partOfCore g) n).home ≠ dieOf g)

/-- A ring operation that performs in this cycle: its core and its landing. -/
structure RingOp where
  g : Nat
  l : Landing
  fn : Nat
  rn : Nat
  n : Nat
  d : Code
  deriving DecidableEq, Repr

/-- The ring operations of one core that perform in cycle t, in the order K, L, C, S. -/
def ringOpsOf (g : Nat) (x : Core) (t : Nat) : List RingOp :=
  allSeq.flatMap fun q => x.pend.filterMap fun l =>
    if l.due = t && l.org.q = q then
      (match l.eff with
       | .perform (.ring fn rn n d) => some ⟨g, l, fn, rn, n, d⟩
       | _ => none)
    else none

/-- The ring operations of this cycle of every core that runs, in source order. -/
def ringOpsNow (s : State) : List RingOp :=
  s.cores.flatMap fun e =>
    if s.held (s.partOfCore e.1) then [] else (ringOpsOf e.1 e.2 (s.sccOf (s.partOfCore e.1))).filter fun o => !ringCut s o.g o.rn

/-- One step of R96 on the ring operations of a cycle: those of one function, in source order. -/
def ringStep (ops : List RingOp) (fn : Nat) (s : State) : State :=
  (ops.filter fun o => decide (o.fn = fn)).foldl (fun s o => ringPerform s o.g o.l.org o.l.id o.fn o.rn o.n o.d) s

/-! ### Conditions of awaits (10: R273) -/

/-- REL after the RRELs of this cycle, and CLAIM after the RCLAIMs of it that come before core g's
sequencer q in source order (03: R96 step 3). -/
def freeAhead (s : State) (p rn g : Nat) (q : SeqId) : Nat :=
  let ops := (ringOpsNow s).filter fun o => decide (s.partOfCore o.g = p) && decide (o.rn = rn)
  let r := s.ring p rn
  let r := (ops.filter fun o => decide (o.fn = 2)).foldl (fun r o =>
    if o.n ≤ r.pub - r.rel then { r with rel := r.rel + o.n } else r) r
  let first (o : RingOp) : Bool :=
    decide (o.g < g) || (decide (o.g = g) && decide (seqNum o.l.org.q < seqNum q))
  let r := (ops.filter fun o => decide (o.fn = 0) && first o && (ringBad s p rn 0 o.n).isNone).foldl (fun r o =>
    if o.n ≤ r.free then { r with claim := r.claim + o.n } else r) r
  r.free

/-- The window counter of a fusion set (12: R342). -/
def windowCount (s : State) (f : Nat) : Nat := s.fieldOf (offFscnt f) 47 0

/-- The doubleword that an AWCMP of core g reads: in the issuing die's view (10: R273). -/
def awaited (s : State) (g a : Nat) : Nat := leNat (s.readView (dieOf g) a 8)

/-- The condition of an await of core g's sequencer q, by kind: 0 AWFILL, 1 AWFREE, 2 AWROW, 3 AWWIN, 4 to 6
AWCMP.EQ, NE and GE. -/
def awaitTrue (s : State) (g : Nat) (q : SeqId) (kind rn : Nat) (x : DWord) (addr : Nat) : Bool :=
  let p := s.partOfCore g
  let r := s.ring p rn
  match kind with
  | 0 => decide (x.toNat ≤ r.filled)
  | 1 => decide (x.toNat ≤ freeAhead s p rn g q)
  | 2 => decide (x.toNat ≤ r.pub)
  | 3 => decide (x.toNat ≤ windowCount s rn)
  | 4 => decide (awaited s g addr = x.toNat)
  | 5 => decide (awaited s g addr ≠ x.toNat)
  | _ => decide (x.toNat ≤ awaited s g addr)

/-- An await on a ring that it may not name (18: R440). -/
def awaitBad (s : State) (g kind rn : Nat) : Bool :=
  let r := s.ring (s.partOfCore g) rn
  match kind with
  | 0 | 1 => decide (r.nslot = 0)
  | 2 => decide (r.nslot = 0) || !r.rows
  | _ => false

/-- The doubleword that an AWCMP reads when it is first true, or at its horizon, is noted if it is corrected (16: R391). -/
def noteAwait (s : State) (g : Nat) (org : Origin) (kind addr : Nat) : State :=
  if kind < 4 then s else noteCorrected s g org [(addr, 8)]

/-- What stops an await of an instruction with word 0 w0 when it is evaluated: a ring that it may not name, or an
uncorrectable doubleword (16: R391; 18: R440). -/
def awaitStop (s : State) (g kind rn addr : Nat) (w0 : DWord) : Option (Cause × Nat × DWord) :=
  if awaitBad s g kind rn then some (.illegalOperand, 0x0801, w0)
  else if kind < 4 then none
  else (eccAt s addr 8).map fun x => (.eccUncorr, eccDetail s addr 8, BitVec.ofNat 64 x)

end Sys2Proof.Machine
end

