-- ==== Sys2Proof/Machine/MemInstr.lean ====
section
/-! DEFINITION. The meanings of loads and stores, vector loads and stores, queue fills, load blocks, rings,
awaits, phases, fences, in-bank atomics and monitor waits (10: R263 to R279; 18: R439, R440). -/

namespace Sys2Proof.Machine

/-! ### Address checks (17: R417; 18: R429) -/

/-- The body of an instruction that only a tile core has a meaning for. -/
def onCore (s : State) (f : Nat → SeqId → Body) : Body :=
  match s.actor with
  | .core g q => f g q
  | _ => .wait s

def trapBounds (detail a : Nat) : Body := .trap .bounds detail (BitVec.ofNat 64 a)

/-- ILLEGAL_OPERAND for a register value read at issue or for absent state: check 12, with the field. -/
def trapValue (i : Instr) (field : Nat) : Body := .trap .illegalOperand (0x0600 + field) (word0Val i)

/-- The lowest of the runs' bytes that core g may not touch. -/
def badRuns (s : State) (g : Nat) (rs : List (Nat × Nat)) : Option Nat :=
  (rs.filterMap fun r => badByte s g r.1 r.2).min?

/-- The lowest of the runs' bytes that lie outside the die's tile store, or the scratchpad, that the first byte lies in. -/
def otherRegion (rs : List (Nat × Nat)) : Option Nat :=
  match rs with
  | [] => none
  | r :: _ => (rs.filterMap fun x => (runPoints x.1 x.2).find? fun a => regionOf a ≠ regionOf r.1).min?

/-- Of (DETAIL, address) pairs that have an address, the one with the lowest; the first of several (17: R417). -/
def lowest : List (Nat × Option Nat) → Option (Nat × Nat)
  | [] => none
  | (_, none) :: l => lowest l
  | (d, some a) :: l =>
    match lowest l with
    | some e => if e.2 < a then some e else some (d, a)
    | none => some (d, a)

/-- The ways in which runs, each of which must be aligned to `al`, may fail R417, with the lowest failing address of each;
where one address fails in two ways its alignment counts first (log entry 44). -/
def runFaults (s : State) (g al : Nat) (rs : List (Nat × Nat)) (one : Bool) : List (Nat × Option Nat) :=
  [(2, (rs.filterMap fun r => if r.1 % al = 0 then none else some r.1).min?), (1, badRuns s g rs),
    (3, if one then otherRegion rs else none)]

/-- BOUNDS with the lowest failing address. -/
def boundsOf (l : List (Nat × Option Nat)) : Option Body := (lowest l).map fun e => trapBounds e.1 e.2

/-- Checks 12 to 14 of an access to runs. -/
def checkRuns (s : State) (g al : Nat) (rs : List (Nat × Nat)) (one : Bool) : Option Body := boundsOf (runFaults s g al rs one)

/-- The result of an access that performs lat cycles on lands after every result pending for s(d), in tokened code
(07: R176). -/
def destFree (s : State) (d : Code) (lat : Nat) : Bool :=
  s.timedOf s.actor || landsLast (s.pendingRegs s.actor) d (s.now s.actor + lat)

/-! ### Scalar loads and stores (10: R264) -/

/-- The effective address of a one-word form: the offset counts widths. -/
def eaShort (s : State) (a : Code) (off : B6) (w : Nat) : Nat :=
  (s.rd a + BitVec.ofInt 64 ((w : Int) * off.toInt)).toNat

/-- The effective address of a two-word form. -/
def eaLong (s : State) (a : Code) (off : B28) : Nat := (s.rd a + off.signExtend 64).toNat

/-- A management load or store lies in its 4 MiB of memory or in its 4 MiB of registers (13: R346). -/
def mgmtOk (a w : Nat) : Option Body :=
  if a % w ≠ 0 then some (trapBounds 2 a) else if 0x800000 < a + w then some (trapBounds 1 a) else none

/-- LD of w bytes at ea. -/
def loadBody (i : Instr) (d : Code) (w ea : Nat) (s : State) : Body :=
  match s.actor with
  | .core g _ =>
    (match checkRuns s g w [(ea, w)] false with
     | some b => b
     | none =>
       if destFree s d (accLat s g ea w) then .done (access s i (accLat s g ea w) (.load d ea w)) .seq else .wait s)
  | .mgmt =>
    (match mgmtOk ea w with
     | some b => b
     | none =>
       let v := BitVec.ofNat 64 (leNat (mgmtRead s ea w))
       if !s.me.fences.isEmpty then .wait s
       else if destFree s d 1 then .done ((noteIssue s .mgmt 0 ea (some v)).result i d 2 v) .seq else .wait s)
  | _ => .wait s

/-- A store by the management controller: to its memory at once, to a register as a register write that
reaches it in the next cycle (13: R346). -/
def mgmtStore (s : State) (a : Nat) (bs : Bytes) : State :=
  if a + bs.length ≤ 0x400000 then { s with mgmtMem := s.mgmtMem.write a bs, mgmt := wakeSeqr [sectorOf a] s.wcc s.mgmt }
  else
    let off := a - 0x400000
    { s with inputs := s.inputs ++ [(s.wcc + 1, .registerWrite off bs.length (BitVec.ofNat 64 (leNat bs)))] }

/-- ST of the low w bytes of s(d) at ea. -/
def storeBody (i : Instr) (d : Code) (w ea : Nat) (s : State) : Body :=
  let bs := natLe w (s.rd d).toNat
  match s.actor with
  | .core g _ =>
    (match checkRuns s g w [(ea, w)] false with
     | some b => b
     | none => .done (access s i (accLat s g ea w) (.store (runCells ea bs))) .seq)
  | .mgmt =>
    (match mgmtOk ea w with
     | some b => b
     | none => if s.me.fences.isEmpty then .done (mgmtStore s ea bs) .seq else .wait s)
  | _ => .wait s

def ldShort (h : Hdr) (i : Instr) (d a : Code) (off : B6) (w : Nat) (s : State) :
    Host.Outcome State Fault Refusal :=
  issue h i (fun s => loadBody i d w (eaShort s a off w) s) s

def ldLong (h : Hdr) (i : Instr) (d a : Code) (off : B28) (w : Nat) (s : State) :
    Host.Outcome State Fault Refusal :=
  issue h i (fun s => loadBody i d w (eaLong s a off) s) s

def stShort (h : Hdr) (i : Instr) (d a : Code) (off : B6) (w : Nat) (s : State) :
    Host.Outcome State Fault Refusal :=
  issue h i (fun s => storeBody i d w (eaShort s a off w) s) s

def stLong (h : Hdr) (i : Instr) (d a : Code) (off : B28) (w : Nat) (s : State) :
    Host.Outcome State Fault Refusal :=
  issue h i (fun s => storeBody i d w (eaLong s a off) s) s

/-- LD.B (R264). -/
def execLdB (h : Hdr) (d a : Code) (off : B6) (s : State) : Host.Outcome State Fault Refusal :=
  ldShort h (.ldB h d a off) d a off 1 s
/-- LD.H (R264). -/
def execLdH (h : Hdr) (d a : Code) (off : B6) (s : State) : Host.Outcome State Fault Refusal :=
  ldShort h (.ldH h d a off) d a off 2 s
/-- LD.W (R264). -/
def execLdW (h : Hdr) (d a : Code) (off : B6) (s : State) : Host.Outcome State Fault Refusal :=
  ldShort h (.ldW h d a off) d a off 4 s
/-- LD.D (R264). -/
def execLdD (h : Hdr) (d a : Code) (off : B6) (s : State) : Host.Outcome State Fault Refusal :=
  ldShort h (.ldD h d a off) d a off 8 s
/-- ST.B (R264). -/
def execStB (h : Hdr) (d a : Code) (off : B6) (s : State) : Host.Outcome State Fault Refusal :=
  stShort h (.stB h d a off) d a off 1 s
/-- ST.H (R264). -/
def execStH (h : Hdr) (d a : Code) (off : B6) (s : State) : Host.Outcome State Fault Refusal :=
  stShort h (.stH h d a off) d a off 2 s
/-- ST.W (R264). -/
def execStW (h : Hdr) (d a : Code) (off : B6) (s : State) : Host.Outcome State Fault Refusal :=
  stShort h (.stW h d a off) d a off 4 s
/-- ST.D (R264). -/
def execStD (h : Hdr) (d a : Code) (off : B6) (s : State) : Host.Outcome State Fault Refusal :=
  stShort h (.stD h d a off) d a off 8 s
/-- LD.B of two words (R264). -/
def execLdBX (h : Hdr) (d a : Code) (off : B28) (s : State) : Host.Outcome State Fault Refusal :=
  ldLong h (.ldBX h d a off) d a off 1 s
/-- LD.H of two words (R264). -/
def execLdHX (h : Hdr) (d a : Code) (off : B28) (s : State) : Host.Outcome State Fault Refusal :=
  ldLong h (.ldHX h d a off) d a off 2 s
/-- LD.W of two words (R264). -/
def execLdWX (h : Hdr) (d a : Code) (off : B28) (s : State) : Host.Outcome State Fault Refusal :=
  ldLong h (.ldWX h d a off) d a off 4 s
/-- LD.D of two words (R264). -/
def execLdDX (h : Hdr) (d a : Code) (off : B28) (s : State) : Host.Outcome State Fault Refusal :=
  ldLong h (.ldDX h d a off) d a off 8 s
/-- ST.B of two words (R264). -/
def execStBX (h : Hdr) (d a : Code) (off : B28) (s : State) : Host.Outcome State Fault Refusal :=
  stLong h (.stBX h d a off) d a off 1 s
/-- ST.H of two words (R264). -/
def execStHX (h : Hdr) (d a : Code) (off : B28) (s : State) : Host.Outcome State Fault Refusal :=
  stLong h (.stHX h d a off) d a off 2 s
/-- ST.W of two words (R264). -/
def execStWX (h : Hdr) (d a : Code) (off : B28) (s : State) : Host.Outcome State Fault Refusal :=
  stLong h (.stWX h d a off) d a off 4 s
/-- ST.D of two words (R264). -/
def execStDX (h : Hdr) (d a : Code) (off : B28) (s : State) : Host.Outcome State Fault Refusal :=
  stLong h (.stDX h d a off) d a off 8 s

/-! ### Vector loads and stores, queue fills (10: R265 to R269) -/

/-- Address arithmetic in 64 bits. -/
def addr64 (a : DWord) (z : Int) : Nat := (a + BitVec.ofInt 64 z).toNat

/-- The runs (address, offset, length) of chunk k of an access under the addressing of R265. -/
def chunkRuns (s : State) (a b : Code) (x : XL) (k : Nat) : List (Nat × Nat × Nat) :=
  let ea := addr64 (s.rd a) (64 * x.off.toInt)
  if x.sd then
    (List.range 16).map fun r =>
      (addr64 (BitVec.ofNat 64 ea) ((16 * k + r : Nat) * (s.rd b).toInt), 64 * r, 64)
  else [(addr64 (BitVec.ofNat 64 ea) (1024 * k), 0, 1024)]

def bare (rs : List (Nat × Nat × Nat)) : List (Nat × Nat) := rs.map fun r => (r.1, r.2.2)

/-- The latency class of a chunk: by its lowest address, with the L1D where one block holds all of it. -/
def chunkLat (s : State) (g : Nat) (rs : List (Nat × Nat × Nat)) : Nat :=
  let lo := rs.foldl (fun m r => min m r.1) (2 ^ 64)
  let hi := rs.foldl (fun m r => max m (r.1 + r.2.2)) 0
  accLat s g lo (hi - lo)

/-- The header that a tagged access reads (10: R269): the ways in which it may fail. -/
def tagFaults (s : State) (g : Nat) (x : XL) : List (Nat × Option Nat) :=
  if x.tg then runFaults s g 64 [((s.rd x.tr).toNat, 16)] false else []

/-- The access of a tag comparison for the next n accesses. -/
def tagAccess (s : State) (i : Instr) (x : XL) (lat n : Nat) : State :=
  if x.tg then access s i lat (.tag (s.rd x.tr).toNat (bits (s.rd (x.tr + 1)).toNat 31 0) n) else s

/-- The vector memory port is free for the issuing sequencer (10: R263). -/
def portFree (s : State) (g : Nat) : Bool := decide ((s.core g).portFree ≤ s.sccOf (s.partOfCore g))

def takePort (s : State) (g n : Nat) : State :=
  s.modCore g fun x => { x with portFree := s.sccOf (s.partOfCore g) + n }

/-- A register destination of a load: 63 where the write is discarded. -/
def loadDest (s : State) (g : Nat) (d : Code) : Nat :=
  if d.toNat < 48 && powerOf (s.core g) d.toNat = 2 then 63 else d.toNat

/-- Tokened code waits for the port and for the registers that the access reads or writes. -/
def portReady (s : State) (g : Nat) (reads writes : List (Nat × Nat × Nat)) : Bool :=
  let ps := pendingChunks s s.actor
  portFree s g && (reads.all fun r => chunkReadable ps r.1 r.2.1 r.2.2) &&
    writes.all fun r => chunkLandsLast ps r.1 r.2.1 r.2.2

/-- VLD (R265). -/
def execVld (h : Hdr) (o : A3) (x : XL) (s : State) : Host.Outcome State Fault Refusal :=
  let i : Instr := .vld h o x
  issue h i (fun s => onCore s fun g _ =>
    let t := s.timedOf s.actor
    let chunks := (List.range 8).map fun k => (k, chunkRuns s o.a o.b x k)
    let lat := chunkLat s g (chunkRuns s o.a o.b x 0)
    let now := s.now s.actor
    if !t && !portReady s g [] ((List.range 8).map fun k => (o.d.toNat, k, now + lat + k)) then .wait s
    else match boundsOf (runFaults s g 64 (chunks.flatMap fun c => bare c.2) true ++ tagFaults s g x) with
      | some b => b
      | none => withPower s g i fun s =>
        let v := loadDest s g o.d
        let s := tagAccess (takePort s g 8) i x lat 8
        .done (chunks.foldl (fun s c => access s i (lat + c.1) (.vload v c.1 c.2)) s) .seq) s

/-- The issuing sequencer's next access as a landing due in cycle `due`, in tokened code too. -/
def laterAccess (s : State) (i : Instr) (due : Nat) (e : Eff) : State :=
  let a := s.actor
  let l : Landing := { due := due, id := s.effNo, org := s.origin a i, eff := e, after := (s.seqr a).after }
  (addLanding { s with effNo := s.effNo + 1 } a l).modSeqr a fun q => { q with lastAcc := l.id }

/-- A store that reads one chunk in cycle c + k and writes it at c + L + k (10: R265). -/
def chunkStore (s : State) (i : Instr) (k : Nat) (e : Eff) : State := laterAccess s i (s.now s.actor + k) e

/-- VST (R265). -/
def execVst (h : Hdr) (o : A3) (x : XL) (s : State) : Host.Outcome State Fault Refusal :=
  let i : Instr := .vst h o x
  issue h i (fun s => onCore s fun g _ =>
    let t := s.timedOf s.actor
    let chunks := (List.range 8).map fun k => (k, chunkRuns s o.a o.b x k)
    let lat := chunkLat s g (chunkRuns s o.a o.b x 0)
    let now := s.now s.actor
    if !t && !portReady s g ((List.range 8).map fun k => (o.d.toNat, k, now + k)) [] then .wait s
    else match checkRuns s g 64 (chunks.flatMap fun c => bare c.2) true with
      | some b => b
      | none => withPower s g i fun s =>
        let s := takePort s g 8
        .done (chunks.foldl (fun s c => chunkStore s i c.1
          (.vstChunk o.d.toNat c.1 c.2 (now + lat + c.1))) s) .seq) s

/-- The chunks of indices of an indexed access. -/
def indexChunks (n : Nat) : Nat := ceilDiv (4 * n) 1024

/-- The indices of an indexed access of n lanes (log entry 97): a register, the head entries of a queue, one to a chunk, raw
deferral records, or zeros (06: R157; 10: R266; 08: R208, R236). -/
def indexData (s : State) (g n : Nat) (b : Code) : Bytes :=
  let x := s.core g
  if b.toNat < 48 then x.vrf.read (8192 * b.toNat) (4 * n)
  else if b = 57 then (x.dq.take (64 * indexChunks n)).flatMap fun r => natLe 16 r.toNat
  else match queueOfCode s g b with
    | some q => ((x.queue q).take (indexChunks n)).flatMap fun e => e.data.read 0 1024
    | none => []

/-- The elements (lane, address) of an indexed access, active lanes only (10: R266). -/
def indexed (s : State) (g n w : Nat) (a b : Code) (x : XV) : List (Nat × Nat) :=
  let mask := sget 0 (s.core g).masks x.msk.toNat
  let idx := indexData s g n b
  (List.range n).filterMap fun j =>
    if activeLane x w mask j then
      let v := leNat ((idx.drop (4 * j)).take 4)
      some (j, addr64 (s.rd a) ((w : Int) * sx v 32))
    else none

/-- Checks 14 of an indexed access: alignment, bounds, and in timed code the core's own scratchpad. -/
def checkIndexed (s : State) (g w : Nat) (timed : Bool) (els : List (Nat × Nat)) : Option Body :=
  boundsOf (runFaults s g w (els.map fun e => (e.2, w)) false ++
    [(3, if timed then (els.filterMap fun e => if regionOf e.2 = .spad g then none else some e.2).min? else none)])

/-- The latency of an indexed access, whose elements are accesses each of its own class: no element performs before its
own class admits it (04: R106). -/
def indexedLat (s : State) (g w : Nat) (els : List (Nat × Nat)) : Nat := els.foldl (fun m e => max m (accLat s g e.2 w)) 2

/-- The chunks of the index register that an indexed access reads in its issue cycle. -/
def indexReads (b : Code) (n now : Nat) : List (Nat × Nat × Nat) :=
  if b.toNat < 48 then (List.range (ceilDiv (4 * n) 1024)).map fun k => (b.toNat, k, now) else []

/-- Queue q of core g holds n entries for an instruction that pops them in cycle now: after the pops of that cycle in timed
code (17: R406), and after all that what has issued is to pop in tokened code (02: R37). -/
def entriesHeld (s : State) (g q n now : Nat) : Bool :=
  decide (n + (if s.timedOf s.actor then popsNow s g q now else popsAhead s g q now) ≤ ((s.core g).queue q).length)

/-- The queue that names an indexed access's indices holds them; mq may be empty in not-ready mode (03: R76; 08: R206). -/
def indexHeld (s : State) (g n now : Nat) (b : Code) (pm : Bool) : Bool :=
  match queueOfCode s g b with
  | some q => (q = 8 && pm) || entriesHeld s g q (indexChunks n) now
  | none => true

/-- The mask that tells the active lanes of an indexed access of n elements of w bytes has no write of those lanes pending
(02: R37; 08: R204). -/
def maskHeld (s : State) (g n w : Nat) (x : XV) : Bool :=
  !x.men || ((s.core g).vops.flatMap maskWrites).all fun m =>
    decide (m.1 ≠ x.msk.toNat) || decide (w * n ≤ 1024 * m.2.1) || decide (m.2.2 < s.now s.actor)

/-- The pops of an indexed access's indices, in its issue cycle. -/
def popIndices (s : State) (i : Instr) (n : Nat) (b : Code) : State :=
  if 48 ≤ b.toNat ∧ b.toNat < 59 then
    s.addEff s.actor (s.now s.actor) (s.origin s.actor i) (.qpop b (indexChunks n) false none)
  else s

/-- VLDX (R266). -/
def execVldx (h : Hdr) (o : A3) (x : XV) (s : State) : Host.Outcome State Fault Refusal :=
  let i : Instr := .vldx h o x
  issue h i (fun s => onCore s fun g _ =>
    let t := s.timedOf s.actor
    let now := s.now s.actor
    let w := fmtBits x.t.toNat / 8
    let n := lanesOf s (.core g .c) i
    let nch := max 1 (ceilDiv (w * n) 1024)
    let els := indexed s g n w o.a o.b x
    let lat := indexedLat s g w els
    let held := indexHeld s g n now o.b x.pm
    if !t && !(held && maskHeld s g n w x && portReady s g (indexReads o.b n now)
        ((List.range nch).map fun k => (o.d.toNat, k, now + lat + k))) then .wait s
    else match checkIndexed s g w t els with
      | some b => b
      | none => withPower s g i fun s => if t && !held then .sched 4 else
        let v := loadDest s g o.d
        let s := takePort (popIndices s i n o.b) g nch
        let act := els.map (·.1)
        .done ((List.range nch).foldl (fun s k =>
          let mine := (els.filter fun e => e.1 * w / 1024 = k).map fun e => (e.2, e.1 * w % 1024, w)
          let zero := if x.mz then
            ((List.range n).filter fun j => j * w / 1024 = k && !act.contains j).flatMap fun j =>
              (List.range w).map fun r => j * w % 1024 + r
            else []
          if mine = [] then
            (if zero = [] then s else s.addEff s.actor (now + lat + k) (s.origin s.actor i)
              (.vrf (zero.map fun r => (8192 * v + 1024 * k + r, 0))))
          else access s i (lat + k) (.vgather v k mine zero)) s) .seq) s

/-- Elements whose address no higher lane shares: the highest lane's value is the one written. -/
def lastAt (els : List (Nat × Nat)) : List (Nat × Nat) :=
  match els with
  | [] => []
  | e :: t => if t.any fun f => f.2 = e.2 then lastAt t else e :: lastAt t

/-- VSTX (R266). -/
def execVstx (h : Hdr) (o : A3) (x : XV) (s : State) : Host.Outcome State Fault Refusal :=
  let i : Instr := .vstx h o x
  issue h i (fun s => onCore s fun g _ =>
    let t := s.timedOf s.actor
    let now := s.now s.actor
    let w := fmtBits x.t.toNat / 8
    let n := lanesOf s (.core g .c) i
    let nch := max 1 (ceilDiv (w * n) 1024)
    let els := indexed s g n w o.a o.b x
    let lat := indexedLat s g w els
    let held := indexHeld s g n now o.b x.pm
    if !t && !(held && maskHeld s g n w x && portReady s g
        (indexReads o.b n now ++ (List.range nch).map fun k => (o.d.toNat, k, now + k)) []) then .wait s
    else match checkIndexed s g w t els with
      | some b => b
      | none => withPower s g i fun s => if t && !held then .sched 4 else
        let s := takePort (popIndices s i n o.b) g nch
        let last := lastAt els
        .done ((List.range nch).foldl (fun s k =>
          let mine := (last.filter fun e => e.1 * w / 1024 = k).map fun e => (e.2, e.1 * w % 1024, w)
          if mine = [] then s
          else chunkStore s i k (.vscatter o.d.toNat k mine (now + lat + k))) s) .seq) s

/-- RDQ (R267). -/
def execRdq (h : Hdr) (o : A3) (x : XL) (s : State) : Host.Outcome State Fault Refusal :=
  let i : Instr := .rdq h o x
  issue h i (fun s => onCore s fun g _ =>
    let t := s.timedOf s.actor
    let qn := o.d.toNat - 48
    let rs := chunkRuns s o.a o.b x 0
    let lat := chunkLat s g rs
    if !t && !(portFree s g && queueRoom s g qn 1) then .wait s
    else match boundsOf (runFaults s g 64 (bare rs) true ++ tagFaults s g x) with
      | some b => b
      | none =>
        let s := takePort s g 1
        let s := if t then s else reserveQueue s g qn 1
        .done (access (tagAccess s i x lat 1) i lat (.qload qn rs)) .seq) s

/-- C may still issue in this cycle, and what it pops makes room. -/
def cMayPop (s : State) (g : Nat) (q : SeqId) : Bool :=
  decide (q ≠ .c) && !((s.core g).seqr q).denied && mayStill s (.core g .c)

/-- A WRQ of tokened code into a queue mapped out, from a register whose group is drowsy or gated: no entry is pushed;
the issuer's QSTAT.NR is set, or the access is recorded (17: R415). -/
def wrqLost (s : State) (g : Nat) (q : SeqId) (i : Instr) (a : Code) : Option Body :=
  match if a.toNat < 48 then powerOf (s.core g) a.toNat else 0 with
  | 1 => some (.done (s.addEff s.actor (s.now s.actor) (s.origin s.actor i) (.csrOr q csrQstat 1)) .seq)
  | 2 => some (.done (gatedRecords s g i s.me.pc) .seq)
  | _ => none

/-- The read of a WRQ's chunk j, the k-th of a register or the next of a queue (10: R268; 06: R157; log entry 97). -/
def wrqRead (a : Code) (src qn j k : Nat) : Eff :=
  if 48 ≤ a.toNat ∧ a.toNat < 59 then .qpop a 1 (decide (j ≠ 0)) (some qn) else .wrqChunk qn src k

/-- The entries that a WRQ pops from its source queue are there. -/
def wrqHeld (s : State) (g n now : Nat) (a : Code) : Bool :=
  match queueOfCode s g a with
  | some q => entriesHeld s g q n now
  | none => true

/-- WRQ (R268). -/
def execWrq (h : Hdr) (d a : Code) (cnt first : B3) (s : State) : Host.Outcome State Fault Refusal :=
  let i : Instr := .wrq h d a cnt first
  issue h i (fun s => onCore s fun g q =>
    let t := s.timedOf s.actor
    let now := s.now s.actor
    let qn := d.toNat - 48
    let n := cnt.toNat + 1
    let ks := (List.range n).map fun j => (j, first.toNat + j)
    let out := (queueMode s g qn).1 = 1
    let same := decide (queueOfCode s g a = some qn)
    let full := !out && !same && decide (capQueue ≤ ((s.core g).queue qn).length - popsNow s g qn now)
    if !t && !(portReady s g (ks.map fun k => (a.toNat, k.2, now + k.1)) [] && wrqHeld s g n now a
        && queueRoom s g qn (if same && !out then 0 else n)) then .wait s
    else if t && full && cMayPop s g q then .keep
    else match if out && !t then wrqLost s g q i a else none with
      | some b => b
      | none => withPower s g i fun s =>
        if t && !wrqHeld s g 1 now a then .sched 4
        else if t && full then .sched 5
        else
          let src := loadDest s g a
          let s := takePort s g n
          let s := if t then s else reserveQueue s g qn n
          .done (ks.foldl (fun s k => s.addEff s.actor (now + k.1) (s.origin s.actor i) (wrqRead a src qn k.1 k.2)) s)
            .seq) s

/-! ### Load blocks (10: R270, R271) -/

/-- The datapath's first free cycle at or after the next one, for a load block of `pairs` line pairs. -/
def datapathFrom (s : State) (g : Nat) : Nat := max (s.sccOf (s.partOfCore g) + 1) (s.core g).ceFree

/-- The address of a block that is not in a tile store (18: R439). -/
def notTile (a : Nat) : Option Nat :=
  match regionOf a with
  | .tile _ => none
  | _ => some a

/-- LBLK (R270). -/
def execLblk (h : Hdr) (o : A3) (x : XL) (s : State) : Host.Outcome State Fault Refusal :=
  let i : Instr := .lblk h o x
  issue h i (fun s => onCore s fun g _ =>
    let e := (s.rd o.d).toNat % 256
    let base := (s.rd o.a).toNat
    let b := (s.rd o.b).toNat
    let line := bits b 12 0
    let n := bits b 21 16 + 1
    let lat := if dieOfAddr base = dieOf g then 6 else 30
    if b ≠ line + (n - 1) * 2 ^ 16 || 6144 < line + n then trapValue i 2
    else match boundsOf (runFaults s g 128 [(base, 128 * n)] true ++ (3, notTile base) :: tagFaults s g x) with
      | some b => b
      | none =>
          let f := datapathFrom s g
          let pairs := ceilDiv n 2
          let org := s.origin s.actor i
          let no := s.effNo
          let ent : L1Ent := { valid := true, nm1 := n - 1, line := line, base := base, no := no }
          let s := s.addEff s.actor (s.now s.actor) org (.l1Set e ent)
          let s := if x.tg then laterAccess s i (f + lat)
              (.perform (.tag (s.rd x.tr).toNat (bits (s.rd (x.tr + 1)).toNat 31 0) pairs)) else s
          let s := s.modCore g fun c => { c with ceFree := f + pairs }
          .done ((List.range pairs).foldl (fun s t => laterAccess s i (f + t + lat)
            (.l1Fill no e (line + 2 * t) (base + 256 * t) (min 2 (n - 2 * t)) (decide (t + 1 = pairs)))) s) .seq) s

/-- LBINV (R271). -/
def execLbinv (h : Hdr) (a : Code) (s : State) : Host.Outcome State Fault Refusal :=
  let i : Instr := .lbinv h a
  issue h i (fun s => onCore s fun _ _ =>
    .done (s.addEff s.actor (s.now s.actor) (s.origin s.actor i) (.l1Inv ((s.rd a).toNat % 256))) .seq) s

/-- LBWB (R271). -/
def execLbwb (h : Hdr) (a : Code) (s : State) : Host.Outcome State Fault Refusal :=
  let i : Instr := .lbwb h a
  issue h i (fun s => onCore s fun g _ =>
    let e := (s.rd a).toNat % 256
    let x := sget {} (s.core g).l1Dir e
    if !x.valid then .done s .seq
    else
      let n := x.nm1 + 1
      let f := datapathFrom s g
      let lat := if dieOfAddr x.base = dieOf g then 6 else 30
      let pairs := ceilDiv n 2
      let s := s.modCore g fun c => { c with ceFree := f + pairs }
      .done ((List.range pairs).foldl (fun s t => laterAccess s i (f + t + lat)
        (.l1Back e (x.line + 2 * t) (x.base + 256 * t) (min 2 (n - 2 * t)) (decide (t + 1 = pairs)))) s) .seq) s

/-- A directory entry as LBST returns it (03: R81). -/
def lbstValue (x : L1Ent) : Nat :=
  natOfBool x.valid * 2 ^ 63 + natOfBool x.flag * 2 ^ 62 + natOfBool x.anyd * 2 ^ 61 + x.nm1 % 64 * 2 ^ 55
    + x.line % 8192 * 2 ^ 42 + x.base / 128 % 2 ^ 41

/-- LBST (R271). -/
def execLbst (h : Hdr) (d a : Code) (s : State) : Host.Outcome State Fault Refusal :=
  let i : Instr := .lbst h d a
  issue h i (fun s => onCore s fun g _ =>
    .done (s.result i d 1 (BitVec.ofNat 64 (lbstValue (sget {} (s.core g).l1Dir ((s.rd a).toNat % 256))))) .seq) s

/-! ### Rings and awaits (10: R272 to R274) -/

/-- A ring operation's latency to its home ring unit (04: R106). -/
def ringLat (s : State) (g rn : Nat) : Nat :=
  if (s.ring (s.partOfCore g) rn).home = dieOf g then 4 else 28

/-- RCLAIM, RPUB or RREL: FN 0, 1, 2. -/
def ringBody (i : Instr) (fn : Nat) (d a : Code) (x : XS) (s : State) : Body :=
  onCore s fun g q =>
    let n := (s.rd a).toNat
    let far := (s.ring (s.partOfCore g) x.ring.toNat).home ≠ dieOf g
    if 2 ^ 48 ≤ n then trapValue i 1
    else if !destFree s d (ringLat s g x.ring.toNat + if far then 24 else 0) then .wait s
    else
      let id := s.effNo
      let s := access s i (ringLat s g x.ring.toNat) (.ring fn x.ring.toNat n d)
      .done (if fn = 0 then s.modSeqr s.actor fun y => { y with after := sset 0 y.after (seqNum q) id } else s) .seq

/-- RCLAIM (R272). -/
def execRclaim (h : Hdr) (o : A3) (x : XS) (s : State) : Host.Outcome State Fault Refusal :=
  issue h (.rclaim h o x) (ringBody (.rclaim h o x) 0 o.d o.a x) s
/-- RPUB (R272). -/
def execRpub (h : Hdr) (o : A3) (x : XS) (s : State) : Host.Outcome State Fault Refusal :=
  issue h (.rpub h o x) (ringBody (.rpub h o x) 1 39 o.a x) s
/-- RREL (R272). -/
def execRrel (h : Hdr) (o : A3) (x : XS) (s : State) : Host.Outcome State Fault Refusal :=
  issue h (.rrel h o x) (ringBody (.rrel h o x) 2 39 o.a x) s

/-- An await of a kind on the value v and, for AWCMP, the doubleword at addr (R273, R274). -/
def awaitBody (i : Instr) (kind : Nat) (x : XS) (v : DWord) (addr : Nat) (s : State) : Body :=
  onCore s fun g q =>
    let now := s.now s.actor
    let t := s.timedOf s.actor
    let b := 256 * x.bnd.toNat
    let rn := x.ring.toNat
    let checked : Option Body :=
      if t && ((s.core g).tsb + b < now + 33 || 8 ≤ (s.core g).awaits.length) then some (trapValue i 9)
      else if 4 ≤ kind then checkRuns s g 8 [(addr, 8)] false
      else none
    match checked with
    | some bad => bad
    | none =>
      if t then
        let aw : Await := ⟨b, (s.core g).tsb + b, kind, rn, v, addr, s.origin s.actor i⟩
        .done (s.modCore g fun c => { c with awaits := c.awaits ++ [aw] }) .seq
      else if !s.me.fences.isEmpty then .wait s
      else match awaitStop s g kind rn addr (word0Val i) with
      | some (c, d, v) => .trap c d v
      | none =>
      if awaitTrue s g q kind rn v addr then
        .done ((acquire (noteAwait s g (s.origin s.actor i) kind addr) g q 3).modSeqr s.actor fun y => { y with wait0 := none }) .seq
      else .wait (if 4 ≤ kind then s.modSeqr s.actor fun y => { y with wait0 := some (y.wait0.getD s.wcc) } else s)

/-- AWFILL (R273). -/
def execAwfill (h : Hdr) (o : A3) (x : XS) (s : State) : Host.Outcome State Fault Refusal :=
  issue h (.awfill h o x) (fun s => awaitBody (.awfill h o x) 0 x (s.rd o.a) 0 s) s
/-- AWFREE (R273). -/
def execAwfree (h : Hdr) (o : A3) (x : XS) (s : State) : Host.Outcome State Fault Refusal :=
  issue h (.awfree h o x) (fun s => awaitBody (.awfree h o x) 1 x (s.rd o.a) 0 s) s
/-- AWROW (R273). -/
def execAwrow (h : Hdr) (o : A3) (x : XS) (s : State) : Host.Outcome State Fault Refusal :=
  issue h (.awrow h o x) (fun s => awaitBody (.awrow h o x) 2 x (s.rd o.a) 0 s) s
/-- AWWIN (R273). -/
def execAwwin (h : Hdr) (o : A3) (x : XS) (s : State) : Host.Outcome State Fault Refusal :=
  issue h (.awwin h o x) (fun s => awaitBody (.awwin h o x) 3 x (s.rd o.a) 0 s) s

def cmpKind (c : Cmp3) : Nat :=
  match c with
  | .eq => 4
  | .ne => 5
  | .ge => 6

/-- AWCMP (R273). -/
def execAwcmp (h : Hdr) (cnd : Cmp3) (o : A3) (x : XS) (s : State) : Host.Outcome State Fault Refusal :=
  issue h (.awcmp h cnd o x)
    (fun s => awaitBody (.awcmp h cnd o x) (cmpKind cnd) x (s.rd o.a) (s.rd o.b).toNat s) s

/-! ### Phases, fences, atomics, monitors (10: R275 to R279) -/

/-- PHASE: the barrier of R47 acts once every member has issued it; in tokened code K waits for it (R275). -/
def execPhase (h : Hdr) (lev : B2) (s : State) : Host.Outcome State Fault Refusal :=
  issue h (.phase h lev) (fun s => onCore s fun g _ =>
    let t := s.timedOf s.actor
    .done (s.modCore g fun c => { c with phWait := some lev.toNat, phAt := s.now s.actor, phPc := s.me.pc, phHold := !t }) .seq) s

/-- PSET (R276). -/
def execPset (h : Hdr) (eng : B2) (wr : Bool) (idx : B3) (a b : Code) (s : State) :
    Host.Outcome State Fault Refusal :=
  issue h (.pset h eng wr idx a b) (fun s => onCore s fun g _ =>
    let k := 32 * eng.toNat + 8 * natOfBool wr + idx.toNat
    let n := (s.rd b).toNat
    .done (s.modCore g fun c => { c with
      psets := if n = 0 then erase c.psets k else insert c.psets k ((s.rd a).toNat, n) }) .seq) s

/-- FENCE: in tokened code it stands before every later access until it is complete (R277; 04: R115, R116). -/
def execFence (h : Hdr) (scope : B3) (v : B2) (s : State) : Host.Outcome State Fault Refusal :=
  issue h (.fence h scope v) (fun s =>
    if s.timedOf s.actor then .done s .seq
    else
      match s.actor with
      | .core _ _ | .mgmt =>
        let f : Fence := ⟨s.effNo, scope.toNat, v.toNat⟩
        .done (({ s with effNo := s.effNo + 1 } : State).modSeqr s.actor fun q =>
          { q with fences := q.fences ++ [f] }) .seq
      | _ => .done s .seq) s

/-- BRMW (R278). -/
def execBrmw (h : Hdr) (o : A3) (x : XB) (s : State) : Host.Outcome State Fault Refusal :=
  let i : Instr := .brmw h o x
  issue h i (fun s => onCore s fun g _ =>
    let w := if x.w = 3 then 8 else 4
    let a := (s.rd o.a).toNat
    match checkRuns s g w [(a, w)] false with
    | some b => b
    | none =>
      let late := if regionOf a ≠ .spad g && dieOfAddr a ≠ dieOf g then 26 else 2
      if !destFree s o.d (rmwLat g a + late) then .wait s
      else .done (access s i (rmwLat g a) (.rmw o.d a w x.op.toNat x.u (s.rd o.b) (s.rd x.c))) .seq) s

/-- MONWAIT (R279; 02: R68). -/
def execMonwait (h : Hdr) (a : Code) (s : State) : Host.Outcome State Fault Refusal :=
  let i : Instr := .monwait h a
  issue h i (fun s =>
    if s.timedOf s.actor then .done s .seq
    else
      let p : Park := ⟨sectorOf (s.rd a).toNat, s.now s.actor + 4096⟩
      let s := s.modSeqr s.actor fun q => { q with park := some p }
      .done (s.addEff s.actor (s.now s.actor) (s.origin s.actor i) (.csrAdd (seqOf s.actor) csrMoncnt)) .seq) s

/-- The parked sequencer of an actor resumes: its sector has been written, or 4,096 sc have passed. -/
def resumeDue (s : State) (a : Actor) : Bool :=
  match (s.seqr a).park with
  | some p => decide (p.upTo ≤ s.now a) && s.unitRuns a
  | none => false

/-- MONITOR_RESUME (R68). -/
def execMonitorResume (s : State) : Host.Outcome State Fault Refusal :=
  if resumeDue s s.actor then .next (s.modSeqr s.actor fun q => { q with park := none })
  else .fault (.notDue "MONITOR_RESUME")

end Sys2Proof.Machine
end

