-- ==== Sys2Proof/Machine/Control.lean ====
section
/-! DEFINITION. The meanings of branches, jumps, the loop engine, QUAL and the system instructions, and of marks that
drain (07: R182 to R189, R196 to R200; 18: R434). -/

namespace Sys2Proof.Machine

/-! ### Branches and jumps (R182 to R184) -/

/-- BR (R182). -/
def execBr (h : Hdr) (off : B18) (s : State) : Host.Outcome State Fault Refusal :=
  issue h (.br h off) (branchBody off fun _ => true) s
/-- BZ (R182). -/
def execBz (h : Hdr) (d : Code) (off : B12) (s : State) : Host.Outcome State Fault Refusal :=
  issue h (.bz h d off) (branchBody off fun s => decide (s.rd d = 0)) s
/-- BNZ (R182). -/
def execBnz (h : Hdr) (d : Code) (off : B12) (s : State) : Host.Outcome State Fault Refusal :=
  issue h (.bnz h d off) (branchBody off fun s => decide (s.rd d ≠ 0)) s
/-- BLT (R182). -/
def execBlt (h : Hdr) (a b : Code) (off : B28) (s : State) : Host.Outcome State Fault Refusal :=
  issue h (.blt h a b off) (branchBody off fun s => ltS (s.rd a) (s.rd b)) s
/-- BGE (R182). -/
def execBge (h : Hdr) (a b : Code) (off : B28) (s : State) : Host.Outcome State Fault Refusal :=
  issue h (.bge h a b off) (branchBody off fun s => !ltS (s.rd a) (s.rd b)) s
/-- BLTU (R182). -/
def execBltu (h : Hdr) (a b : Code) (off : B28) (s : State) : Host.Outcome State Fault Refusal :=
  issue h (.bltu h a b off) (branchBody off fun s => ltU (s.rd a) (s.rd b)) s
/-- BGEU (R182). -/
def execBgeu (h : Hdr) (a b : Code) (off : B28) (s : State) : Host.Outcome State Fault Refusal :=
  issue h (.bgeu h a b off) (branchBody off fun s => !ltU (s.rd a) (s.rd b)) s

/-- The head of the queue that BQS names: none where it is empty, else whether its poison word is nonzero. -/
def queueHead (s : State) (g : Nat) (q : Code) : Option Bool :=
  if q = 57 then (s.core g).dq.head?.map fun _ => false
  else match queueOfCode s g q with
    | some n => ((s.core (queueHome s g n)).queue n).head?.map fun e => decide (e.poison ≠ 0)
    | none => none

/-- BQS's condition: 0 P, 1 NP, 2 E, 3 NE. -/
def bqsTaken (head : Option Bool) (cnd : B2) : Bool :=
  match cnd.toNat, head with
  | 0, some p => p
  | 1, some p => !p
  | 2, h => h.isNone
  | 3, h => h.isSome
  | _, none => false
  | _, some _ => false

/-- BQS (R183). An LBP fails check 8 on it (18: R434). The management controller has no queues either, and the spec gives BQS
no effect there: it is not taken, whatever its condition (the model's choice, log entry 93). -/
def execBqs (h : Hdr) (q : Code) (cnd : B2) (off : B28) (s : State) : Host.Outcome State Fault Refusal :=
  issue h (.bqs h q cnd off) (branchBody off fun s =>
    match s.actor with
    | .core g _ => bqsTaken (queueHead s g q) cnd
    | _ => false) s

/-- JAL (R184). -/
def execJal (h : Hdr) (off : B18) (s : State) : Host.Outcome State Fault Refusal :=
  let i : Instr := .jal h off
  issue h i (fun s => .done (s.result i 38 1 (BitVec.ofNat 64 (s.me.pc + 4))) (.jump (wordTarget s.me.pc off))) s

/-- JR (R184; 18: R434). -/
def execJr (h : Hdr) (a : Code) (s : State) : Host.Outcome State Fault Refusal :=
  issue h (.jr h a) (fun s =>
    let t : Nat := (s.rd a).toNat % 2 ^ 32
    if t % 4 = 0 then .done s (.jump t) else .trap .bounds 2 (BitVec.ofNat 64 t)) s

/-! ### The loop engine (R185 to R189) -/

/-- Level lev of the issuing sequencer. -/
def State.level (s : State) (lev : B3) : LoopLev := sget {} s.me.loops lev.toNat

/-- The number of the next activation: one more than every activation of the core so far. -/
def nextAct (s : State) : Nat :=
  match s.actor with
  | .core g _ => (s.core g).actNo + 1
  | _ => s.me.loops.foldl (fun m e => max m e.2.ord) 0 + 1

/-- The pairs that LOOP reads: target register and stride. -/
def loopPairs (s : State) (nstr : B3) (sb : B6) : List (BitVec 5 × BitVec 56) :=
  (List.range nstr.toNat).map fun j =>
    let w := s.rd (sb + BitVec.ofNat 6 j)
    (w.setWidth 5, (w >>> 8).setWidth 56)

/-- The level is activated with its count, its body and its pairs. -/
def activate (s : State) (lev : B3) (x : LoopLev) : State :=
  let s := s.modSeqr s.actor fun q => { q with loops := sset {} q.loops lev.toNat { x with ord := nextAct s } }
  match s.actor with
  | .core g _ => s.modCore g fun c => { c with actNo := c.actNo + 1 }
  | _ => s

/-- LOOP (R186). -/
def execLoop (h : Hdr) (lev nstr : B3) (cnt : Code) (sb : B6) (blen : B16) (s : State) :
    Host.Outcome State Fault Refusal :=
  let i : Instr := .loop h lev nstr cnt sb blen
  issue h i (fun s =>
    let pc := s.me.pc
    let n := (s.rd cnt).toNat
    if (s.level lev).act then .trap .illegalOperand 0x0608 (word0Val i)
    else if n = 0 then .done s (.goto (pc + 8 + 4 * blen.toNat))
    else .done (activate s lev {
        act := true, n := n, trip := 0, start := pc + 8, fin := pc + 8 + 4 * (blen.toNat - 1), pairs := loopPairs s nstr sb }) .seq) s

/-- Level lev ends, and with it every active level that was activated after it. -/
def endLevels (q : Seqr) (ord : Nat) : Seqr :=
  { q with loops := (List.range 6).foldl (fun m l =>
      let x := sget {} m l
      if x.act && ord ≤ x.ord then sset {} m l { x with act := false, trip := 0 } else m) q.loops }

/-- LBRK: `cancel` for LBRK.C, which discards the level's commands that have not started (R189): those issued in its present
activation (the model's choice, log entry 91). -/
def lbrkBody (i : Instr) (lev : B3) (cancel : Bool) (s : State) : Body :=
  let x := s.level lev
  if !x.act then .trap .illegalOperand 0x0608 (word0Val i)
  else
    let s' := s.modSeqr s.actor fun q => endLevels q x.ord
    let s' := match s.actor, cancel with
      | .core g _, true => s'.modCore g fun c => cancelAll c (s.now s.actor) fun levs => levs.contains x.ord
      | _, _ => s'
    .done s' (.goto (x.fin + 4))

/-- LBRK.C (R189). -/
def execLbrkC (h : Hdr) (lev : B3) (s : State) : Host.Outcome State Fault Refusal :=
  issue h (.lbrkC h lev) (lbrkBody (.lbrkC h lev) lev true) s
/-- LBRK.D (R189). -/
def execLbrkD (h : Hdr) (lev : B3) (s : State) : Host.Outcome State Fault Refusal :=
  issue h (.lbrkD h lev) (lbrkBody (.lbrkD h lev) lev false) s

/-- QUAL.F (R188). -/
def execQualF (h : Hdr) (lev : B3) (s : State) : Host.Outcome State Fault Refusal :=
  issue h (.qualF h lev) (fun s =>
    let x := s.level lev
    .done s (.qual (!x.act || decide (x.trip = 0)))) s
/-- QUAL.L (R188). -/
def execQualL (h : Hdr) (lev : B3) (s : State) : Host.Outcome State Fault Refusal :=
  issue h (.qualL h lev) (fun s =>
    let x := s.level lev
    .done s (.qual (!x.act || decide (x.trip + 1 = x.n)))) s

/-! ### System instructions (R196 to R200) -/

/-- HALT (R196). -/
def execHalt (h : Hdr) (s : State) : Host.Outcome State Fault Refusal :=
  issue h (.halt h) (fun s => .done s .halt) s

/-- TRAP (R198). -/
def execTrap (h : Hdr) (code : B15) (s : State) : Host.Outcome State Fault Refusal :=
  issue h (.trap h code) (fun s => .done s (.trap code.toNat)) s

/-- What ERET does (R198; 16: R396; 17: R426): the core resumes, or asks the walker for an action, which breaks the
domain of a core that had not broken it. -/
def eretBody (i : Instr) (s : State) : Body :=
  onCore s fun g _ =>
    let x := s.core g
    let cause := csrNat x.k csrTrapcause
    let act := bits cause 63 62
    if !x.trap.inHandler then .trap .illegalOp 5 (word0Val i)
    else if !x.trap.brk && act = 0 then .done (resumeCore s g) .stay
    else
      let s := s.modCore g fun x => { x with trap := { x.trap with handlerDone := true } }
      let s := if x.trap.brk then s else startBreak s g (s.now s.actor)
      .done (askAction s g (if act = 0 then 1 else act)) .stay

/-- ERET (R198). -/
def execEret (h : Hdr) (s : State) : Host.Outcome State Fault Refusal := issue h (.eret h) (eretBody (.eret h)) s

/-- DBG stops the core: in tokened code, with DBGCTL.EN, and with no sequencer of the core in a timed segment. -/
def dbgBody (s : State) : Body :=
  match s.actor with
  | .core g _ =>
    let x := s.core g
    let v := csrNat x.k csrDbgctl
    if !s.timedOf s.actor && v % 2 = 1 && !coreTimed x then
      .done (s.setCore g { x.hwSet csrDbgctl 1 1 1 with trap := { x.trap with dbgStop := some (s.now s.actor) } }) .seq
    else .done s .seq
  | _ => .done s .seq

/-- DBG (R199). -/
def execDbg (h : Hdr) (code : B15) (s : State) : Host.Outcome State Fault Refusal := issue h (.dbg h code) dbgBody s

/-- Every command of both engines has completed, in an earlier cycle than t. -/
def enginesIdle (x : Core) (t : Nat) : Bool :=
  ((allMe x).all fun m => match m.doneAt with
    | some d => decide (d < t)
    | none => false) &&
  (allCe x).all fun c => match c.doneAt with
    | some d => decide (d < t)
    | none => false

/-- The operand, result and deferral queues are empty, and nothing is on its way to them. -/
def queuesEmpty (x : Core) : Bool :=
  (x.queues.all fun e => e.2.isEmpty) && x.cq.isEmpty && x.dq.isEmpty && x.onWay.isEmpty && x.dqOnWay = 0

/-- An access that has a scalar, vector or queue result. -/
def hasResult (m : MemOp) : Bool :=
  match m with
  | .ring fn _ _ d => decide (fn = 0) && decide (d ≠ 39)
  | .tag _ _ _ => false
  | m => isLoad m

/-- A scalar, vector or queue result of the core is still to land (07: R177; 16: R395): one of number below `before`,
where that is given (07: R198). -/
def resultsPending (s : State) (g : Nat) (before : Option Nat := none) : Bool :=
  let x := s.core g
  let old (id : Nat) : Bool := match before with
    | some n => decide (id < n)
    | none => true
  (x.pend.any fun l => old l.id && (match l.eff with
    | .reg _ _ _ | .regAdd _ _ _ | .vrf _ | .vrfRun _ _ | .vrfBits _ _ _ _ | .mask _ _ _ | .push _ _ | .pushTo _ _ | .dq _
    | .cqPop _ _ _ | .wrqChunk _ _ _ | .qpop _ _ _ _ => true
    | .perform m => hasResult m
    | _ => false))
  || (x.vops.any fun v => old v.id)
  || s.reqs.any fun r => old r.id && (match r.own with
      | .core h _ => h = g
      | _ => false) && hasResult r.op

/-- Tasks besides t that are pre-empted, or on their way there, and have core g among their members: the depth of nesting
on that core (02: R63, R64). -/
def nestDepth (s : State) (t g : Nat) : Nat :=
  (s.tasks.filter fun e => e.1 ≠ t && (e.2.st = .preempted || e.2.st = .saving || e.2.st = .restoring)
    && e.2.members.contains g).length

/-- Every die that task t has a core on has a context area (02: R64). -/
def hasContext (s : State) (t : Nat) : Bool :=
  let k := s.task t
  k.members.all fun g => s.fieldOf (offPart k.part (rPctx (dieOf g))) 51 40 ≠ 0

/-- Task t may be pre-empted, and a higher launch for one of its cores is pending (02: R61 to R64). -/
def preemptible (s : State) (t : Nat) : Bool :=
  higherPending s t && ((s.task t).members.all fun g => nestDepth s t g < 4) && hasContext s t

/-- What SAFEPT does: the boundary it names is noted in timed code (02: R61); in tokened code the core stops where a
higher launch is pending (R62). Results that other slots issued in this same cycle are pending too (the model's choice,
log entry 106). -/
def safeptBody (i : Instr) (bnd : B16) (s : State) : Body :=
  onCore s fun g _ =>
    let x := s.core g
    let pc := s.me.pc
    let now := s.now s.actor
    let b := 256 * bnd.toNat
    let t := x.task.getD 0
    if s.timedOf s.actor then
      if x.tsb + b < now + 33 then .trap .illegalOperand 0x0608 (word0Val i)
      else .done (s.setCore g { x with safepts := (x.safepts.filter fun e => now < x.tsb + e.1) ++ [(b, pc)] }) .seq
    else if (s.task t).slen ≠ 0 then .trap .illegalOperand 0x0608 (word0Val i)
    else if !(enginesIdle x now && queuesEmpty x) || resultsPending s g then .wait s
    else if preemptible s t then .done (s.setCore g { x with safept := some 0, safeptPc := pc }) .seq
    else .done s .seq

/-- SAFEPT (R197). -/
def execSafept (h : Hdr) (bnd : B16) (s : State) : Host.Outcome State Fault Refusal :=
  issue h (.safept h bnd) (safeptBody (.safept h bnd) bnd) s

/-- The mark buffer of a core (R200). -/
def capMarks : Nat := 16

/-- A mark placed after the marks of earlier cycles and, in its own cycle, in the order K, L, C, S. -/
def insertMark (m : Mark) : List Mark → List Mark
  | [] => [m]
  | n :: l => if n.wcc = m.wcc && seqNum m.q < seqNum n.q then m :: n :: l else n :: insertMark m l

/-- What BBMARK does: of the marks that find no room, each counts in BBLOST. A mark enters the buffer before the cycle's
drain (the model's choice, log entry 95). The management controller, which has no core's buffer, marks the sheet behind the
cycle's other events with PART 4, SRC 0 and sequencer 0 (the model's choice, log entry 95). -/
def markBody (i : Instr) (a : Code) (code : B12) (s : State) : Body :=
  if s.actor = .mgmt then .done (csEvent s 9 4 0 0 code.toNat (s.rd a).toNat) .seq
  else onCore s fun g q =>
    let x := s.core g
    let m : Mark := ⟨q, code, s.rd a, s.now s.actor, s.wcc⟩
    let l := insertMark m x.marks
    let s := s.setCore g { x with marks := l.take capMarks }
    .done (if capMarks < l.length then s.addEff s.actor (s.now s.actor) (s.origin s.actor i) (.csrAdd .k csrBblost) else s) .seq

/-- BBMARK (R200). -/
def execBbmark (h : Hdr) (a : Code) (code : B12) (s : State) : Host.Outcome State Fault Refusal :=
  issue h (.bbmark h a code) (markBody (.bbmark h a code) a code) s

/-- The mark that core g's buffer drains in this wall cycle: one mark a cycle, behind the cycle's other events. -/
def markDue (s : State) (g : Nat) : Option Mark :=
  let x := s.core g
  if s.worked && x.drainAt ≤ s.wcc then x.marks.head? else none

/-- The record of a mark (16: R401). -/
def markBytes (s : State) (g : Nat) (m : Mark) : Bytes :=
  natLe 4 (9 + s.partOfCore g * 2 ^ 8 + seqNum m.q * 2 ^ 11 + g * 2 ^ 16) ++ natLe 4 m.code.toNat
    ++ natLe 8 m.wcc ++ natLe 8 m.scc ++ natLe 8 m.v.toNat

/-- MARK_DRAIN (R200; 16: R401). -/
def execMarkDrain (s : State) : Host.Outcome State Fault Refusal :=
  match markDue s s.unit with
  | some m =>
    let g := s.unit
    let s := csWrite (csFlush s) (markBytes s g m)
    .next (s.modCore g fun x => { x with marks := x.marks.tail, drainAt := s.wcc + 1 })
  | none => .fault (.notDue "MARK_DRAIN")

end Sys2Proof.Machine
end

