-- ==== Sys2Proof/Machine/Recovery.lean ====
section
/-! DEFINITION. The course of a trap and of a broken domain (16: R395, R396, R402; 17: R406, R408, R411, R426), phase
changes (02: R47, R48), and the end of a register group's wake (03: R72). -/

namespace Sys2Proof.Machine

/-! ### Handler entry (16: R395) -/

/-- K of core g enters its handler in this cycle: two cycles after the trap, or once its results have landed. -/
def entryDue (s : State) (g : Nat) : Bool :=
  let x := s.core g
  !s.held (s.partOfCore g) && !x.trap.inHandler && !x.frozen && (match x.trap.handlerAt with
    | some e => decide (e ≤ s.sccOf (s.partOfCore g))
    | none => false) && !resultsPending s g x.trap.before

/-- TRAP_HANDLER_ENTRY (R395). -/
def execTrapHandlerEntry (s : State) : Host.Outcome State Fault Refusal :=
  if entryDue s s.unit then .next (enterHandler s s.unit) else .fault (.notDue "TRAP_HANDLER_ENTRY")

/-! ### The break of a domain (16: R395; 17: R408, R409) -/

/-- ORIG of a core whose domain has broken. -/
def setOrig (x : Core) (orig : Nat) : Core :=
  x.hwSet csrTrapcause 59 52 orig

/-- TRAPCAUSE, TRAPPC and TRAPVAL of what broke a domain, as core src holds them. -/
def causeOf (s : State) (src : Nat) : Nat × Nat × DWord :=
  let k := (s.core src).k
  (csrNat k csrTrapcause, csrNat k csrTrappc, getCsr k csrTrapval)

/-- Member h stops as its domain breaks: a member that has trapped keeps its cause; any other takes `cause`, as remote
where `remote h`, issues nothing after cycle `last`, and enters its handler at `at_`. One that has retired its last
iteration runs none. -/
def stopMember (s : State) (orig : Nat) (cause : Nat × Nat × DWord) (last at_ : Nat) (remote : Nat → Bool) (h : Nat) : State :=
  let x := s.core h
  if x.st = .wait then s
  else if x.trap.stopAfter.isSome then s.setCore h (setOrig (markBreak x) orig)
  else
    let c := cause.1
    let new := trapcauseOf true (remote h) orig (seqOfNum (bits c 51 50)) (bits c 47 32) (c % 65536)
    s.setCore h { x.hwTrap new cause.2.1 cause.2.2 with
      trap := { x.trap with stopAfter := some last, handlerAt := some at_, brk := true } }

/-- The domain of task t breaks: its members stop, commands that have not started are discarded, and its DCSs issue
no further stream command and precharge (step 5). -/
def breakMembers (s : State) (t : Nat) (cause : Nat × Nat × DWord) (last at_ : Nat) (remote : Nat → Bool) : State :=
  let k := s.task t
  let s := k.members.foldl (fun s h => stopMember s k.brkOrig cause last at_ remote h) s
  let s := k.members.foldl (fun s h => s.modCore h fun x =>
    let y := if x.st = .wait then x else cancelAll x (last + 1) fun _ => true
    { y with trap := { y.trap with breakAt := none } }) s
  { s with dcs := s.dcs.map fun e =>
      if e.2.task = some t then (e.1, { e.2 with closing := [0, 1], seqr := { e.2.seqr with run := false } }) else e }

/-- The break of core g's domain reaches its members in this cycle. -/
def breakDue (s : State) (g : Nat) : Option (Nat × Nat) :=
  let x := s.core g
  match x.task, x.trap.breakAt with
  | some t, some b => if b ≤ s.sccOf (s.partOfCore g) && !s.held (s.partOfCore g) then some (t, b) else none
  | _, _ => none

/-- DOMAIN_BREAK (R395). -/
def execDomainBreak (s : State) : Host.Outcome State Fault Refusal :=
  match breakDue s s.unit with
  | some (t, b) =>
    let orig := (s.task t).brkOrig
    .next (breakMembers s t (if orig < 96 then causeOf s orig else (s.task t).brkCause) (b - 1) (b + 1) fun h => h ≠ orig)
  | none => .fault (.notDue "DOMAIN_BREAK")

/-! ### Recovery by the walker (16: R396, R402) -/

/-- Every member of task t that runs a handler has asked for an action, after a break. -/
def recoveryDue (s : State) (t : Nat) : Bool :=
  let k := s.task t
  (look s.tasks t).isSome && k.broken && !s.held k.part && k.members.all fun g =>
    let x := s.core g
    x.trap.breakAt.isNone && (x.st = .wait || (look k.dead g).isSome)

/-- The largest ACT asked for, at least 1, raised by the limits of R402. -/
def actionOf (s : State) (t : Nat) : Nat :=
  let k := s.task t
  let a := k.dead.foldl (fun m e => max m (e.2 - 1)) 1
  let a := if a = 1 && k.members.any (fun g => (s.core g).st ≠ .wait && 2 ≤ (s.core g).replays) then 2 else a
  if a = 2 && 1 ≤ k.restarts then 3 else a

/-- The registrations of a broken domain's members are gone (log entry 22). -/
def clearAwaits (s : State) (t : Nat) : State :=
  (s.task t).members.foldl (fun s g => s.modCore g fun x => { x with awaits := [] }) s

/-- ACT 1: the current iteration of each member is handed off again. -/
def replayTask (s : State) (t : Nat) : State :=
  (s.task t).members.foldl (fun s g =>
    let x := s.core g
    if x.st = .wait then s
    else
      let s := s.setCore g { x with replays := x.replays + 1 }
      handOff s t g x.rank x.iter) s

/-- ACT 2: the task begins again at k = 0 on every rank. -/
def restartTask (s : State) (t : Nat) : State :=
  handAll (s.modTask t fun k => { k with st := .running, nextK := [], restarts := k.restarts + 1, restartMark := false }) t

/-- ACT 3: the task is done, and a fault record of core src says so. -/
def abandonTask (s : State) (t src code : Nat) : State :=
  let k := s.task t
  let s := record s {
    det := 19, sev := 2, part := k.part, ukind := 0, unit := src, code := code, detail := 3, tid := k.tid
    iter := (s.core src).iter }
  completeTask s t false true

/-- The event of a recovery action (16: R401). -/
def recoveryEvent (s : State) (t act : Nat) : State :=
  let k := s.task t
  csEvent s 6 k.part 0 (k.members.headD 0) act 0

/-- The walker applies an action. -/
def recover (s : State) (t : Nat) : State :=
  let a := actionOf s t
  let k := s.task t
  let src := if k.brkOrig < 96 then k.brkOrig else k.members.headD 0
  let s := (clearAwaits (recoveryEvent s t a) t).modTask t fun k => { k with broken := false, dead := [] }
  match a with
  | 1 => replayTask s t
  | 2 => restartTask s t
  | _ => abandonTask s t src (csrNat (s.core src).k csrTrapcause % 65536)

/-- WALKER_RECOVERY (R396). -/
def execWalkerRecovery (s : State) : Host.Outcome State Fault Refusal :=
  if recoveryDue s s.unit then .next (recover s s.unit) else .fault (.notDue "WALKER_RECOVERY")

/-! ### Timed segments that are not reached (17: R406) -/

/-- The timed segment, after a tokened one, whose first cycle this is and which the sequencer at pc has not
reached. -/
def missedSeg (q : Seqr) (tsb now pc : Nat) : List Seg → Option Seg
  | a :: b :: l =>
    if b.timed && !a.timed && decide (tsb + b.t0 = now) && (decide (pc < b.start) || (decide (pc = b.start) && decide (now < q.nextAt)))
        && decide (q.missed ≠ some b.start) then some b
    else missedSeg q tsb now pc (b :: l)
  | _ => none

/-- The segment that sequencer q of core g has missed in this cycle. -/
def deadlineDue (s : State) (a : Actor) : Option Seg :=
  match a with
  | .core g q =>
    let x := s.core g
    let y := x.seqr q
    let inH := q = .k && x.trap.inHandler
    let pc := if inH then csrNat x.k csrKepc else y.pc
    let run := if inH then x.trap.kRun else y.run
    if run && !s.held (s.partOfCore g) && !x.frozen && x.task.isSome then missedSeg y x.tsb (s.now a) pc y.segs else none
  | _ => none

/-- SCHED_SEGMENT_DEADLINE (R406). -/
def execSchedSegmentDeadline (s : State) : Host.Outcome State Fault Refusal :=
  match s.actor, deadlineDue s s.actor with
  | .core g q, some seg =>
    let y := (s.core g).seqr q
    let w := leNat (s.readView (dieOf g) (y.base + y.pc) 4)
    let s := s.modSeqr s.actor fun z => { z with missed := some seg.start }
    .next (takeTrap s g (s.now s.actor) .sched 8 (BitVec.ofNat 64 w) q y.pc true)
  | _, _ => .fault (.notDue "SCHED_SEGMENT_DEADLINE")

/-! ### Phase changes (02: R47, R48; 17: R411) -/

/-- A declared range of an engine: the member that holds it, the engine, whether it is written, its address and
length. -/
structure SetRange where
  g : Nat
  eng : Nat
  wr : Bool
  base : Nat
  len : Nat
  deriving DecidableEq, Repr

def declared (s : State) (g : Nat) : List SetRange :=
  (s.core g).psets.map fun e => ⟨g, e.1 / 32, e.1 / 8 % 2 = 1, e.2.1, e.2.2⟩

/-- The overlaps of a write set with another engine's set: lowest common address, the write, the other range. -/
def overlaps (l : List SetRange) : List (Nat × SetRange × SetRange) :=
  (l.filter fun w => w.wr).flatMap fun w => l.filterMap fun r =>
    if (r.g ≠ w.g || r.eng ≠ w.eng) && runsMeet (w.base, w.len) (r.base, r.len) then some (max w.base r.base, w, r) else none

/-- The first of the overlaps with the lowest address. -/
def firstOverlap (l : List (Nat × SetRange × SetRange)) : Option (Nat × SetRange × SetRange) :=
  match (l.map (·.1)).min? with
  | some m => l.find? fun x => x.1 = m
  | none => none

/-- The barrier of level lev that core g, the lowest of its domain, has come to with every other member. -/
def phaseDue (s : State) (g : Nat) : Option (Nat × List Nat) :=
  match (s.core g).phWait with
  | none => none
  | some lev =>
    let ms := s.members lev g
    let last := ms.foldl (fun m h => max m (s.core h).phAt) 0
    if ms.head? = some g && ms.all (fun h => (s.core h).phWait = some lev && !(s.core h).frozen)
        && !s.held (s.partOfCore g) && last + levLatency lev ≤ s.sccOf (s.partOfCore g) then some (lev, ms) else none

/-- The phase of every member changes. -/
def changePhase (s : State) (ms : List Nat) : State :=
  ms.foldl (fun s h => s.modCore h fun x => { x with phNum := x.phNum + 1, phWait := none, phHold := false }) s

/-- The sets overlap: no phase changes, and every member traps (17: R411). -/
def refusePhase (s : State) (ms : List Nat) (all : List (Nat × SetRange × SetRange)) (o : Nat × SetRange × SetRange) :
    State :=
  let orig := (all.foldl (fun m x => min m (min x.2.1.g x.2.2.g)) o.2.1.g)
  let detail := o.2.1.eng + o.2.2.eng * 4 + natOfBool (!o.2.2.wr) * 16 + (s.core o.2.2.g).rank % 256 * 256
  let s := ms.foldl (fun s h =>
    let x := s.core h
    let s := s.setCore h { x with phWait := none, phHold := false }
    let s := takeTrap s h (s.sccOf (s.partOfCore h)) .phaseOverlap detail (BitVec.ofNat 64 o.1) .k x.phPc (timedAt x.k x.phPc)
    s.modCore h fun x => if csrNat x.k csrTrapcause % 65536 = causeCode .phaseOverlap then setOrig x orig else x) s
  match (s.core orig).task with
  | some t => s.modTask t fun k => { k with brkOrig := orig }
  | none => s

/-- PHASE_CHANGE (R47). -/
def execPhaseChange (s : State) : Host.Outcome State Fault Refusal :=
  match phaseDue s s.unit with
  | some (_, ms) =>
    let all := overlaps (ms.flatMap (declared s))
    (match firstOverlap all with
     | some o => .next (refusePhase s ms all o)
     | none => .next (changePhase s ms))
  | none => .fault (.notDue "PHASE_CHANGE")

/-! ### Waking (03: R72) -/

/-- Group j of core g has finished waking. -/
def wakeDone (s : State) (g j : Nat) : Bool :=
  match look (s.core g).wake j with
  | some w => decide (w.1 ≤ s.sccOf (s.partOfCore g)) && !s.held (s.partOfCore g)
  | none => false

/-- VRF_WAKE_DONE (R72): a group that wakes from gated reads as zeros. -/
def execVrfWakeDone (s : State) : Host.Outcome State Fault Refusal :=
  if wakeDone s s.unit s.sub then .next (s.modCore s.unit fun x =>
    let y := if powerOf x (8 * s.sub) = 2 then clearGroup x s.sub else x
    { y with wake := erase y.wake s.sub })
  else .fault (.notDue "VRF_WAKE_DONE")

end Sys2Proof.Machine
end

