-- ==== Sys2Proof/Machine/Holds.lean ====
section
/-! DEFINITION. Holds of schedule time (02: R24, R39 to R43, R60; 17: R408 to R410; 19: R459): horizons, the start and
the end of a hold, throttle slots and levels, and the two budgets. -/

namespace Sys2Proof.Machine

def Part.withHold (x : Part) (f : Hold → Hold) : Part := { x with hold := f x.hold }

/-! ### Throttle slots (R41) -/

/-- Slot j of a frame at level n is idle. -/
def slotIdle (n j : Nat) : Bool := (j + 1) * n / 16 - j * n / 16 = 1

/-- The written level that takes effect at boundary b: the last one written at least 32 sc before it. -/
def levelAt (x : Part) (b : Nat) : Option Nat := ((x.newLevel.filter fun e => e.2 + 32 ≤ b).getLast?).map (·.1)

/-- An idle slot begins at the next boundary b. -/
def idleNext (x : Part) (b : Nat) : Bool :=
  match levelAt x b with
  | some n => slotIdle n 0
  | none => slotIdle x.level ((x.pos + 1) % 16)

/-! ### Awaits registered for a boundary (R40) -/

/-- The domain of the core's task has broken: it comes to no further boundary (16: R395; log entry 22). -/
def coreBroken (s : State) (x : Core) : Bool :=
  match x.task with
  | some t => (s.task t).broken
  | none => false

/-- The registered awaits of partition p for the boundary at SCC b, of cores whose domain has not broken. -/
def awaitsFor (s : State) (p b : Nat) : List (Nat × Await) :=
  s.cores.flatMap fun e =>
    if s.partOfCore e.1 = p && !coreBroken s e.2 then
      (e.2.awaits.filter fun a => a.at_ = b).map fun a => (e.1, a)
    else []

def awaitOk (s : State) (e : Nat × Await) : Bool := awaitTrue s e.1 e.2.org.q e.2.kind e.2.ring e.2.x e.2.addr

/-- The registrations for boundary b that are false. -/
def falseAwaits (s : State) (p b : Nat) : List (Nat × Await) := (awaitsFor s p b).filter fun e => !awaitOk s e

/-- Registration a of core g is gone. -/
def dropAwait (s : State) (g : Nat) (a : Await) : State :=
  s.modCore g fun x => { x with awaits := x.awaits.filter fun y => y ≠ a }

/-- Core x runs a task that stops at this boundary: its registrations for it are kept with its context (02: R65). -/
def stopping (s : State) (p : Nat) (x : Core) : Bool :=
  match x.task with
  | some t => (s.part p).preempt.contains t
  | none => false

/-- The registrations of partition p for boundaries up to SCC b are gone; those for b are released, which is an acquire
(04: R111; 10: R273). -/
def dropAwaits (s : State) (p b : Nat) : State :=
  let s := (awaitsFor s p b).foldl (fun s e => acquire s e.1 e.2.org.q 3) s
  { s with cores := s.cores.map fun e =>
      if s.partOfCore e.1 = p && !stopping s p e.2 then
        (e.1, { e.2 with awaits := e.2.awaits.filter fun a => b < a.at_ }) else e }

/-! ### The horizon (R40; R61) -/

/-- Partition p has come to the horizon of the next boundary. -/
def horizonDue (s : State) (p : Nat) : Bool :=
  let x := s.part p
  p < 4 && x.scc % 256 = 224 && !x.hold.held && x.horizonDone ≠ x.scc + 32

/-- The tasks of partition p that stop at boundary b: every member that goes on names b by its SAFEPT. -/
def stopsAt (s : State) (p b : Nat) : List Nat :=
  (s.tasks.filter fun e => e.2.part = p && e.2.st = .running && !e.2.broken
    && (e.2.members.any fun g => (s.core g).st ≠ .wait)
    && (e.2.members.all fun g =>
      let x := s.core g
      x.st = .wait || (x.safepts.any fun o => x.tsb + o.1 = b))
    && preemptible s e.1).map (·.1)

/-- A registration that its first evaluation stops traps its sequencer, where its core still runs an iteration (18: R440). -/
def trapBadAwaits (s : State) (l : List (Nat × Await)) : State :=
  l.foldl (fun s e =>
    match awaitStop s e.1 e.2.kind e.2.ring e.2.addr (e.2.org.w0.setWidth 64) with
    | none => noteAwait s e.1 e.2.org e.2.kind e.2.addr
    | some (c, d, v) =>
      if (s.core e.1).st = .wait then dropAwait s e.1 e.2
      else takeTrap (dropAwait s e.1 e.2) e.1 (s.sccOf (s.partOfCore e.1)) c d v e.2.org.q e.2.org.pc e.2.org.timed) s

/-- AWAIT_HORIZON (R40). -/
def execAwaitHorizon (s : State) : Host.Outcome State Fault Refusal :=
  let p := s.unit
  if horizonDue s p then
    let b := (s.part p).scc + 32
    let s := trapBadAwaits s (awaitsFor s p b)
    let bad := !(falseAwaits s p b).isEmpty
    .next (s.modPart p fun x => { x with
      horizonDone := b, awHit := bad, slotHit := idleNext x b, preempt := stopsAt s p b
      hold := { x.hold with
        awaitOpen := bad, decided := none, b := b, horizon := s.wcc, budgetHit := false, lapsed := [], lapsedA := [] } })
  else .fault (.notDue "AWAIT_HORIZON")

/-! ### The boundary (R41, R24) -/

/-- Partition p executes or holds at a boundary that has not yet been passed. -/
def boundaryDue (s : State) (p : Nat) : Bool :=
  let x := s.part p
  p < 4 && x.scc % 256 = 0 && x.boundDone ≠ x.scc && !x.hold.held

/-- What keeps the partition from executing the boundary that it has come to. -/
def mustHold (s : State) (p : Nat) : Bool :=
  let x := s.part p
  x.horizonDone = x.scc && x.scc % 256 = 0 &&
    (x.slotHit || x.awHit && (x.hold.awaitOpen || (match x.hold.decided with
      | some w => decide (s.wcc < w + 32)
      | none => false)))

/-- The break at the boundary of the domain of a core whose registration has lapsed (17: R408 step 3): the core takes
`cause` with `val`, and its members stop with cycle b - 1. -/
def breakAtBoundary (s : State) (t : Nat) (own : List (Nat × Await × Cause × Nat)) (b : Nat) : State :=
  let k := s.task t
  let orig := own.foldl (fun m e => min m e.1) (own.head?.map (·.1) |>.getD 0)
  let at_ := b + levLatency k.dlev
  let s := s.setTask t { k with broken := true, brkOrig := orig, dead := if k.broken then k.dead else [] }
  let s := own.foldl (fun s e =>
    let x := s.core e.1
    if x.trap.stopAfter.isSome || x.st = .wait then s
    else s.setCore e.1 {
      x.hwTrap (trapcauseOf true false orig e.2.1.org.q 0 (causeCode e.2.2.1)) e.2.1.org.pc (BitVec.ofNat 64 e.2.2.2) with
      trap := { x.trap with stopAfter := some (b - 1), handlerAt := some at_, brk := true } }) s
  breakMembers s t (causeOf s orig) (b - 1) at_ fun h => !(own.any fun e => e.1 = h)

/-- The lapsed registrations, and the breaks that a withdrawn link brings, take effect at boundary b. -/
def applyLapses (s : State) (p b : Nat) : State :=
  let h := (s.part p).hold
  let own := h.lapsedA.map (fun e => (e.1, e.2, Cause.awaitBudget, e.2.b)) ++
    h.lapsed.map (fun e => (e.1, e.2, Cause.holdBudget, h.statAt.toNat))
  let stat := holdStat s p
  let own := if (s.part p).linkBreak then own ++ (s.tasks.filterMap fun e =>
      if e.2.part = p && e.2.st = .running && e.2.members.any (fun g => coreTimed (s.core g)) then
        (e.2.members.find? fun g => (s.core g).st ≠ .wait).map fun g =>
          (g, (⟨0, 0, 0, 0, 0, 0, ⟨.k, (s.core g).k.pc, 0, true, 0⟩⟩ : Await), Cause.holdBudget, stat)
      else none) else own
  let ts := (own.filterMap fun e => (s.core e.1).task).eraseDups
  let s := ts.foldl (fun s t => breakAtBoundary s t (own.filter fun e => (s.core e.1).task = some t) b) s
  s.modPart p fun x => { x with linkBreak := false, hold := { x.hold with lapsed := [], lapsedA := [] } }

/-- PERIOD_BOUNDARY (R41): the executed period is a slot of the frame that has ended. -/
def execPeriodBoundary (s : State) : Host.Outcome State Fault Refusal :=
  let p := s.unit
  if boundaryDue s p then
    let s := periodCheck (s.modPart p fun x => { x with boundDone := x.scc, pos := (x.pos + 1) % 16 }) p
    if mustHold s p then .next s
    else
      let b := (s.part p).scc
      .next (applyLapses (dropAwaits s p b) p b)
  else .fault (.notDue "PERIOD_BOUNDARY")

/-- A written level takes effect at the boundary that partition p has come to. -/
def levelDue (s : State) (p : Nat) : Option Nat :=
  let x := s.part p
  if p < 4 && x.scc % 256 = 0 && x.boundDone = x.scc && !x.hold.held then levelAt x x.scc else none

/-- THROTTLE_LEVEL_EFFECT (R24, R41). -/
def execThrottleLevelEffect (s : State) : Host.Outcome State Fault Refusal :=
  match levelDue s s.unit with
  | some n =>
    let s := s.modPart s.unit fun x => { x with
      level := n, pos := 0, newLevel := x.newLevel.filter fun e => x.scc < e.2 + 32 }
    .next (csEvent s 4 s.unit 0 0 n 0)
  | none => .fault (.notDue "THROTTLE_LEVEL_EFFECT")

/-! ### The hold (R40, R60) -/

/-- A link-retry request that came in an earlier cycle stands. -/
def retryHolds (s : State) (p : Nat) : Bool := (s.part p).retry.any fun e => e.2 < s.wcc

/-- Partition p is held from this cycle on. -/
def holdDue (s : State) (p : Nat) : Bool :=
  let x := s.part p
  p < 4 && !x.hold.held && ((mustHold s p && x.boundDone = x.scc && (levelDue s p).isNone) || (retryHolds s p && !boundaryDue s p))

/-- The reasons of a hold as an event has them (16: R401). -/
def holdFlags (h : Hold) : Nat := natOfBool h.aw + natOfBool h.th * 2 + natOfBool h.lr * 4

/-- HOLD_BEGIN (R40, R60). -/
def execHoldBegin (s : State) : Host.Outcome State Fault Refusal :=
  let p := s.unit
  if holdDue s p then
    let at_ := mustHold s p
    let s := s.modPart p fun x => { x with hold := { x.hold with
      held := true, off := !at_, aw := at_ && x.awHit, th := at_ && x.slotHit, lr := retryHolds s p, first := s.wcc
      slotEnd := if at_ && x.slotHit then some (s.wcc + 256) else none, budgetHit := false } }
    .next (csEvent s 2 p (holdFlags (s.part p).hold) 0 0 0)
  else .fault (.notDue "HOLD_BEGIN")

/-- Every await of the boundary is true, in a held cycle (R40 steps 3 and 4, R60). -/
def decideDue (s : State) (p : Nat) : Bool :=
  let h := (s.part p).hold
  p < 4 && h.held && !h.off && h.awaitOpen && h.decided.isNone && (falseAwaits s p h.b).isEmpty

/-- Release is decided in this wall cycle. -/
def decide_ (s : State) (p : Nat) : State :=
  s.modPart p fun x => { x with hold := { x.hold with awaitOpen := false, decided := some s.wcc } }

/-- HOLD_RELEASE_DECIDED (R40). -/
def execHoldReleaseDecided (s : State) : Host.Outcome State Fault Refusal :=
  if decideDue s s.unit then .next (decide_ s s.unit) else .fault (.notDue "HOLD_RELEASE_DECIDED")

/-- The idle slot of partition p ends. -/
def slotEndDue (s : State) (p : Nat) : Bool :=
  match (s.part p).hold.slotEnd with
  | some e => decide (p < 4) && decide (e ≤ s.wcc)
  | none => false

/-- THROTTLE_SLOT_END (R41): the next slot of the frame follows, idle or executed. -/
def execThrottleSlotEnd (s : State) : Host.Outcome State Fault Refusal :=
  if slotEndDue s s.unit then
    .next (s.modPart s.unit fun x =>
      let j := (x.pos + 1) % 16
      if slotIdle x.level j then { x with pos := j, hold := { x.hold with slotEnd := some (s.wcc + 256) } }
      else { x with hold := { x.hold with slotEnd := none }, pos := j })
  else .fault (.notDue "THROTTLE_SLOT_END")

/-- Nothing holds partition p any more. -/
def releaseDue (s : State) (p : Nat) : Bool :=
  let x := s.part p
  let h := x.hold
  p < 4 && h.held && x.retry.isEmpty && (h.off || (h.slotEnd.isNone && !h.awaitOpen && (match h.decided with
    | some w => decide (w + 32 ≤ s.wcc)
    | none => true)))

/-- HOLD_RELEASE (R40, R60): the cycle in which the partition runs again. -/
def execHoldRelease (s : State) : Host.Outcome State Fault Refusal :=
  let p := s.unit
  if releaseDue s p then
    let h := (s.part p).hold
    let s := csEvent s 3 p (holdFlags h) 0 0 (s.wcc - h.first)
    if h.off then .next (s.modPart p fun x => { x with hold := { x.hold with held := false, off := false, lr := false } })
    else
      let b := (s.part p).scc
      let s := s.modPart p fun x => { x with
        awHit := false, slotHit := false, hold := { x.hold with held := false, aw := false, th := false, lr := false, decided := none } }
      .next (applyLapses (dropAwaits s p b) p b)
  else .fault (.notDue "HOLD_RELEASE")

/-! ### Budgets (17: R408, R409) -/

/-- A timed AWCMP of partition p whose await budget is exhausted: it is false in the evaluation of the budget's own cycle. -/
def awaitLapse (s : State) (p : Nat) : Option (Nat × Await) :=
  let h := (s.part p).hold
  if p < 4 && h.awaitOpen && h.decided.isNone && h.horizon + s.fieldOf (offPart p rAwaitLimit) 31 0 = s.wcc then
    (falseAwaits s p h.b).find? fun e => 4 ≤ e.2.kind
  else none

/-- The registration lapses. -/
def lapseAwait (s : State) (p : Nat) (e : Nat × Await) : State :=
  let s := dropAwait s e.1 e.2
  let s := s.modPart p fun x => { x with hold := { x.hold with lapsedA := x.hold.lapsedA ++ [e] } }
  let s := record s {
    det := 12, sev := 1, part := p, ukind := 0, unit := e.1, code := causeCode .awaitBudget, addr := e.2.addr % 2 ^ 48
    tid := s.tidOf e.1, iter := (s.core e.1).iter, val := e.2.b, pc := e.2.org.pc }
  if (falseAwaits s p (s.part p).hold.b).isEmpty then decide_ s p else s

/-- A tokened AWCMP of partition p that its sequencer has found false for AWAIT_LIMIT cycles, this one included. -/
def tokenedLapse (s : State) (p : Nat) : Option Actor :=
  if s.held p then none
  else s.cores.findSome? fun e =>
    if s.partOfCore e.1 = p then
      (allSeq.find? fun q =>
        let y := e.2.seqr q
        y.blocked && s.canIssue (.core e.1 q) && (match y.wait0 with
          | some w => decide (w + s.fieldOf (offPart p rAwaitLimit) 31 0 ≤ s.wcc)
          | none => false)).map fun q => Actor.core e.1 q
    else none

/-- The sequencer of that AWCMP traps. -/
def trapLapse (s : State) (a : Actor) : State :=
  refuse (s.modSeqr a fun y => { y with wait0 := none, blocked := false }) a .awaitBudget 0 0

/-- AWAIT_BUDGET_EXHAUSTED (R408). -/
def execAwaitBudgetExhausted (s : State) : Host.Outcome State Fault Refusal :=
  match awaitLapse s s.unit, tokenedLapse s s.unit with
  | some e, _ => .next (lapseAwait s s.unit e)
  | none, some a => .next (trapLapse s a)
  | none, none => .fault (.notDue "AWAIT_BUDGET_EXHAUSTED")

/-- The hold of partition p has reached its budget. -/
def budgetDue (s : State) (p : Nat) : Bool :=
  let h := (s.part p).hold
  p < 4 && h.held && !h.budgetHit && (h.off || h.decided.isNone) && h.first + s.fieldOf (offPart p rHoldLimit) 31 0 ≤ s.wcc

/-- HOLD_BUDGET_EXHAUSTED (R409). -/
def execHoldBudgetExhausted (s : State) : Host.Outcome State Fault Refusal :=
  let p := s.unit
  if budgetDue s p then
    let h := (s.part p).hold
    let stat := holdStat s p
    let bad := if h.off then [] else falseAwaits s p h.b
    let s := record s { det := 11, sev := 2, part := p, ukind := 0, unit := 0, code := causeCode .holdBudget, val := stat }
    let s := bad.foldl (fun s e => dropAwait s e.1 e.2) s
    let s := s.modPart p fun x => { x with hold := { x.hold with
      budgetHit := true, lapsed := x.hold.lapsed ++ bad, statAt := BitVec.ofNat 64 stat } }
    .next (if h.awaitOpen && !h.off then decide_ s p else s)
  else .fault (.notDue "HOLD_BUDGET_EXHAUSTED")

end Sys2Proof.Machine
end

