-- ==== Sys2Proof/Machine/Preempt.lean ====
section
/-! DEFINITION. Pre-emption at safe points, the saving and loading of contexts, and the start of a launch (02: R55,
R58, R61 to R65; 17: R405, R413 to R416). -/

namespace Sys2Proof.Machine

/-! ### Safe-point records (06: R173) -/

/-- Safe-point record i of the image that task t runs, as one number. -/
def spRecord (s : State) (die r i : Nat) : Nat := imageNat s die r (imageNat s die r 16 4 + 64 * i) 64

/-- The record of the SAFEPT that core g has issued: by its boundary in timed code, by its word in tokened code. -/
def spOf (s : State) (t g : Nat) : Nat :=
  let r := (s.task t).nest
  let die := dieOf g
  let x := s.core g
  let n := imageNat s die r 10 2
  let match_ (i : Nat) : Bool :=
    let y := spRecord s die r i
    match x.safept with
    | some 0 => bits y 23 0 = x.safeptPc / 4
    | some b => 256 * bits y 39 24 = b
    | none => false
  match (List.range n).find? match_ with
  | some i => spRecord s die r i
  | none => 0

def spVlive (y : Nat) : List Nat := (List.range 48).filter fun j => bits y (48 + j) (48 + j) = 1
def spAlive (y : Nat) : List Nat := (List.range 4).filter fun j => bits y (96 + j) (96 + j) = 1
/-- The scratchpad ranges of a record: offset and length. -/
def spRanges (y : Nat) : List (Nat × Nat) :=
  (List.range (bits y 103 100)).map fun j => (bits y (64 * j + 147) (64 * j + 128), bits y (64 * j + 167) (64 * j + 148))

/-- The size of a core's context (02: R63). -/
def ctxBytes (s : State) (t g y : Nat) : Nat :=
  4 * (272 + 384 + 1 + 8192) + 48 + 48 + 64 + 96 + 8192 + 8192 * (spVlive y).length + 65536 * (spAlive y).length
    + ((spRanges y).foldl (fun n r => n + r.2) 0)
    + (if (s.core g).rank = 0 then 64 + 32 * (s.dcs.filter fun e => e.2.task = some t).length else 0)

/-- A live register of core g lies in a drowsy group, which the save wakes first (17: R416). -/
def drowsyLive (s : State) (g y : Nat) : Bool := (spVlive y).any fun v => powerOf (s.core g) v = 1

/-- The cycles of a save or load of core g's context. -/
def ctxCycles (s : State) (t g y : Nat) : Nat :=
  16 + ceilDiv (ctxBytes s t g y) 256 + (if drowsyLive s g y then 16 else 0)

/-- The address of the slot that core g's context goes to (02: R64). -/
def ctxSlot (s : State) (t g : Nat) : Nat :=
  let k := s.task t
  let r := s.reg (offPart k.part (rPctx (dieOf g)))
  let rank := ((leaders s k.part (dieOf g)).filter fun h => h < g).length
  bits r 35 0 * 4096 + (4 * rank + sget 0 k.depth g) * bits r 51 40 * 4096

/-! ### Saving (R61 to R63; 17: R413, R414) -/

/-- Task t stops at the safe point that it has come to. -/
def preemptDue (s : State) (t : Nat) : Bool :=
  let k := s.task t
  let x := s.part k.part
  (look s.tasks t).isSome && k.st = .running && !k.broken && !s.held k.part &&
    ((x.preempt.contains t && x.horizonDone = x.scc && x.boundDone = x.scc) ||
      (k.slen = 0 && (k.members.any fun g => (s.core g).safept = some 0)
        && k.members.all fun g => (s.core g).safept = some 0 || (s.core g).st = .wait))

/-- An engine command or a queue keeps the task from stopping (R413). -/
def notEmpty (s : State) (t : Nat) : Bool :=
  (s.task t).members.any fun g =>
    let x := s.core g
    !(enginesIdle x (s.sccOf (s.partOfCore g)) && queuesEmpty x)

/-- The pre-emption is deferred to the next safe point (R413). -/
def deferPreempt (s : State) (t : Nat) : State :=
  let k := s.task t
  let g := k.members.headD 0
  let now := s.sccOf k.part
  let s := k.members.foldl (fun s h => s.modCore h fun x =>
    { x with safept := none, awaits := x.awaits.filter fun a => now < a.at_ }) s
  let s := s.modPart k.part fun x => { x with preempt := x.preempt.filter (· ≠ t) }
  record s { det := 18, sev := 0, part := k.part, ukind := 0, unit := g, detail := 8, tid := k.tid, iter := (s.core g).iter }

/-- Every DCS after f. -/
def mapDcs (s : State) (f : Nat → Dcs → Dcs) : State := { s with dcs := s.dcs.map fun e => (e.1, f e.1 e.2) }

/-- The timed SAFEPT whose boundary is cycle t is the one that core x stops at. -/
def atSafept (x : Core) (t : Nat) : Core :=
  match x.safepts.find? fun e => x.tsb + e.1 = t with
  | some e => { x with safept := some e.1, safeptPc := e.2, safepts := x.safepts.filter fun f => e.1 < f.1 }
  | none => x

/-- The task enters SAVING: its cores and its DCSs stand still. -/
def beginSave (s : State) (t : Nat) : State :=
  let k := s.task t
  let now := s.sccOf k.part
  let s := k.members.foldl (fun s g => s.modCore g fun x => atSafept x now) s
  let run := k.members.filter fun g => (s.core g).st ≠ .wait
  let n := run.foldl (fun m g => max m (ctxCycles s t g (spOf s t g))) 16
  let b := (run.head?.bind fun g => (s.core g).safept).getD 0
  let ctxDcs := (s.dcs.filter fun e => e.2.task = some t).map fun e =>
    (e.1, ({ e.2.seqr with nextAt := e.2.seqr.nextAt - e.2.tsb }, e.2.rp))
  let s := s.setTask t { k with
    st := .saving, b := b, depth := k.members.map fun g => (g, nestDepth s t g), saveAt := now + n, ctxDcs := ctxDcs }
  let s := mapDcs s fun _ d => if d.task = some t then { d with seqr := { d.seqr with run := false } } else d
  let s := s.modPart k.part fun x => { x with preempt := x.preempt.filter (· ≠ t) }
  k.members.foldl (fun s g => s.modCore g fun x => { x with frozen := true }) s

/-- SAFEPOINT_PREEMPT (R61, R62). -/
def execSafepointPreempt (s : State) : Host.Outcome State Fault Refusal :=
  let t := s.unit
  if preemptDue s t then .next (if notEmpty s t then deferPreempt s t else beginSave s t)
  else .fault (.notDue "SAFEPOINT_PREEMPT")

def saveDone (s : State) (t : Nat) : Bool :=
  let k := s.task t
  (look s.tasks t).isSome && k.st = .saving && !s.held k.part && k.saveAt ≤ s.sccOf k.part

/-- The context of core g is stored: a copy of the core, of which a load takes the items of R63, the scratchpad
ranges, and bytes in its slot. -/
def saveCore (s : State) (t g : Nat) : State :=
  let x := s.core g
  if x.st = .wait then s.modTask t fun k => { k with ctx := insert k.ctx g x }
  else
    let y := spOf s t g
    let rs := spRanges y
    let spad := rs.map fun r => (r.1, s.readView (dieOf g) (spadBase g + r.1) r.2)
    let s := match rs.findSome? fun r => eccAt s (spadBase g + r.1) r.2 with
      | some a => recordCause s g .eccUncorr (eccDetail s a 1) a x.safeptPc 1
      | none => s
    let bad := rs.any fun r => eccBad s (spadBase g + r.1) r.2
    let s := (spVlive y).foldl (fun s v => if powerOf x v = 2 then recordCause s g .regGated 0 v x.safeptPc 0 else s) s
    let (n, s) := s.takeFresh
    let s := timedWrite s (runCells (ctxSlot s t g) ((List.range (ctxBytes s t g y)).map (Config.ctxByte n)))
    s.modTask t fun k => { k with
      ctx := insert k.ctx g x, ctxSpad := insert k.ctxSpad g spad, restartMark := k.restartMark || bad }

/-- A core as a task leaves it: no sequencer of it issues. -/
def freeCore (x : Core) : Core :=
  let stop (q : Seqr) : Seqr := { q with run := false, park := none }
  { x with
    k := stop x.k
    l := stop x.l
    c := stop x.c
    s := stop x.s
    task := none, st := .wait, frozen := false, safept := none, awaits := [], phWait := none, phHold := false }

/-- CONTEXT_SAVE_DONE (R63): the cores are free. -/
def execContextSaveDone (s : State) : Host.Outcome State Fault Refusal :=
  let t := s.unit
  if saveDone s t then
    let k := s.task t
    let s := k.members.foldl (fun s g => saveCore s t g) s
    let s := k.members.foldl (fun s g => s.modCore g freeCore) s
    let s := mapDcs s fun _ d => if d.task = some t then { d with task := none } else d
    .next (redelay (s.modTask t fun k => { k with st := .preempted }) k.part k.nest)
  else .fault (.notDue "CONTEXT_SAVE_DONE")

/-! ### Restoring (R65; 17: R414) -/

/-- The load of the task's contexts begins. -/
def beginRestore (s : State) (t : Nat) : State :=
  let k := s.task t
  let now := s.sccOf k.part
  let n := k.ctx.foldl (fun m e =>
    if e.2.st = .wait then m else
      let s := s.setCore e.1 e.2
      max m (16 + ceilDiv (ctxBytes s t e.1 (spOf s t e.1)) 256)) 16
  let s := s.setTask t { k with st := .restoring, saveAt := now + n }
  let s := mapDcs s fun h d => if (look k.ctxDcs h).isSome then { d with task := some t } else d
  k.members.foldl (fun s g => s.modCore g fun x => { x with task := some t, st := .wait, frozen := true, trap := {} }) s

/-- The saved sequencer x in place of y. The streams of a task with a timetable go on at its stamp b, cycle `to_`; those of
a task that is all tokened in the next cycle (R62, R65; the model's choice, log entry 25). -/
def restoreSeqr (y x : Seqr) (saved : List Nat) (from_ to_ now slen : Nat) : Seqr :=
  { x with
    csr := saved.foldl (fun m n => sset 0 m n (getCsr x n)) y.csr
    nextAt := if slen ≠ 0 then x.nextAt - from_ + to_ else now + 1
    park := none, spin := none, blocked := false, turn := .free, wait0 := none, missed := none }

/-- The CSRs that a context holds (07: R194). -/
def savedCsrs (q : SeqId) : List Nat :=
  match q with
  | .k => [csrQstat, csrMoncnt, csrQmap, csrTvec, csrKey 0, csrKey 1, csrKey 2, csrKey 3, csrIdent]
  | .c => [csrQstat, csrMoncnt, csrVl, csrVrfpwr, csrDraw0, csrDraw1, csrFtv]
  | _ => [csrQstat, csrMoncnt]

/-- A live register as it was saved: zero where its group was gated. -/
def savedReg (x : Core) (v : Nat) : Bytes := if powerOf x v = 2 then List.replicate 8192 0 else x.vrf.read (8192 * v) 8192

/-- Core g with the saved context x loaded (R63, R65), for the task's boundary b of SCC `at_`. -/
def restoreCore (s : State) (t g b at_ : Nat) (x : Core) : State :=
  let y := s.core g
  let now := s.sccOf (s.partOfCore g)
  if x.st = .wait then s.setCore g { y with frozen := false, st := .wait, rank := x.rank, iter := x.iter }
  else
    let sp := spOf (s.setCore g x) t g
    let old := x.tsb + b
    let q (r : SeqId) : Seqr := restoreSeqr (y.seqr r) (x.seqr r) (savedCsrs r) old at_ now (s.task t).slen
    let vrf := (spVlive sp).foldl (fun m v => m.write (8192 * v) (savedReg x v)) y.vrf
    let acc (m o : SMap W32) : SMap W32 := (spAlive sp).foldl (fun m a => splice 0 m (16384 * a) (srun 0 o (16384 * a) 16384)) m
    let flag (m o : SMap Bool) : SMap Bool :=
      (spAlive sp).foldl (fun m a => splice false m (16384 * a) (srun false o (16384 * a) 16384)) m
    let s := s.setCore g { y with
      k := q .k, l := q .l, c := q .c, s := q .s, st := x.st, iter := x.iter, rank := x.rank
      tsb := at_ - b, tsbWcc := s.wcc + at_ - (b + now), phNum := x.phNum, awaits := x.awaits.map fun a => { a with at_ := at_ - b + a.b }, masks := x.masks
      vrf := vrf, acc := acc y.acc x.acc, accP := flag y.accP x.accP, sat := flag y.sat x.sat
      l1Dir := [], l1Fill := [], psets := [], safepts := x.safepts, safept := none, frozen := false, wake := []
      iterCmds := x.iterCmds, actNo := max x.actNo y.actNo, replays := x.replays, lateSent := x.lateSent }
    ((look (s.task t).ctxSpad g).getD []).foldl (fun s r => timedWrite s (runCells (spadBase g + r.1) r.2)) s

/-- An uncorrectable word stands in a saved context of the task. -/
def ctxBad (s : State) (t : Nat) : Bool :=
  (s.task t).ctx.any fun e => e.2.st ≠ .wait &&
    let lo := ctxSlot s t e.1
    let n := ctxBytes s t e.1 (spOf (s.setCore e.1 e.2) t e.1)
    s.tsEcc.any fun w => decide (2 ≤ w.2) && runsMeet (8 * w.1, 8) (lo, n)

def restoreDone (s : State) (t : Nat) : Bool :=
  let k := s.task t
  (look s.tasks t).isSome && k.st = .restoring && !s.held k.part && k.saveAt ≤ s.sccOf k.part

/-- The DCS of channel h goes on where it stopped, at the place that it had kept from its TSB; a stream that had halted
stays so. One that would go on in a quarantined channel breaks its domain instead (19: R449). -/
def restoreDcs (s : State) (b at_ h : Nat) (saved : Seqr × SMap Nat) : State :=
  let q := saved.1
  let bad := q.run && s.fieldOf (offDcs h rDcsflt) 8 8 = 1
  let s := s.setDcs h { s.dcsAt h with
    seqr := { q with run := q.run && !bad, nextAt := q.nextAt + (at_ - b) }, tsb := at_ - b, rp := saved.2 }
  if bad then stopUnit s (.dcs h) .dramTiming 0x22 0 0 else s

/-- CONTEXT_RESTORE_DONE (R65): TSB becomes B - b, and the streams go on at stamp b. -/
def execContextRestoreDone (s : State) : Host.Outcome State Fault Refusal :=
  let t := s.unit
  if restoreDone s t then
    let k := s.task t
    if ctxBad s t then
      let s := k.members.foldl (fun s g => s.modCore g freeCore) s
      let s := mapDcs s fun _ d => if d.task = some t then { d with task := none } else d
      .next (s.modTask t fun k => { k with st := .preempted, restartMark := true })
    else
      let at_ := firstBoundary (s.sccOf k.part)
      let s := k.ctx.foldl (fun s e => loadChecker (restoreCore s t e.1 k.b at_ e.2) e.1) s
      let s := k.ctxDcs.foldl (fun s e => restoreDcs s k.b at_ e.1 e.2) s
      .next (s.modTask t fun k => { k with st := .running, ctx := [], ctxSpad := [], ctxDcs := [] })
  else .fault (.notDue "CONTEXT_RESTORE_DONE")

/-! ### The start of a launch (R55, R58; 17: R405, R414) -/

/-- A pre-empted task wins arbitration: its contexts are loaded, or, where it is marked, it begins again. -/
def resumeTask (s : State) (t : Nat) : State :=
  let k := s.task t
  if k.restartMark then
    let a := if 1 ≤ k.restarts then 3 else 2
    let s := recoveryEvent s t a
    if a = 2 then restartTask s t else abandonTask s t (k.members.headD 0) 0
  else beginRestore s t

/-- LAUNCH_START (R55). -/
def execLaunchStart (s : State) : Host.Outcome State Fault Refusal :=
  match launchNext s s.unit with
  | some t =>
    let k := s.task t
    if k.st = .preempted then .next (resumeTask s t)
    else
      let r := nestOf s k
      .next (match launchBad s k r with
        | some d => refuseLaunch s t d
        | none => beginTask s t r)
  | none => .fault (.notDue "LAUNCH_START")

end Sys2Proof.Machine
end

