-- ==== Sys2Proof/Machine/Vector.lean ====
section
/-! DEFINITION. The meanings of the vector instructions of C and of the LBPs (08: R201 to R237; 18: R435).
What each computes stands in VCompute.lean, when it reads and writes in VTiming.lean and VStep.lean; an
instruction issues by entering the vector engine. -/

namespace Sys2Proof.Machine

/-- VADD (R212). -/
def execVadd (h : Hdr) (o : A3) (x : XV) (s : State) : Host.Outcome State Fault Refusal :=
  issue h (.vadd h o x) (vecBody (.vadd h o x)) s

/-- VSUB (R212). -/
def execVsub (h : Hdr) (o : A3) (x : XV) (s : State) : Host.Outcome State Fault Refusal :=
  issue h (.vsub h o x) (vecBody (.vsub h o x)) s

/-- VMUL (R212). -/
def execVmul (h : Hdr) (o : A3) (x : XV) (s : State) : Host.Outcome State Fault Refusal :=
  issue h (.vmul h o x) (vecBody (.vmul h o x)) s

/-- VMULH (R213). -/
def execVmulh (h : Hdr) (o : A3) (x : XV) (s : State) : Host.Outcome State Fault Refusal :=
  issue h (.vmulh h o x) (vecBody (.vmulh h o x)) s

/-- VFMA (R212). -/
def execVfma (h : Hdr) (o : A3) (x : XV) (s : State) : Host.Outcome State Fault Refusal :=
  issue h (.vfma h o x) (vecBody (.vfma h o x)) s

/-- VFMS (R212). -/
def execVfms (h : Hdr) (o : A3) (x : XV) (s : State) : Host.Outcome State Fault Refusal :=
  issue h (.vfms h o x) (vecBody (.vfms h o x)) s

/-- VFNMA (R212). -/
def execVfnma (h : Hdr) (o : A3) (x : XV) (s : State) : Host.Outcome State Fault Refusal :=
  issue h (.vfnma h o x) (vecBody (.vfnma h o x)) s

/-- VMIN (R214). -/
def execVmin (h : Hdr) (o : A3) (x : XV) (s : State) : Host.Outcome State Fault Refusal :=
  issue h (.vmin h o x) (vecBody (.vmin h o x)) s

/-- VMAX (R214). -/
def execVmax (h : Hdr) (o : A3) (x : XV) (s : State) : Host.Outcome State Fault Refusal :=
  issue h (.vmax h o x) (vecBody (.vmax h o x)) s

/-- VABS (R214). -/
def execVabs (h : Hdr) (o : A3) (x : XV) (s : State) : Host.Outcome State Fault Refusal :=
  issue h (.vabs h o x) (vecBody (.vabs h o x)) s

/-- VNEG (R214). -/
def execVneg (h : Hdr) (o : A3) (x : XV) (s : State) : Host.Outcome State Fault Refusal :=
  issue h (.vneg h o x) (vecBody (.vneg h o x)) s

/-- VNOT (R214). -/
def execVnot (h : Hdr) (o : A3) (x : XV) (s : State) : Host.Outcome State Fault Refusal :=
  issue h (.vnot h o x) (vecBody (.vnot h o x)) s

/-- VMOV (R214). -/
def execVmov (h : Hdr) (o : A3) (x : XV) (s : State) : Host.Outcome State Fault Refusal :=
  issue h (.vmov h o x) (vecBody (.vmov h o x)) s

/-- VCLAMP (R215). -/
def execVclamp (h : Hdr) (o : A3) (x : XV) (s : State) : Host.Outcome State Fault Refusal :=
  issue h (.vclamp h o x) (vecBody (.vclamp h o x)) s

/-- VSAT (R215). -/
def execVsat (h : Hdr) (o : A3) (x : XV) (s : State) : Host.Outcome State Fault Refusal :=
  issue h (.vsat h o x) (vecBody (.vsat h o x)) s

/-- VAND (R216). -/
def execVand (h : Hdr) (o : A3) (x : XV) (s : State) : Host.Outcome State Fault Refusal :=
  issue h (.vand h o x) (vecBody (.vand h o x)) s

/-- VOR (R216). -/
def execVor (h : Hdr) (o : A3) (x : XV) (s : State) : Host.Outcome State Fault Refusal :=
  issue h (.vor h o x) (vecBody (.vor h o x)) s

/-- VXOR (R216). -/
def execVxor (h : Hdr) (o : A3) (x : XV) (s : State) : Host.Outcome State Fault Refusal :=
  issue h (.vxor h o x) (vecBody (.vxor h o x)) s

/-- VSHL (R216). -/
def execVshl (h : Hdr) (o : A3) (x : XV) (s : State) : Host.Outcome State Fault Refusal :=
  issue h (.vshl h o x) (vecBody (.vshl h o x)) s

/-- VSHR (R216). -/
def execVshr (h : Hdr) (o : A3) (x : XV) (s : State) : Host.Outcome State Fault Refusal :=
  issue h (.vshr h o x) (vecBody (.vshr h o x)) s

/-- VSRA (R216). -/
def execVsra (h : Hdr) (o : A3) (x : XV) (s : State) : Host.Outcome State Fault Refusal :=
  issue h (.vsra h o x) (vecBody (.vsra h o x)) s

/-- VCMP (R217). -/
def execVcmp (h : Hdr) (cnd : B3) (o : A3) (x : XV) (s : State) : Host.Outcome State Fault Refusal :=
  issue h (.vcmp h cnd o x) (vecBody (.vcmp h cnd o x)) s

/-- VSEL (R218). -/
def execVsel (h : Hdr) (o : A3) (x : XV) (s : State) : Host.Outcome State Fault Refusal :=
  issue h (.vsel h o x) (vecBody (.vsel h o x)) s

/-- VBCAST (R222). -/
def execVbcast (h : Hdr) (o : A3) (x : XV) (s : State) : Host.Outcome State Fault Refusal :=
  issue h (.vbcast h o x) (vecBody (.vbcast h o x)) s

/-- VEXTR (R222). -/
def execVextr (h : Hdr) (o : A3) (x : XV) (s : State) : Host.Outcome State Fault Refusal :=
  issue h (.vextr h o x) (vecBody (.vextr h o x)) s

/-- VINS (R222). -/
def execVins (h : Hdr) (o : A3) (x : XV) (s : State) : Host.Outcome State Fault Refusal :=
  issue h (.vins h o x) (vecBody (.vins h o x)) s

/-- VCVT (R223). -/
def execVcvt (h : Hdr) (o : A3) (x : XV) (s : State) : Host.Outcome State Fault Refusal :=
  issue h (.vcvt h o x) (vecBody (.vcvt h o x)) s

/-- VSRND (R223). -/
def execVsrnd (h : Hdr) (o : A3) (x : XV) (s : State) : Host.Outcome State Fault Refusal :=
  issue h (.vsrnd h o x) (vecBody (.vsrnd h o x)) s

/-- VQNT (R224). -/
def execVqnt (h : Hdr) (o : A3) (x : XV) (s : State) : Host.Outcome State Fault Refusal :=
  issue h (.vqnt h o x) (vecBody (.vqnt h o x)) s

/-- VDQNT (R225). -/
def execVdqnt (h : Hdr) (o : A3) (x : XV) (s : State) : Host.Outcome State Fault Refusal :=
  issue h (.vdqnt h o x) (vecBody (.vdqnt h o x)) s

/-- VPERM (R226). -/
def execVperm (h : Hdr) (o : A3) (x : XV) (s : State) : Host.Outcome State Fault Refusal :=
  issue h (.vperm h o x) (vecBody (.vperm h o x)) s

/-- VSHUF (R227). -/
def execVshuf (h : Hdr) (fn : B3) (o : A3) (x : XV) (s : State) : Host.Outcome State Fault Refusal :=
  issue h (.vshuf h fn o x) (vecBody (.vshuf h fn o x)) s

/-- VROT (R228). -/
def execVrot (h : Hdr) (o : A3) (x : XV) (s : State) : Host.Outcome State Fault Refusal :=
  issue h (.vrot h o x) (vecBody (.vrot h o x)) s

/-- VCOMP (R229). -/
def execVcomp (h : Hdr) (o : A3) (x : XV) (s : State) : Host.Outcome State Fault Refusal :=
  issue h (.vcomp h o x) (vecBody (.vcomp h o x)) s

/-- VEXPD (R229). -/
def execVexpd (h : Hdr) (o : A3) (x : XV) (s : State) : Host.Outcome State Fault Refusal :=
  issue h (.vexpd h o x) (vecBody (.vexpd h o x)) s

/-- VRED (R230). -/
def execVred (h : Hdr) (fn : B3) (o : A3) (x : XV) (s : State) : Host.Outcome State Fault Refusal :=
  issue h (.vred h fn o x) (vecBody (.vred h fn o x)) s

/-- VSCAN (R230). -/
def execVscan (h : Hdr) (fn : B3) (o : A3) (x : XV) (s : State) : Host.Outcome State Fault Refusal :=
  issue h (.vscan h fn o x) (vecBody (.vscan h fn o x)) s

/-- VDOT (R231). -/
def execVdot (h : Hdr) (o : A3) (x : XV) (s : State) : Host.Outcome State Fault Refusal :=
  issue h (.vdot h o x) (vecBody (.vdot h o x)) s

/-- VIOTA (R220). -/
def execViota (h : Hdr) (o : A3) (x : XV) (s : State) : Host.Outcome State Fault Refusal :=
  issue h (.viota h o x) (vecBody (.viota h o x)) s

/-- MAND (R219). -/
def execMand (h : Hdr) (o : A3) (x : XV) (s : State) : Host.Outcome State Fault Refusal :=
  issue h (.mand h o x) (vecBody (.mand h o x)) s

/-- MOR (R219). -/
def execMor (h : Hdr) (o : A3) (x : XV) (s : State) : Host.Outcome State Fault Refusal :=
  issue h (.mor h o x) (vecBody (.mor h o x)) s

/-- MXOR (R219). -/
def execMxor (h : Hdr) (o : A3) (x : XV) (s : State) : Host.Outcome State Fault Refusal :=
  issue h (.mxor h o x) (vecBody (.mxor h o x)) s

/-- MNOT (R219). -/
def execMnot (h : Hdr) (o : A3) (x : XV) (s : State) : Host.Outcome State Fault Refusal :=
  issue h (.mnot h o x) (vecBody (.mnot h o x)) s

/-- MPOP (R219). -/
def execMpop (h : Hdr) (o : A3) (x : XV) (s : State) : Host.Outcome State Fault Refusal :=
  issue h (.mpop h o x) (vecBody (.mpop h o x)) s

/-- MFIRST (R219). -/
def execMfirst (h : Hdr) (o : A3) (x : XV) (s : State) : Host.Outcome State Fault Refusal :=
  issue h (.mfirst h o x) (vecBody (.mfirst h o x)) s

/-- The body of VSETVL: VL and s(d) at the end of the issue cycle (08: R221). -/
def setvlBody (i : Instr) (o : A3) (x : XV) (s : State) : Body :=
  let v := min (s.rd o.a).toNat (capOf (isLbp s.actor) x.t.toNat)
  if s.timedOf s.actor || landsLast (s.pendingRegs s.actor) o.d (s.now s.actor) then
    let s := s.addEff s.actor (s.now s.actor) (s.origin s.actor i) (.csr (seqOf s.actor) csrVl (BitVec.ofNat 64 v))
    .done (s.result i o.d 1 (BitVec.ofNat 64 v)) .seq
  else .wait s

/-- VSETVL (R221). -/
def execVsetvl (h : Hdr) (o : A3) (x : XV) (s : State) : Host.Outcome State Fault Refusal :=
  issue h (.vsetvl h o x) (setvlBody (.vsetvl h o x) o x) s

/-- VRAND (R233). -/
def execVrand (h : Hdr) (o : A3) (x : XV) (s : State) : Host.Outcome State Fault Refusal :=
  issue h (.vrand h o x) (vecBody (.vrand h o x)) s

/-- VSAMP (R234). -/
def execVsamp (h : Hdr) (o : A3) (x : XV) (s : State) : Host.Outcome State Fault Refusal :=
  issue h (.vsamp h o x) (vecBody (.vsamp h o x)) s

/-- DEFER (R235). -/
def execDefer (h : Hdr) (fn : B2) (o : A3) (x : XV) (s : State) : Host.Outcome State Fault Refusal :=
  issue h (.defer h fn o x) (vecBody (.defer h fn o x)) s

/-- DRAIN (R236). -/
def execDrain (h : Hdr) (fn : B2) (o : A3) (x : XV) (s : State) : Host.Outcome State Fault Refusal :=
  issue h (.drain h fn o x) (vecBody (.drain h fn o x)) s

/-- The body of DCOUNT: the records held at the start of the issue cycle (08: R237). -/
def dcountBody (i : Instr) (o : A3) (s : State) : Body :=
  match s.actor with
  | .core g _ =>
    let ready := s.timedOf s.actor || landsLast (s.pendingRegs s.actor) o.d (s.now s.actor)
    if ready then .done (s.result i o.d 1 (BitVec.ofNat 64 (s.core g).dq.length)) .seq else .wait s
  | _ => .wait s

/-- DCOUNT (R237). -/
def execDcount (h : Hdr) (o : A3) (x : XV) (s : State) : Host.Outcome State Fault Refusal :=
  issue h (.dcount h o x) (dcountBody (.dcount h o x) o) s

/-- VEXP2 (R232). -/
def execVexp2 (h : Hdr) (o : A3) (x : XV) (s : State) : Host.Outcome State Fault Refusal :=
  issue h (.vexp2 h o x) (vecBody (.vexp2 h o x)) s

/-- VLOG2 (R232). -/
def execVlog2 (h : Hdr) (o : A3) (x : XV) (s : State) : Host.Outcome State Fault Refusal :=
  issue h (.vlog2 h o x) (vecBody (.vlog2 h o x)) s

/-- VRCP (R232). -/
def execVrcp (h : Hdr) (o : A3) (x : XV) (s : State) : Host.Outcome State Fault Refusal :=
  issue h (.vrcp h o x) (vecBody (.vrcp h o x)) s

/-- VRSQ (R232). -/
def execVrsq (h : Hdr) (o : A3) (x : XV) (s : State) : Host.Outcome State Fault Refusal :=
  issue h (.vrsq h o x) (vecBody (.vrsq h o x)) s

/-- VSIN (R232). -/
def execVsin (h : Hdr) (o : A3) (x : XV) (s : State) : Host.Outcome State Fault Refusal :=
  issue h (.vsin h o x) (vecBody (.vsin h o x)) s

/-- VCOS (R232). -/
def execVcos (h : Hdr) (o : A3) (x : XV) (s : State) : Host.Outcome State Fault Refusal :=
  issue h (.vcos h o x) (vecBody (.vcos h o x)) s

/-- VTANH (R232). -/
def execVtanh (h : Hdr) (o : A3) (x : XV) (s : State) : Host.Outcome State Fault Refusal :=
  issue h (.vtanh h o x) (vecBody (.vtanh h o x)) s

/-- VSIGM (R232). -/
def execVsigm (h : Hdr) (o : A3) (x : XV) (s : State) : Host.Outcome State Fault Refusal :=
  issue h (.vsigm h o x) (vecBody (.vsigm h o x)) s

/-- VERF (R232). -/
def execVerf (h : Hdr) (o : A3) (x : XV) (s : State) : Host.Outcome State Fault Refusal :=
  issue h (.verf h o x) (vecBody (.verf h o x)) s

end Sys2Proof.Machine
end

