-- ==== Sys2Proof/Machine/Lbp.lean ====
section
/-! DEFINITION. The line-buffer processors (12: R329 to R340; 18: R447; 19: R454 to R456): the input rings, the
row-profile instructions, rows on their way out of a stage, and starting a row program. -/

namespace Sys2Proof.Machine

/-! ### Input rings (12: R331) -/

def Lbp.entry (l : Lbp) (slot : Nat) : RowMeta := sget {} l.rows slot

/-- A row whose bytes and entry are written into the next slot, which AIN then passes. -/
def appendRow (s : State) (n : Nat) (rm : RowMeta) (data : Bytes) : State :=
  let l := s.lbp n
  let k := l.ain % lbpNin s n
  s.setLbp n { l with buf := l.buf.write (8192 * k) data, rows := sset {} l.rows k rm, ain := l.ain + 1 }

/-- The input ring takes no row: it holds NIN rows, or its stage has been stopped (18: R431). -/
def ringFull (s : State) (n : Nat) : Bool := (s.lbp n).stopped || decide (lbpNin s n ≤ (s.lbp n).ain - (s.lbp n).rin)

/-- A ROWIN.REL of this cycle takes effect: after the cycle's reads and before its appends. -/
def releaseRows (s : State) (n : Nat) : State :=
  let l := s.lbp n
  if l.relNow = 0 then s else s.setLbp n { l with rin := l.rin + l.relNow, relNow := 0 }

/-! ### The actor's own stage -/

def lbpOf (a : Actor) : Nat :=
  match a with
  | .lbp n => n
  | _ => 0

def badOperand (field : Nat) (i : Instr) : Body := .trap .illegalOperand (0x0600 + field) (word0Val i)

/-! ### TAP, REMAP and ROWOUT.WR (12: R336 to R338) -/

/-- The work slots of a TAP.W lie within NIN … 127. -/
def tapSlotsOk (s : State) (n : Nat) (s1 : DWord) (kh : Nat) : Bool :=
  let r0 := sx (s1.toNat / 2 ^ 16) 16
  decide ((lbpNin s n : Int) ≤ r0) && decide (r0 + kh - 1 ≤ 127)

/-- An earlier ROWOUT.SLOT has not yet written one of the slots that a TAP.W reads. -/
def slotComing (s : State) (n : Nat) (s1 : DWord) (kh : Nat) : Bool :=
  let r0 := sx (s1.toNat / 2 ^ 16) 16
  (s.lbp n).sends.any fun e => match e.2 with
    | .slot k _ => decide (r0 ≤ k) && decide ((k : Int) < r0 + kh)
    | _ => false

def tapBody (i : Instr) (src : Bool) (kh : Nat) (s : State) : Body :=
  let n := lbpOf s.actor
  let s1 := vecScalar s i 1
  if src && slotComing s n s1 kh then .wait s
  else match vecBody i s with
  | .done t f => if src && !tapSlotsOk s n s1 kh then badOperand 1 i else .done t f
  | b => b

/-- TAP (R336). -/
def execTap (h : Hdr) (o : A3) (src : Bool) (inf : B2) (t : B4) (kh kw : B3) (step : B6) (s : State) :
    Host.Outcome State Fault Refusal :=
  let i : Instr := .tap h o src inf t kh kw step
  issue h i (tapBody i src kh.toNat) s

/-- REMAP (R337). -/
def execRemap (h : Hdr) (o : A3) (inf : B2) (t : B4) (s : State) : Host.Outcome State Fault Refusal :=
  issue h (.remap h o inf t) (vecBody (.remap h o inf t)) s

/-- ROWOUT.WR (R338). -/
def execRowoutWr (h : Hdr) (a b : Code) (s : State) : Host.Outcome State Fault Refusal :=
  issue h (.rowoutWr h a b) (vecBody (.rowoutWr h a b)) s

/-! ### ROWIN (12: R335) -/

/-- AIN has been observed: the ordinals below it are claimed (19: R455). -/
def observeRows (s : State) (n : Nat) : State :=
  let l := s.lbp n
  s.setLbp n { l with claimed := max l.claimed l.ain }

def rowinWaitBody (i : Instr) (d a : Code) (s : State) : Body :=
  let n := lbpOf s.actor
  let l := s.lbp n
  let q := (s.rd a).toNat
  if l.ain ≤ q then .wait s
  else
    let rm := l.entry (q % lbpNin s n)
    let v := rm.row % 65536 + natOfBool rm.sub * 2 ^ 16 + rm.frame % 2 ^ 32 * 2 ^ 32
    let s := observeRows s n
    let s := s.setLbp n { s.lbp n with fb := s.rd a - BitVec.ofNat 64 rm.row, cf := rm.frame }
    .done (s.result i d 1 (BitVec.ofNat 64 v)) .seq

/-- ROWIN.WAIT (R335). -/
def execRowinWait (h : Hdr) (d a : Code) (s : State) : Host.Outcome State Fault Refusal :=
  issue h (.rowinWait h d a) (rowinWaitBody (.rowinWait h d a) d a) s

def rowinRelBody (i : Instr) (a : Code) (s : State) : Body :=
  let n := lbpOf s.actor
  let l := s.lbp n
  let v := (s.rd a).toNat
  if l.ain - l.rin < v then badOperand 1 i else .done (s.setLbp n { l with relNow := v }) .seq

/-- ROWIN.REL (R335). -/
def execRowinRel (h : Hdr) (a : Code) (s : State) : Host.Outcome State Fault Refusal :=
  issue h (.rowinRel h a) (rowinRelBody (.rowinRel h a) a) s

def rowinCntBody (i : Instr) (d : Code) (s : State) : Body :=
  let n := lbpOf s.actor
  .done ((observeRows s n).result i d 1 (BitVec.ofNat 64 (s.lbp n).ain)) .seq

/-- ROWIN.CNT (R335). -/
def execRowinCnt (h : Hdr) (d : Code) (s : State) : Host.Outcome State Fault Refusal :=
  issue h (.rowinCnt h d) (rowinCntBody (.rowinCnt h d) d) s

/-! ### The send port (12: R338, R340) -/

def State.sendBusy (s : State) (n : Nat) : Bool := decide (s.wcc < (s.lbp n).sendFree)

/-- An operation enters the send port for `occ` cycles and is done at the end of cycle `due`. -/
def send (s : State) (n occ due : Nat) (op : SendOp) : State :=
  let l := s.lbp n
  s.setLbp n { l with sendFree := if occ = 0 then l.sendFree else s.wcc + occ, sends := l.sends ++ [(due, op)] }

/-- Rows issued to stage m and not yet appended. -/
def rowsComing (s : State) (m : Nat) : Nat :=
  (s.lbps.map fun e => (e.2.sends.filter fun x => match x.2 with
    | .next dst _ _ => dst = m
    | _ => false).length).foldl (· + ·) 0

/-- The next stage's ring would be full. -/
def nextFull (s : State) (m : Nat) : Bool :=
  (s.lbp m).stopped || decide (lbpNin s m ≤ (s.lbp m).ain - (s.lbp m).rin + rowsComing s m)

def Lbp.holds (l : Lbp) (q : Nat) : Bool := decide (l.rin ≤ q) && decide (q < l.ain)

def rowoutNextBody (i : Instr) (a b : Code) (s : State) : Body :=
  let n := lbpOf s.actor
  let l := s.lbp n
  let m := lbpNext s n
  let q := (s.rd a).toNat
  let x := (s.rd b).toNat
  let w := bits x 28 16
  if s.sendBusy n || (m < 64 && nextFull s m) then .wait s
  else if 64 ≤ m then badOperand 8 i
  else if w = 0 || 4096 < w then badOperand 2 i
  else if !l.holds q then badOperand 1 i
  else
    let rm := { l.entry (q % lbpNin s n) with row := bits x 15 0, width := w }
    let occ := ceilDiv (2 * w) 256
    .done (send s n occ (s.wcc + 2 + occ) (.next m rm (l.orb.read 0 (2 * w)))) .seq

/-- ROWOUT.NEXT (R338). -/
def execRowoutNext (h : Hdr) (a b : Code) (s : State) : Host.Outcome State Fault Refusal :=
  issue h (.rowoutNext h a b) (rowoutNextBody (.rowoutNext h a b) a b) s

def rowoutSlotBody (i : Instr) (a b : Code) (s : State) : Body :=
  let n := lbpOf s.actor
  let w := bits (s.rd a).toNat 12 0
  let k := bits (s.rd b).toNat 6 0
  let occ := ceilDiv (2 * w) 256
  if s.sendBusy n then .wait s
  else if k < lbpNin s n then badOperand 2 i
  else if 4096 < w then badOperand 1 i
  else .done (send s n occ (s.wcc + 1 + occ) (.slot k ((s.lbp n).orb.read 0 (2 * w)))) .seq

/-- ROWOUT.SLOT (R338). -/
def execRowoutSlot (h : Hdr) (a b : Code) (s : State) : Host.Outcome State Fault Refusal :=
  issue h (.rowoutSlot h a b) (rowoutSlotBody (.rowoutSlot h a b) a b) s

/-! ### TILEOUT (12: R339, R340) -/

def rstride (w : Nat) : Nat := 64 * ceilDiv (2 * w) 64

/-- Claims of LBPs on ring rn of partition p that are on their way. -/
def claimsComing (s : State) (p rn : Nat) : Nat :=
  (s.lbps.map fun e => if s.partOf (.lbp e.1) = p then (e.2.sends.filter fun x => match x.2 with
      | .claim r _ _ _ _ _ _ => r = rn
      | _ => false).length else 0).foldl (· + ·) 0

/-- Ring rn of partition p among all rings. -/
def ringKey (p rn : Nat) : Nat := 256 * p + rn

/-- The ring's free count as reported to the SFD: the last report less the units that TILEOUTs have taken since, or a new
report where it is due. Every stage of a chain sees the same count. -/
def reportFree (s : State) (p rn : Nat) : Nat × State :=
  match look s.freeSeen (ringKey p rn) with
  | some (v, t) => if s.wcc < t then (v, s) else newReport s
  | none => newReport s
where
  newReport (s : State) : Nat × State :=
    let v := (s.ring p rn).free - claimsComing s p rn
    let (f, s) := s.takeFresh
    (v, { s with freeSeen := insert s.freeSeen (ringKey p rn) (v, s.wcc + 1 + Config.ingressDelay f % 24) })

/-- The home slice of a ring has its ingress bit set in the partition. -/
def ingressSlice (s : State) (p base : Nat) : Bool :=
  match regionOf base with
  | .tile d =>
    let b := 32 + 16 * d + bits base 26 23
    decide (s.fieldOf (offPart p rPtsmask) b b = 1)
  | _ => false

/-- The first cycle in which a claim of LBP n on ring rn may follow the claims already on their way: those of one ring are
taken in the order of their TILEOUTs, in one cycle by ascending LBP (03: R96). -/
def claimAfter (s : State) (n p rn : Nat) : Nat :=
  (s.lbps.flatMap fun e => if s.partOf (.lbp e.1) = p then e.2.sends.filterMap fun x => match x.2 with
      | .claim r _ _ _ _ _ _ => if r = rn then some (if e.1 < n then x.1 else x.1 + 1) else none
      | _ => none else []).foldl max 0

/-- The ring may take a row of width w from stage n (18: R447); otherwise the field concerned. -/
def tileBad (s : State) (n p rn w : Nat) : Option Nat :=
  let r := s.ring p rn
  let q := r.claim + claimsComing s p rn
  if w = 0 || 4096 < w then some 2
  else if p ≥ 4 || !r.rows || chainPort s 64 n ≠ some r.srcp || !ingressSlice s p r.base
      || decide (2 ^ (r.slog + 6) < 64 + r.rps * rstride w) then some 9
  else if q % max 1 r.rps ≠ 0 && sget 0 s.tileW (ringKey p rn) ≠ w then some 2
  else none

def tileoutBody (i : Instr) (a b : Code) (t rn ch : Nat) (s : State) : Body :=
  let n := lbpOf s.actor
  let p := s.partOf (.lbp n)
  let x := (s.rd b).toNat
  let w := bits x 28 16
  let (free, s) := if p < 4 then reportFree s p rn else (1, s)
  if s.sendBusy n || free = 0 then .wait s
  else match tileBad s n p rn w with
  | some f => badOperand f i
  | none =>
    let l := s.lbp n
    let rm := l.entry ((s.rd a).toNat % lbpNin s n)
    let q := (s.ring p rn).claim + claimsComing s p rn
    let occ := ceilDiv (64 + rstride w) 256
    let (f1, s) := s.takeFresh
    let (f2, s) := s.takeFresh
    let claimAt := max (s.wcc + 1 + Config.ingressDelay f2 % 40) (claimAfter s n p rn)
    let pubAt := max claimAt (s.wcc + occ + Config.ingressDelay f1 % 41)
    let next := (sget (0, 0) s.freeSeen (ringKey p rn)).2
    let s : State := { s with
      tileW := if q % max 1 (s.ring p rn).rps = 0 then sset 0 s.tileW (ringKey p rn) w else s.tileW
      freeSeen := insert s.freeSeen (ringKey p rn) (free - 1, next) }
    .done (send s n occ claimAt (.claim rn rm t ch (bits x 15 0) (l.orb.read 0 (2 * w)) pubAt)) .seq

/-- TILEOUT (R339). -/
def execTileout (h : Hdr) (a b : Code) (t : B4) (ring : B8) (ch : B4) (s : State) :
    Host.Outcome State Fault Refusal :=
  let i : Instr := .tileout h a b t ring ch
  issue h i (tileoutBody i a b t.toNat ring.toNat ch.toNat) s

/-! ### Rows on their way (12: R340) -/

/-- A row reaches the next stage or a work slot at the end of this cycle. -/
def sendOne (s : State) (n : Nat) (op : SendOp) : State :=
  match op with
  | .next dst rm data => appendRow s dst rm data
  | .slot k data => s.setLbp n { s.lbp n with buf := (s.lbp n).buf.write (8192 * k) data }
  | _ => s

def isRow (op : SendOp) : Bool :=
  match op with
  | .next _ _ _ | .slot _ _ => true
  | _ => false

/-- The rows of LBP n that reach the next stage or a work slot in this cycle. -/
def lbpSends (s : State) (n : Nat) : State :=
  let l := s.lbp n
  let now (e : Nat × SendOp) : Bool := isRow e.2 && decide (e.1 ≤ s.wcc)
  let s' := s.setLbp n { l with sends := l.sends.filter fun e => !now e }
  (l.sends.filter now).foldl (fun s e => sendOne s n e.2) s'

/-- The header of a new tile (12: R339; 03: R97). -/
def tileHeader (port fmt stride first seq : Nat) (rm : RowMeta) : Bytes :=
  natLe 8 (port % 256 + fmt * 2 ^ 8 + stride * 2 ^ 16 + rm.frame % 2 ^ 32 * 2 ^ 32)
    ++ natLe 8 (first % 65536 + 2 ^ 16 + seq % 2 ^ 32 * 2 ^ 32)
    ++ natLe 8 rm.tcap ++ natLe 8 rm.tmid ++ natLe 8 (natOfBool rm.sub) ++ natLe 24 0

/-- A row claims its unit and is written through the ingress ports. -/
def claimRow (s : State) (n rn : Nat) (rm : RowMeta) (t ch row : Nat) (data : Bytes) : State × Nat :=
  let p := s.partOf (.lbp n)
  let r := s.ring p rn
  let q := r.claim
  let s := s.setClaim p rn (q + 1)
  let stride := rstride (data.length / 2)
  let j := q % max 1 r.rps
  let at_ := r.addr q
  let bit := at_ + 32 + j / 8
  let old := ((latestRead s bit 1).headD 0).toNat
  let head : List (Nat × Byte) :=
    if j = 0 then runCells at_ (tileHeader r.srcp (ch * 16 + t) stride row (q / max 1 r.rps) rm)
    else [(at_ + 10, BitVec.ofNat 8 (j + 1)), (bit, BitVec.ofNat 8 (setBits old (j % 8) (j % 8) (natOfBool rm.sub)))]
  let body := runCells (at_ + 64 + j * stride) (data ++ natLe (stride - data.length) 0)
  (timedWrite s (head ++ body), q)

/-- The claims of LBP n that are due, each of which becomes a publication, or is discarded with its link. -/
def lbpClaims (s : State) (n : Nat) : State :=
  let step (acc : State × List (Nat × SendOp)) (e : Nat × SendOp) : State × List (Nat × SendOp) :=
    match e.2 with
    | .claim rn rm t ch row data pubAt =>
      if acc.1.wcc < e.1 then (acc.1, acc.2 ++ [e])
      else if acc.1.gone (acc.1.ring (acc.1.partOf (.lbp n)) rn).home then acc
      else
        let (s, q) := claimRow acc.1 n rn rm t ch row data
        (s, acc.2 ++ [(pubAt, .publish rn q row rm)])
    | _ => (acc.1, acc.2 ++ [e])
  let r := (s.lbp n).sends.foldl step (s, [])
  r.1.setLbp n { r.1.lbp n with sends := r.2 }

/-! ### Publication (12: R339, R343; 02: R54) -/

/-- The row of ordinal q is counted by the fusion sets that its port is a member of. -/
def countRow (s : State) (p port row q : Nat) (rm : RowMeta) : State :=
  (List.range 16).foldl (fun s f =>
    let v := s.reg (offFscfg f)
    let mine := bits v 29 29 = 1 && bits v 31 30 = p && bits v port port = 1 && (16 ≤ port || row = 0)
    if port < 20 && mine then
      let x := s.fset f
      let c : Counted := ⟨q, rm.tmid, rm.frame⟩
      let l := sget [] x.hist port ++ [c]
      s.setFset f { x with
        hist := insert x.hist port (l.drop (l.length - 4096))
        cands := if bits v 28 24 = port then x.cands ++ [c] else x.cands }
    else s) s

/-- The publications to come on ring rn of partition p: cycle and ordinal. -/
def pubsComing (s : State) (p rn : Nat) : List (Nat × Nat) :=
  s.lbps.flatMap fun e => if s.partOf (.lbp e.1) = p then e.2.sends.filterMap fun x => match x.2 with
      | .publish r q _ _ => if r = rn then some (x.1, q) else none
      | _ => none else []

/-- Ordinal q of a ring is published next: it is the lowest to come, and its cycle or that of a later one is here. -/
def pubNext (ps : List (Nat × Nat)) (wcc q : Nat) : Bool :=
  (ps.all fun x => decide (q ≤ x.2)) && ps.any fun x => decide (x.1 ≤ wcc)

/-- The publication of LBP n that is due, as it stands among the stage's sends. -/
def publishDue (s : State) (n : Nat) : Option (Nat × SendOp) :=
  if s.worked then (s.lbp n).sends.find? fun e => match e.2 with
    | .publish rn q _ _ => pubNext (pubsComing s (s.partOf (.lbp n)) rn) s.wcc q
    | _ => false
  else none

/-- TILEOUT_PUBLISH (R339). -/
def execTileoutPublish (s : State) : Host.Outcome State Fault Refusal :=
  let n := s.unit
  match publishDue s n with
  | some (t, .publish rn q row rm) =>
    let p := s.partOf (.lbp n)
    let r := s.ring p rn
    let s := s.setLbp n { s.lbp n with sends := (s.lbp n).sends.erase (t, .publish rn q row rm) }
    let s := s.setPub p rn (r.pub + 1)
    .next (fireRow (countRow s p r.srcp row q rm) p rn r.pub (r.pub + 1))
  | _ => .fault (.notDue "TILEOUT_PUBLISH")

/-! ### Starting a row program (12: R330) and its instruction memory (13: R348) -/

/-- LBPCTL.GO of LBP n. -/
def lbpStart (s : State) (n : Nat) : State :=
  let l := s.lbp n
  if l.seqr.run then s
  else
    let q : Seqr := { run := true, csr := sset 0 l.seqr.csr csrQstat 0, spill := l.seqr.spill, len := 16384, nextAt := s.wcc + 1 }
    s.setLbp n { l with seqr := q, vrf := [], masks := [], ain := 0, rin := 0, relNow := 0, orb := [], claimed := 0, stopped := false }

/-- A write through the instruction-memory window, taken only while the LBP is stopped. -/
def imemWrite (s : State) (off : Nat) (bs : Bytes) : State :=
  let n := s.fieldOf offLbpimw 5 0
  let l := s.lbp n
  if l.seqr.run then s else s.setLbp n { l with imem := l.imem.write off bs }

/-- LBP_IMEM_WRITE (R348). -/
def execLbpImemWrite (off : Nat) (v : DWord) (s : State) : Host.Outcome State Fault Refusal :=
  if off % 8 = 0 ∧ off < 16384 then .next (imemWrite s off (natLe 8 v.toNat)) else .fault (.noUnit off)

end Sys2Proof.Machine
end

