-- ==== Sys2Proof/Machine/Sensors.lean ====
section
/-! DEFINITION. The sensor ports and the time base (12: R323 to R328, R341; 19: R454, R455, R457). -/

namespace Sys2Proof.Machine

/-! ### The configuration of a port (12: R325) -/

def isCamera (p : Nat) : Bool := p < 16
def portCfg (s : State) (p : Nat) : Nat := if p < 16 then s.reg (offCamcfg p) else s.reg (offLidcfg (p - 16))
/-- Port p delivers: EN = 1, a partition owns it, and its training has not failed. EN = 1 on a port that nobody owns delivers
nothing (12: R325; the model's choice, log entry 114). -/
def portOn (s : State) (p : Nat) : Bool := bits (portCfg s p) 0 0 = 1 && (s.portOwner p).isSome && !(s.port p).off
/-- Rows of a frame or sweep. -/
def portRows (s : State) (p : Nat) : Nat :=
  let v := portCfg s p
  if p < 16 then bits v 63 48 else bits v 13 1
/-- Samples of a row. -/
def portWid (s : State) (p : Nat) : Nat :=
  let v := portCfg s p
  if p < 16 then bits v 47 32 else bits v 39 32 * bits v 47 40 / 2

/-- The stage whose input ring port p feeds (12: R331). -/
def firstStage (s : State) (p : Nat) : Option Nat := (List.range 64).find? fun n => lbpSrc s n = 0x80 + p

/-! ### The time base (12: R327, R328) -/

def tbnow (s : State) : Nat := s.tb / 2 ^ 28 % 2 ^ 64

/-- The time base after this cycle: the step, then the increment. -/
def tbNext (s : State) : Nat :=
  wrap 92 ((s.tb : Int) + s.tbAdd.toInt * 2 ^ 28 + (s.fieldOf offTbctl 63 32 : Nat))

/-- A step of the time base takes effect at the end of this cycle. -/
def tbStep (s : State) (v : DWord) : State := { s with tbAdd := s.tbAdd + v }

/-- TBSTEP_WRITE (R327). -/
def execTbstepWrite (v : DWord) (s : State) : Host.Outcome State Fault Refusal := .next (tbStep s v)

/-- TIME_SYNC_MESSAGE (R327): the follower runs on the lidar port that TBCTL.SRC names. -/
def execTimeSyncMessage (inc step : DWord) (s : State) : Host.Outcome State Fault Refusal :=
  let src := s.fieldOf offTbctl 7 5
  if 1 ≤ src ∧ src ≤ 4 then .next (tbStep (s.setField offTbctl 63 32 inc.toNat) step) else .next s

/-- TMID of a row captured at tcap. -/
def tmidOf (s : State) (p tcap : Nat) : Nat := wrap 64 ((tcap : Int) - sx (s.fieldOf (offPtim p) 31 0) 32)

/-! ### Records (19: R454) -/

/-- A record of a port, with the frame and the row index. -/
def portRecord (s : State) (p detail frame row : Nat) : State :=
  record s {
      det := 17, sev := 0, part := (s.portOwner p).getD 4, ukind := 8, unit := p, detail := detail,
      val := frame % 2 ^ 32 * 2 ^ 32 + row % 2 ^ 16 }

/-! ### Appending rows (12: R331, R332; 19: R454) -/

def rowMeta (s : State) (p frame row tcap : Nat) (sub : Bool) : RowMeta :=
  { frame := frame, row := row, tcap := tcap, tmid := tmidOf s p tcap, port := p, width := portWid s p, sub := sub }

/-- A row that the first stage's ring has room for. -/
def deliver (s : State) (p n frame row tcap : Nat) (sub : Bool) (data : Bytes) : State :=
  let s := appendRow s n (rowMeta s p frame row tcap sub) data
  let x := s.port p
  s.setPort p { x with lastTcap := tcap, app := if x.frame = frame then x.app + 1 else x.app }

/-- What a substituted row's slot is written with, under RPOL.POL. -/
def subData (s : State) (p n row : Nat) : Bytes :=
  let w := 2 * portWid s p
  let l := s.lbp n
  match s.fieldOf (offRpol p) 1 0 with
  | 0 => if row = 0 ∨ l.ain = 0 then natLe w 0 else l.buf.read (8192 * ((l.ain - 1) % lbpNin s n)) w
  | 2 => []
  | _ => natLe w 0

/-- A row that is due: appended, with a record where it is a substitute of a kind other than 0, or lost because the
ring is full. -/
def putRow (s : State) (p kind row tcap : Nat) (data : Nat → Bytes) : State :=
  let x := s.port p
  let s := s.setPort p { x with na := row + 1 }
  match firstStage s p with
  | none => s
  | some n =>
    if x.lost ≠ [] || ringFull s n then s.setPort p { s.port p with lost := x.lost ++ [(x.frame, row)] }
    else
      let s := if kind = 0 then s else portRecord s p kind x.frame row
      let s := deliver s p n x.frame row tcap (kind ≠ 0) (data n)
      if kind = 2 then s.setPort p { s.port p with late := row :: x.late } else s

/-- The next row due is substituted. -/
def substitute (s : State) (p kind tcap : Nat) : State :=
  let row := (s.port p).na
  putRow s p kind row tcap fun n => subData s p n row

/-- Rows due below `upTo` are dropped at once. -/
def dropRows (p upTo : Nat) : Nat → State → State
  | 0, s => s
  | fuel + 1, s => if (s.port p).na < upTo then dropRows p upTo fuel (substitute s p 1 (tbnow s)) else s

/-- The open frame closes: its missing rows are dropped. -/
def closeFrame (s : State) (p : Nat) : State :=
  if (s.port p).open_ then
    let s := dropRows p (portRows s p) 8192 s
    s.setPort p { s.port p with open_ := false }
  else s

/-- A frame or a sweep starts (12: R326, R328). -/
def startFrame (s : State) (p : Nat) : State :=
  let s := closeFrame s p
  let x := s.port p
  let fb := match firstStage s p with
    | some n => (s.lbp n).ain + x.lost.length
    | none => 0
  let s := s.setPort p { x with
    frame := if x.started then (x.frame + 1) % 2 ^ 32 else 0
    started := true, open_ := true, ix := 0, na := 0, app := 0, col := 0, late := [], fb := fb, tfs := tbnow s }
  fireFrame s p

/-- A row arrives for index r: in its turn, or late. -/
def arriveRow (s : State) (p r : Nat) (bad : Bool) (data : Bytes) : State :=
  let x := s.port p
  let t := tbnow s
  if x.na ≤ r then
    if bad then putRow s p 3 r t fun n => subData s p n r else putRow s p 0 r t fun _ => data
  else
    let q := x.fb + r
    match firstStage s p with
    | some n =>
      let l := s.lbp n
      if x.late.contains r && !bad && decide (l.claimed ≤ q) && l.holds q then
        let k := q % lbpNin s n
        let s := s.setLbp n { l with
          buf := l.buf.write (8192 * k) data
          rows := sset {} l.rows k (rowMeta s p x.frame r t false) }
        let s := s.setPort p { x with late := x.late.filter fun i => i ≠ r }
        portRecord s p 6 x.frame r
      else portRecord s p 7 x.frame r
    | none => portRecord s p 7 x.frame r

/-! ### Camera ports (12: R323; 19: R454) -/

/-- The bits of a sample of a CSI-2 data type. -/
def sampleBits (dt : Nat) : Option Nat :=
  match dt with
  | 0x2A => some 8
  | 0x2B => some 10
  | 0x2C => some 12
  | 0x2D => some 14
  | 0x2E => some 16
  | _ => none

/-- Each 16-bit sample of a row with the bits above its k bits zero. -/
def maskRow (k : Nat) : Bytes → Bytes
  | a :: b :: l => natLe 2 ((a.toNat + 256 * b.toNat) % 2 ^ k) ++ maskRow k l
  | _ => []

/-- FRAME_START (R326): a Frame Start short packet of a virtual channel. -/
def execFrameStart (port vc : Nat) (s : State) : Host.Outcome State Fault Refusal :=
  if 16 ≤ port then .fault (.noUnit port)
  else if portOn s port && decide (vc = bits (portCfg s port) 23 20) then .next (startFrame s port)
  else .next s

/-- FRAME_END (R454). -/
def execFrameEnd (port vc : Nat) (s : State) : Host.Outcome State Fault Refusal :=
  if 16 ≤ port then .fault (.noUnit port)
  else if portOn s port && decide (vc = bits (portCfg s port) 23 20) then .next (closeFrame s port)
  else .next s

/-- A row of the accepted channel and type. -/
def cameraRow (s : State) (p k : Nat) (data : Bytes) (bad : Bool) : State :=
  let x := s.port p
  if !x.open_ || portRows s p ≤ x.ix then portRecord s p 5 x.frame 0xFFFF
  else
    let s := s.setPort p { x with ix := x.ix + 1 }
    arriveRow s p x.ix (bad || decide (data.length ≠ 2 * portWid s p)) (maskRow k data)

/-- CAMERA_ROW (R454): a long packet of data type `di` mod 64 on virtual channel `di` / 64, its samples as two bytes
each; `bad` marks a packet ECC or CRC error. -/
def execCameraRow (port di : Nat) (data : Bytes) (bad : Bool) (s : State) : Host.Outcome State Fault Refusal :=
  let v := portCfg s port
  if 16 ≤ port then .fault (.noUnit port)
  else match sampleBits (di % 64) with
    | some k =>
      if portOn s port && decide (di % 64 = bits v 31 26) && decide (di / 64 = bits v 23 20) then
        .next (cameraRow s port k data bad)
      else .next s
    | none => .next s

/-! ### Lidar ports (12: R324; 19: R454) -/

/-- The bytes of an Ethernet frame around a UDP payload: its header and check sequence, and the IPv4 and UDP
headers. -/
def frameBytes : Nat := 46

/-- A datagram of the accepted port. One too short for its column index takes the next row due, x.na, as its column (the
model's choice, log entry 113). -/
def lidarRow (s : State) (p : Nat) (data : Bytes) (bad : Bool) : State :=
  let v := portCfg s p
  let hdr := bits v 31 24
  let coloff := bits v 23 16
  let n := 2 * portWid s p
  let x := s.port p
  let short := decide (data.length < hdr + n)
  let col := if coloff + 2 ≤ data.length then leNat ((data.drop coloff).take 2) else x.na
  let s := if !x.open_ || col = 0 || col < x.col then startFrame s p else s
  let s := s.setPort p { s.port p with col := col }
  if portRows s p ≤ col then portRecord s p 5 (s.port p).frame 0xFFFF
  else
    let s := dropRows p col 8192 s
    let s := s.setPort p { s.port p with ix := (s.port p).ix + 1 }
    arriveRow s p col (bad || short) ((data.drop hdr).take n)

/-- LIDAR_DATAGRAM (R324): an IPv4 UDP datagram for destination port `udpp` with payload `data`; `bad` marks a UDP
checksum error. -/
def execLidarDatagram (port udpp : Nat) (data : Bytes) (bad : Bool) (s : State) :
    Host.Outcome State Fault Refusal :=
  if port < 16 ∨ 20 ≤ port then .fault (.noUnit port)
  else if portOn s port && decide (udpp = bits (portCfg s port) 63 48) && decide (data.length + frameBytes ≤ 9216) then
    .next (lidarRow s port data bad)
  else .next s

/-! ### Links, deadlines and overruns (19: R454, R457; 12: R326) -/

/-- SENSOR_LINK_LOSS (R457). -/
def execSensorLinkLoss (port : Nat) (s : State) : Host.Outcome State Fault Refusal :=
  if 20 ≤ port then .fault (.noUnit port)
  else .next (portRecord (s.setPort port { s.port port with off := true }) port 0x10 0 0)

/-- SENSOR_LINK_RETURN (R457). -/
def execSensorLinkReturn (port : Nat) (s : State) : Host.Outcome State Fault Refusal :=
  if 20 ≤ port then .fault (.noUnit port)
  else .next (portRecord (s.setPort port { s.port port with off := false }) port 0x11 0 0)

/-- The deadline of the next row due has passed (12: R326). -/
def deadlinePassed (s : State) (p : Nat) : Bool :=
  let x := s.port p
  let v := s.reg (offPtim p)
  let base := bits v 47 32
  x.open_ && bits (portCfg s p) 0 0 = 1 && decide (x.na < portRows s p) && base ≠ 0 &&
    decide (x.tfs + 1000 * base + x.na * bits v 63 48 < tbnow s)

/-- ROW_DEADLINE (R326). -/
def execRowDeadline (s : State) : Host.Outcome State Fault Refusal :=
  if s.worked && deadlinePassed s s.unit then .next (substitute s s.unit 2 (tbnow s))
  else .fault (.notDue "ROW_DEADLINE")

/-- The first lost row of port p and the stage whose ring now has room for its substitute. -/
def overrunDue (s : State) (p : Nat) : Option (Nat × Nat × Nat) :=
  match (s.port p).lost, firstStage s p with
  | (f, r) :: _, some n => if s.worked && !ringFull s n then some (n, f, r) else none
  | _, _ => none

/-- OVERRUN_SUBSTITUTE (R454). -/
def execOverrunSubstitute (s : State) : Host.Outcome State Fault Refusal :=
  let p := s.unit
  match overrunDue s p with
  | none => .fault (.notDue "OVERRUN_SUBSTITUTE")
  | some (n, f, r) =>
    let s := s.setPort p { s.port p with lost := (s.port p).lost.tail }
    let s := portRecord s p 4 f r
    .next (deliver s p n f r (tbnow s) true (subData s p n r))

/-- CAMCFG.EN or LIDCFG.EN of port p goes from 0 to 1, or to 0 (12: R326). -/
def portEnabled (s : State) (p : Nat) (old new : Bool) : State :=
  let x := s.port p
  if old = new then s
  else if new then s.setPort p { x with frame := 0, started := false, open_ := false }
  else s.setPort p { x with open_ := false }

end Sys2Proof.Machine
end

