-- ==== Sys2Proof/Machine/Partition.lean ====
section
/-! DEFINITION. Partitions (13: R357 to R359, R478; 19: R463): the configuration lock, and the reset of a partition. -/

namespace Sys2Proof.Machine

/-! ### The configuration lock (R358, R478) -/

/-- Numbers x and y below 2^n have a bit in common. -/
def shareBit (x y n : Nat) : Bool := (List.range n).any fun i => x.testBit i && y.testBit i

/-- A partition's host window, of a partition that has one in host memory. -/
def hostWindow (s : State) (p : Nat) : Option (Nat × Nat) :=
  let v := s.reg (offPart p rPhwin)
  if 2 ^ 18 ≤ bits v 58 32 && bits v 26 0 ≤ bits v 58 32 then some (max (2 ^ 18) (bits v 26 0), bits v 58 32) else none

def windowsMeet (x y : Option (Nat × Nat)) : Bool :=
  match x, y with
  | some a, some b => decide (a.1 ≤ b.2) && decide (b.1 ≤ a.2)
  | _, _ => false

/-- The context area of partition p on a die: its first address and its length (02: R64). -/
def ctxArea (s : State) (p die : Nat) : Nat × Nat :=
  let r := s.reg (offPart p (rPctx die))
  (bits r 35 0 * 4096, (leaders s p die).length * 4 * bits r 51 40 * 4096)

/-- Two areas have a byte in common; an empty area has none. -/
def areasMeet (x y : Nat × Nat) : Bool := decide (0 < x.2) && decide (0 < y.2) && runsMeet x y

/-- Partitions p and q hold a resource in common: slices, channels, lockstep clusters, link slots, queue slots, port
slots, sensor ports, LBPs, host memory, context areas (R25, R357). -/
def sharesRegs (s : State) (p q : Nat) : Bool :=
  let both (r n : Nat) : Bool := shareBit (s.reg (offPart p r)) (s.reg (offPart q r)) n
  both rPtsmask 64 || both rChown 16 || both rPslot 48 || both rQslot 32 || both rPxslot 32 || both rPport 20 || both rPlbp 64
    || both rLsmask 28 || windowsMeet (hostWindow s p) (hostWindow s q)
    || [0, 1].any fun d => areasMeet (ctxArea s p d) (ctxArea s q d)

/-- A cluster has cores of p and cores of another partition. -/
def splitsCluster (s : State) (p : Nat) : Bool :=
  (List.range 24).any fun c =>
    let gs := (List.range 4).map fun i => 4 * c + i
    gs.any (fun g => s.partOfCore g = p) && !gs.all fun g => s.partOfCore g = p

/-- The LBPs and the port that a chain through LBP n runs through, upstream and downstream. -/
def chainUp (s : State) : Nat → Nat → List Nat
  | 0, _ => []
  | fuel + 1, n => n :: if lbpSrc s n < 64 then chainUp s fuel (lbpSrc s n) else []

def chainDown (s : State) : Nat → Nat → List Nat
  | 0, _ => []
  | fuel + 1, n => n :: if lbpNext s n < 64 then chainDown s fuel (lbpNext s n) else []

/-- A chain through an LBP of p runs through an LBP, or from a port, that p does not own. -/
def foreignChain (s : State) (p : Nat) : Bool :=
  (List.range 64).any fun n => s.lbpOwner n = some p && (
    (chainUp s 64 n ++ chainDown s 64 n).any (fun m => s.lbpOwner m ≠ some p) ||
    (match chainPort s 64 n with
     | some c => c < 20 && decide (s.portOwner c ≠ some p)
     | none => false))

/-- A fusion set whose FSCFG.PART names p, enabled or not, has a member port that p does not own (R478). -/
def foreignSet (s : State) (p : Nat) : Bool :=
  (List.range 16).any fun f =>
    let v := s.reg (offFscfg f)
    bits v 31 30 = p && (List.range 20).any fun c => bits v c c = 1 && s.portOwner c ≠ some p

def lockOverlap (s : State) (p : Nat) : Bool :=
  ((List.range 4).any fun q => q ≠ p && sharesRegs s p q) || splitsCluster s p || foreignChain s p || foreignSet s p

/-- A request for the lock of partition p. -/
def lockRequest (s : State) (p : Nat) : State :=
  if !ready s then s
  else
    let o := lockOverlap s p
    let s := s.setField offCfglock (4 + p) (4 + p) (natOfBool o)
    if o then s else s.setField offCfglock p p 1

/-- The partitions that a write of v to a field at bit `lo` names. -/
def namedParts (v lo : Nat) : List Nat := (List.range 4).filter fun p => bits v (lo + p) (lo + p) = 1

/-- CONFIG_LOCK_REQUEST (R358). -/
def execConfigLockRequest (v : DWord) (s : State) : Host.Outcome State Fault Refusal :=
  .next ((namedParts v.toNat 8).foldl lockRequest s)

/-! ### The start of a reset (19: R463 steps 1 and 2) -/

def stopSeqr (q : Seqr) : Seqr := { q with run := false }

/-- The core stops issuing, and what it had under way and queued is discarded. -/
def stopCore (x : Core) : Core :=
  { x with
    k := stopSeqr x.k, l := stopSeqr x.l, c := stopSeqr x.c, s := stopSeqr x.s
    task := none, st := .wait, pend := [], vops := [], mcmds := [], ccmds := [], awaits := [], trap := {}, cqWait := [] }

def ownCore (s : State) (p : Nat) (a : Actor) : Bool :=
  match a with
  | .core g _ => decide (s.partOfCore g = p)
  | _ => false

/-- Every task of partition p is gone. -/
def dropTasks (s : State) (p : Nat) : State :=
  let gone (t : Option Nat) : Bool := match t with
    | some t => decide ((s.task t).part = p)
    | none => false
  { s with
    dcs := s.dcs.map fun e => if gone e.2.task then (e.1, { e.2 with task := none }) else e
    tasks := s.tasks.filter fun e => e.2.part ≠ p }

/-- The accesses of engines without those of partition p's cores; the management controller's write there is left. -/
def coreEreqs (s : State) (p : Nat) : List EReq :=
  (s.ereqs.filter fun e => e.sfd || decide (s.partOfCore e.g ≠ p)).map fun e => if s.partOfCore e.g = p then { e with arrive := 0 } else e

/-- A write of 1 to PRST bit p. -/
def resetStart (s : State) (p : Nat) : State :=
  let s := dropTasks s p
  let s : State := { s with
    cores := s.cores.map fun e => if s.partOfCore e.1 = p then (e.1, stopCore e.2) else e
    lbps := s.lbps.map fun e => if s.lbpOwner e.1 = some p then
      (e.1, { e.2 with seqr := stopSeqr e.2.seqr, pend := [], vops := [], sends := [] }) else e
    dcs := s.dcs.map fun e => if s.chOwner e.1 = some p then
      (e.1, { e.2 with seqr := stopSeqr e.2.seqr, lands := [], closing := [0, 1] }) else e
    reqs := s.reqs.filter fun r => !ownCore s p r.own
    ereqs := coreEreqs s p }
  s.modPart p fun x => { x with resetting := some (s.wcc + 400000) }

/-- PARTITION_RESET (R359). -/
def execPartitionReset (v : DWord) (s : State) : Host.Outcome State Fault Refusal :=
  .next ((namedParts v.toNat 0).foldl resetStart s)

/-! ### What a reset leaves (R359) -/

/-- A sequencer after a core reset: its spill memory stays. -/
def resetSeqr (q : Seqr) : Seqr := { spill := q.spill }

/-- A core after a core reset. -/
def resetCore (x : Core) : Core :=
  { k := resetSeqr x.k, l := resetSeqr x.l, c := resetSeqr x.c, s := resetSeqr x.s
    vrf := x.vrf, masks := x.masks, wb := x.wb, sm := x.sm, acc := x.acc, accP := x.accP, sat := x.sat
    part := x.part, partP := x.partP, l1d := x.l1d, smEcc := x.smEcc, l1Ecc := x.l1Ecc }

/-- An LBP after its reset: its line buffer, vector registers and instruction memory stay. -/
def resetLbp (l : Lbp) : Lbp :=
  { seqr := resetSeqr l.seqr, vrf := l.vrf, masks := l.masks, buf := l.buf, imem := l.imem, orb := l.orb }

/-- A bank's time as wall time, where schedule time returns to 0 from cycle c. A stream's refresh under way is none of a hold
or of an idle DCS (11: R317): the bank comes to idle as after a precharge. -/
def wallBank (wcc c : Nat) (b : BankSt) : BankSt :=
  let at_ (u : Nat) : Nat := ((u : Int) - 4 * c + 4 * wcc).toNat
  match b with
  | .precharging u false => .precharging (at_ u) true
  | .refreshing u false => .precharging (at_ u) true
  | b => b

/-- A DCS after its reset: the DRAM, its refreshes and its debts go on. -/
def resetDcs (wcc c : Nat) (d : Dcs) : Dcs :=
  { d with
    seqr := resetSeqr d.seqr, task := none, tsb := 0, lands := [], mrr := [], mig := none
    banks := d.banks.map fun e => (e.1, wallBank wcc c e.2)
    hist := d.hist.map fun h => { h with own := true }
    cad := d.cad.map fun e => (e.1, e.2 - 36 * c) }

/-- Registers return to their reset values. -/
def resetRegs (s : State) (offs : List Nat) : State := offs.foldl (fun s o => s.setReg o (regReset o)) s

/-- QUAR and PARAM of DCSFLT are cleared; its counts of corrected and uncorrectable bursts stay (19: R450). -/
def clearQuar (s : State) (hs : List Nat) : State := hs.foldl (fun s h => s.setField (offDcs h rDcsflt) 8 0 0) s

/-- The bytes of BAR0 from lo up to hi are zero. -/
def clearBar0 (s : State) (lo hi : Nat) : State := { s with bar0 := s.bar0.filter fun e => e.1 < lo || hi ≤ e.1 }

/-- The registers that a reset of partition p returns to their reset values: its own, those of its ports, LBPs and
fusion sets, FCTL, and MIGCTL of its channels. -/
def partRegs (s : State) (p : Nat) : List Nat :=
  [offPart p rHoldLimit, offPart p rAwaitLimit, offPart p rHslot, offPart p (rPctx 0), offPart p (rPctx 1), offPart p rPmsga,
    offPart p rPthr, offFctl p]
  ++ ((List.range 20).filter fun c => s.portOwner c = some p).flatMap (fun c =>
      [if c < 16 then offCamcfg c else offLidcfg (c - 16), offPtim c, offRpol c])
  ++ ((List.range 64).filter fun n => s.lbpOwner n = some p).flatMap (fun n => [offLbpcfg n, offLbpctl n])
  ++ ((List.range 16).filter fun f => bits (s.reg (offFscfg f)) 31 30 = p).flatMap (fun f => [offFscnt f, offFscfg f])
  ++ ((List.range 16).filter fun h => s.chOwner h = some p).map fun h => offDcs h rMigctl

/-- The queues of partition p that are bound, announced or notified return to unbound with HEAD = TAIL. -/
def unbindQueues (s : State) (p : Nat) : State :=
  let x := s.part p
  let qs := x.slots.map (fun e => e.2 - 1) ++ x.announced ++ s.notified.filter fun q => s.fieldOf (offQdesc q + 8) 7 6 = p
  let s := qs.foldl (fun s q => s.setField (offQdesc q + 16) 63 32 (s.fieldOf (offQdesc q + 16) 31 0)) s
  { s with
    notified := s.notified.filter fun q => !qs.contains q
    cdaWait := s.cdaWait.filter fun e => s.fieldOf (offQdesc e.1 + 8) 7 6 ≠ p }

/-- The writes of partition p reach every view, and its counts of writes return to 0. -/
def settleWrites (s : State) (p : Nat) : State :=
  let ws := s.vwrites.filter fun w => w.part = p
  let s := ws.foldl (fun s w => applyWrite (applyWrite s w 0) w 1) s
  { s with
    applied := s.applied.filter fun e => e.1 / 8 ≠ p
    sentNo := s.sentNo.filter fun e => e.1 / 4 ≠ p
    know := s.know.filter fun e => e.1 / 8 ≠ p }

/-- The state of R359. -/
def resetState (s : State) (p : Nat) : State :=
  let c := s.sccOf p
  let s := settleWrites (unbindQueues (dropTasks s p) p) p
  let ports := (List.range 20).filter fun n => s.portOwner n = some p
  let sets := (List.range 16).filter fun f => bits (s.reg (offFscfg f)) 31 30 = p
  let s : State := { s with
    cores := s.cores.map fun e => if s.partOfCore e.1 = p then (e.1, resetCore e.2) else e
    lbps := s.lbps.map fun e => if s.lbpOwner e.1 = some p then (e.1, resetLbp e.2) else e
    dcs := s.dcs.map fun e => if s.chOwner e.1 = some p then (e.1, resetDcs s.wcc c e.2) else e
    ports := s.ports.map fun e => if ports.contains e.1 then (e.1, { off := e.2.off }) else e
    sets := s.sets.filter fun e => !sets.contains e.1
    walks := s.walks.filter fun w => w.part ≠ p
    tileW := s.tileW.filter fun e => e.1 / 256 ≠ p
    freeSeen := s.freeSeen.filter fun e => e.1 / 256 ≠ p
    reqs := s.reqs.filter fun r => !ownCore s p r.own
    ereqs := coreEreqs s p }
  let s := clearQuar (resetRegs s (partRegs s p)) ((List.range 16).filter fun h => s.chOwner h = some p)
  let s := clearBar0 (clearBar0 s (offTrig p 0) (offTrig p 256)) (offRing p 0) (offRing p 256)
  let s := s.setField offCfglock p p 0
  let x := s.part p
  s.setPart p { xl0 := x.xl0, xl1 := x.xl1 }

/-! ### Its end (R463 steps 2 to 4) -/

/-- A request of partition p's is outstanding at the host or at the peer. -/
def ofPart (s : State) (p : Nat) (o : Outstanding) : Bool :=
  match o.why with
  | .walk n => s.walks.any fun w => w.no = n && w.part = p
  | .ceRead g _ _ _ | .cePeer g _ => decide (s.partOfCore g = p)
  | .entry q _ => decide (q = p)
  | .cda q => decide (s.fieldOf (offQdesc q + 8) 7 6 = p)

def resetEnds (s : State) (p : Nat) : Bool :=
  match (s.part p).resetting with
  | some t => p < 4 && (decide (t ≤ s.wcc) || !s.outst.any (ofPart s p))
  | none => false

/-- PARTITION_RESET_DONE (R463). -/
def execPartitionResetDone (s : State) : Host.Outcome State Fault Refusal :=
  let p := s.unit
  if resetEnds s p then
    let s : State := { s with outst := s.outst.filter fun o => !ofPart s p o }
    let s := resetState s p
    .next (csEvent { s with seqReset := s.seqReset ++ [p] } 8 p 0 0 1 0)
  else .fault (.notDue "PARTITION_RESET_DONE")

end Sys2Proof.Machine
end

