-- ==== Sys2Proof/Machine/Boot.lean ====
section
/-! DEFINITION. Device reset, boot and attestation, and the safety island's port (13: R348, R361 to R364; 16: R397, R401;
19: R462). -/

namespace Sys2Proof.Machine

/-! ### Resets (13: R361; 16: R397, R401) -/

/-- The offsets of BAR0 that a warm reset leaves: the contact sheet with CSHEAD, and the boot SRAM. -/
def keptOff (o : Nat) : Bool :=
  (offCshead ≤ o && o < offCshead + 8) || (offCsheet ≤ o && o < offQdesc 0) || (offBootSram ≤ o && o < 0x400000)

/-- Inputs that have not come keep their distance from the present. -/
def rebase (s : State) : List (Nat × Instr) := s.inputs.map fun e => (e.1 - s.wcc, e.2)

/-- A device reset without loss of power. The memories keep their contents until boot zeroises them. -/
def warmReset (s : State) : State :=
  let s := csFlush s
  { State.reset with
    cores := s.cores.map fun e => (e.1, resetCore e.2)
    lbps := s.lbps.map fun e => (e.1, resetLbp e.2)
    dcs := s.dcs.map fun e => (e.1, { mem := e.2.mem, bad := e.2.bad })
    mgmtMem := s.mgmtMem, view0 := s.view0, view1 := s.view1, tsEcc := s.tsEcc, wEcc := s.wEcc
    bar0 := s.bar0.filter fun e => keptOff e.1
    fresh := s.fresh, effNo := s.effNo, host := s.host, peer := s.peer, hostUp := s.hostUp
    inputs := rebase s, warm := true }

/-- DEVICE_RESET (R401). -/
def execDeviceReset (s : State) : Host.Outcome State Fault Refusal := .next (warmReset s)

/-- POWER_ON (R401): the contact sheet is empty and CSHEAD is 0. -/
def execPowerOn (s : State) : Host.Outcome State Fault Refusal :=
  .next { State.reset with fresh := s.fresh, effNo := s.effNo, host := s.host, peer := s.peer, inputs := rebase s }

/-! ### Boot (13: R362, R363; 19: R462) -/

/-- The image in boot SRAM, by offset. -/
def bootSram (s : State) : List (Nat × Byte) := (s.bar0.filter fun e => offBootSram ≤ e.1 && e.1 < 0x400000).map fun e => (e.1 - offBootSram, e.2)

def bootMagic : Nat := 0x4C424D39

/-- CALPH at a failure with code `err`. -/
def failPhase (err : Nat) : Nat :=
  match err with
  | 8 => 1
  | 9 => 2
  | 10 => 4
  | _ => 0

/-- A boot attempt fails with code err. -/
def bootFail (s : State) (err unit : Nat) : State :=
  let s := s.setField offBootstat 23 0 (err + failPhase err * 2 ^ 8 + unit * 2 ^ 16)
  let s := s.setField offStatus 15 8 (failPhase err)
  record s { det := 14, sev := 3, part := 4, ukind := 9, unit := 0, code := 0, detail := err }

/-- The wall cycles from which the phases 1 to k of self-calibration run, in a boot that ends at `ready`: how long each
takes is free (log entry 7). -/
def calPhases (n start ready : Nat) : Nat → List Nat
  | 0 => []
  | k + 1 =>
    let l := calPhases n start ready k
    l ++ [min ready (l.getLast?.getD start + Config.calDelay n k)]

/-- BOOT_GO (R363, R462): an attempt starts, unless one is under way or the device is ready. -/
def bootStart (s : State) : State :=
  if ready s || s.bootAt.isSome then s
  else
    let s := s.setField offBootstat 31 24 (s.fieldOf offBootstat 31 24 + 1)
    let s := (s.setField offStatus 15 8 0).setField offStatus 2 1 0
    if s.reg32 offBootSram ≠ bootMagic then bootFail s 1 0
    else
      let (n, s) := s.takeFresh
      let err := (Config.bootErr n).toNat % 11
      let s := s.setField offStatus 1 1 (natOfBool (decide (err = 0) || decide (7 ≤ err)))
      if err ≠ 0 then bootFail s err (Config.bootUnit n).toNat
      else
        let ready := s.wcc + Config.bootDelay n
        { s.setField offBootstat 23 0 0 with bootAt := some ready, bootPh := calPhases n s.wcc ready 4 }

/-- BOOT_GO (R363). -/
def execBootGo (s : State) : Host.Outcome State Fault Refusal := .next (bootStart s)

/-- DTIM i as it is loaded: reserved bits read zero, and DTIM3.BURST is 24 and SLACK 6 (11: R311). -/
def dtimLoad (i v : Nat) : Nat :=
  if i = 3 then setBits (setBits (v % 2 ^ 40) 31 24 24) 23 16 6 else v % 2 ^ 60

/-- What step 4 leaves of a DCS: DTIM, RRMAP and the remap tables are loaded, its DRAM holds zero, and mode register 4
has been read (11: R297, R319, R322). An entry that the retirement list does not name is not in use, whatever a write
before READY put there. -/
def bootDcs (s : State) (img : BootImage) (h : Nat) : State :=
  let s := clearBar0 s (offDcs h (rRemap 0 0 0)) (offDcs h (rDirty 2 0 0))
  let s := (List.range 4).foldl (fun s i => s.setReg (offDcs h (rDtim i)) (dtimLoad i (img.dtim.getD i 0).toNat)) s
  let s := s.setReg (offDcs h rRrmap) (img.rrmap.toNat &&& 0x700FFFFFF)
  let s := s.setDcs h { s.dcsAt h with mem := [], bad := [], weak := [] }
  let s := pollMr4 s h
  s.setDcs h { s.dcsAt h with poll := s.wcc + 25600 }

/-- New helper data is placed at 0x1F0000 of boot SRAM where the image held none. -/
def enrol (s : State) (img : BootImage) (n : Nat) : State :=
  if img.noHelper then
    let bs := (Config.helperData n).take 0xFFFF
    let s := bar0Write s (offBootSram + 0x1F0000) bs
    (s.setField offBootstat 63 48 bs.length).setField offStatus 2 2 1
  else s

/-- Camera ports whose A-PHY training has failed stay down (R462); the lidar ports have none (12: R324). -/
def trainPorts (s : State) (n : Nat) : State :=
  (List.range 16).foldl (fun s p =>
    if Config.aphyFails n p then
      record (s.setPort p { s.port p with off := true }) {
        det := 17, sev := 0, part := (s.portOwner p).getD 4, ukind := 8, unit := p, detail := 0x0012 }
    else s) s

/-- A digest, of 48 bytes (SHA-384). -/
def digest48 (bs : Bytes) : Bytes := natLe 48 (leNat (Config.digest bs))

/-- What a report says of the booted image: the digest of the image, its version in bytes 7 to 4 of the header, the
digest of each key certificate (R363; log entry 85). -/
def imageReport (s : State) (img : BootImage) : Bytes :=
  let image := (bootSram s).filter fun e => e.1 < 0x1E0000
  digest48 (image.flatMap fun e => natLe 3 e.1 ++ [e.2]) ++ natLe 4 (s.reg32 (offBootSram + 4)) ++ img.certs.flatMap digest48

/-- Calibration ends: memories are zero, READY is set, the pins rise, and the management controller starts. -/
def bootEnd (s : State) : State :=
  let img := Config.bootImage (bootSram s)
  let (n, s) := s.takeFresh
  let s : State := { s with
    cores := [], view0 := [], view1 := [], tsEcc := [], wEcc := [], bootAt := none
    lbps := []
    mgmtMem := cells 0 0 (img.code.take 0x400000), bootPh := [], imgReport := imageReport s img
    runMrs := img.runMrs.foldl (fun m r => insert m r true) [] }
  let s := (List.range 16).foldl (fun s h => bootDcs s img h) s
  let s := img.retired.foldl (fun s e => s.setReg32 (offDcs e.1.1 (rRemap e.1.2.1 e.1.2.2.1 e.1.2.2.2)) (setBits (e.2.toNat % 2 ^ 20) 19 18 0)) s
  let s := (List.range 4).foldl (fun s p => clearBar0 (clearBar0 s (offTrig p 0) (offTrig p 256)) (offRing p 0) (offRing p 256)) s
  let s := trainPorts (enrol s img n) n
  let s := s.setField offStatus 15 8 5
  let s := s.setField offStatus 0 0 1
  let stay (v : Nat) : Nat := setBits (setBits v 24 24 (bits s.pinNow 24 24)) 12 8 (bits s.pinNow 12 8)
  let s := s.setReg offFpin (fpinSettle (stay (s.reg offFpin)))
  let s := csEvent s 8 4 0 0 (if s.warm then 0 else 2) 0
  { s with mgmt := { s.mgmt with run := true, pc := 0, len := 0x400000, nextAt := s.wcc + 1 } }

/-- BOOT_READY (R397). -/
def execBootReady (s : State) : Host.Outcome State Fault Refusal :=
  match s.bootAt with
  | some t => if t ≤ s.wcc then .next (bootEnd s) else .fault (.notDue "BOOT_READY")
  | none => .fault (.notDue "BOOT_READY")

/-! ### Attestation (R348, R363) -/

/-- The registers of partition p's configuration (R357), by number and value. -/
def configBytes (s : State) (p : Nat) : Bytes :=
  let offs := (List.range 22).map (fun i => offPart p (8 * i)) ++ (List.range 96).map offDmr
    ++ (List.range 84).map (fun i => 0x50000 + 8 * i) ++ (List.range 64).map offLbpcfg ++ (List.range 16).map offFscfg
    ++ [offFctl p] ++ (List.range 128).map offBar2map
  (offs.filter fun o => s.regOwner o = some p).flatMap fun o => natLe 3 o ++ natLe 8 (s.reg o)

/-- The fields of a report (R363): of the image, the digest of every locked partition configuration, the nonce. -/
def reportFields (s : State) : Bytes :=
  s.imgReport ++ (((List.range 4).filter s.locked).flatMap fun p => digest48 (configBytes s p))
    ++ bar0Read s offNonce 48

/-- A report over the nonce, at 0x1E0000 of boot SRAM: its fields, then the RSA-3072 PSS signature of 384 bytes and the
SLH-DSA-SHA2-192s signature of 16,224 bytes over them (R348). -/
def attest (s : State) : State :=
  if !ready s then s
  else
    let (n, s) := s.takeFresh
    let fields := reportFields s
    let bs := fields ++ natLe 384 (leNat (Config.signature n 0 fields)) ++ natLe 16224 (leNat (Config.signature n 1 fields))
    (bar0Write s (offBootSram + 0x1E0000) bs).setReg offAttctl (2 + bs.length % 65536 * 2 ^ 48)

/-- ATTEST_GO (R348). -/
def execAttestGo (s : State) : Host.Outcome State Fault Refusal := .next (attest s)

/-! ### The safety island's port (16: R397) -/

/-- SPI_READ (R397): bytes of the fault registers from a BAR0 offset on. -/
def execSpiRead (off len : Nat) (s : State) : Host.Outcome State Fault Refusal :=
  if offFpin ≤ off && off + len ≤ 0x100000 then .next { s with spi := regBytesAt s off len }
  else .next { s with spi := [] }

end Sys2Proof.Machine
end

