-- ==== Sys2Proof/Machine/Engines.lean ====
section
/-! DEFINITION. The meanings of PUSH and POP, of the start of each copy-engine command, of command completion, of
completion words that waited, and what an answer of the host or the peer does to a command (10: R280 to R295; 18: R444;
19: R460). -/

namespace Sys2Proof.Machine

/-- PUSH (R280). -/
def execPush (h : Hdr) (o : A3) (x : XM) (s : State) : Host.Outcome State Fault Refusal :=
  issue h (.push h o x) (pushBody (.push h o x) o x) s

/-- The next instruction of a sequencer of core g, where its word is a POP (06: R160). -/
def nextPop (s : State) (g : Nat) (r : SeqId) : Option (Hdr × Instr) :=
  let y := (s.core g).seqr r
  let w := (if dieOf g = 0 then s.view0 else s.view1).word (y.base + y.pc)
  if bits w.toNat 25 18 = 0x79 then some (hdrOf w, .pop (hdrOf w) (fld w 12 6) (w.getLsbD 0)) else none

/-- Sequencer r of core g may pop in this cycle and has not yet issued. -/
def willPop (s : State) (g : Nat) (r : SeqId) : Bool :=
  let a : Actor := .core g r
  mayStill s a && decide ((s.seqr a).qual ≠ some false) && (match nextPop s g r with
    | some (h, i) => s.timedOf a || (tokensThere h (s.seqr a) && regsReady s a i)
    | none => false)

/-- The sequencers of core g that pop before q where both pop in one cycle, and are still to issue; none where nothing more
of them is to be waited for. -/
def popsBefore (s : State) (g : Nat) (q : SeqId) : Nat :=
  if ((s.core g).seqr q).denied then 0
  else (allSeq.filter fun r => decide (seqNum r < seqNum q) && willPop s g r).length

/-- The pops of cq made in this cycle that come before a pop of q. -/
def popsMade (x : Core) (q : SeqId) : Nat := (x.pend.filter fun l => match l.eff with
  | .cqPop r _ _ => decide (seqNum r < seqNum q)
  | _ => false).length

/-- POP (R281): the pop takes its entry at the end of the cycle, in the order K, L, C, S. -/
def popBody (i : Instr) (d : Code) (nr : Bool) (s : State) : Body :=
  match s.actor with
  | .core g q =>
    let x := s.core g
    let before := popsBefore s g q
    let n := x.cq.length - popsMade x q
    if !nr && n = 0 then (if s.timedOf s.actor then .sched 4 else .wait s)
    else if !nr && n ≤ before then .keep
    else
      let s := acquire s g q 3
      .done (s.addEff s.actor (s.now s.actor) (s.origin s.actor i) (.cqPop q d nr)) .seq
  | _ => .wait s

/-- POP (R281). -/
def execPop (h : Hdr) (d : Code) (pm : Bool) (s : State) : Host.Outcome State Fault Refusal :=
  issue h (.pop h d pm) (popBody (.pop h d pm) d pm) s

/-- The pops of this cycle of one core take their words, in the order K, L, C, S; the words land among the results of the
cycle, in issue order (07: R176). -/
def popWords (s : State) (g : Nat) : State :=
  let now := s.sccOf (s.partOfCore g)
  allSeq.foldl (fun s q =>
    match (s.core g).pend.find? fun l => l.due = now && (match l.eff with
        | .cqPop r _ _ => decide (r = q)
        | _ => false) with
    | some l =>
      (match l.eff with
       | .cqPop _ d _ =>
         let x := s.core g
         let w : BitVec 128 := (x.cq.head?.map (·.word)).getD 0
         let s := s.setCore g ({ x with cq := x.cq.tail } |>.setSeqr q (setCsrNat (x.seqr q) csrQstat (natOfBool x.cq.isEmpty)))
         landNow (landNow s g l.id l.org (.reg q d (w.setWidth 64))) g l.id l.org (.reg q (d + 1) ((w >>> 64).setWidth 64))
       | _ => s)
    | none => s) s

/-! ### The start of a command (R282) -/

/-- The head of stream `sub` of core `unit` starts, where it is a command of that code. -/
def ceEvent (mn : String) (code : Nat) (s : State) : Host.Outcome State Fault Refusal :=
  match ceMayStart s s.unit s.sub with
  | some c => if c.code = code then .next (ceStart s s.unit c) else .fault (.notDue mn)
  | none => .fault (.notDue mn)

/-- COPY1D (R286). -/
def execCopy1d (s : State) : Host.Outcome State Fault Refusal := ceEvent "COPY1D" 0 s
/-- COPYND (R288). -/
def execCopynd (s : State) : Host.Outcome State Fault Refusal := ceEvent "COPYND" 1 s
/-- GATHER (R289). -/
def execGather (s : State) : Host.Outcome State Fault Refusal := ceEvent "GATHER" 2 s
/-- SCATTER (R289). -/
def execScatter (s : State) : Host.Outcome State Fault Refusal := ceEvent "SCATTER" 3 s
/-- SHAPE (R290). -/
def execShape (s : State) : Host.Outcome State Fault Refusal := ceEvent "SHAPE" 4 s
/-- SCOPY (R291). -/
def execScopy (s : State) : Host.Outcome State Fault Refusal := ceEvent "SCOPY" 5 s
/-- BATOM (R292). -/
def execBatom (s : State) : Host.Outcome State Fault Refusal := ceEvent "BATOM" 6 s
/-- COLL (R293). -/
def execColl (s : State) : Host.Outcome State Fault Refusal := ceEvent "COLL" 7 s

/-! ### Completion (R294, R295) -/

/-- CE_COMMAND_COMPLETE (R294, R295). -/
def execCeCommandComplete (s : State) : Host.Outcome State Fault Refusal :=
  match s.worked, ceDone s s.unit s.sub with
  | true, some c => .next (ceComplete s s.unit c)
  | _, _ => .fault (.notDue "CE_COMMAND_COMPLETE")

/-- A word of core g that found cq full can enter it. -/
def wordDue (s : State) (g : Nat) : Bool :=
  s.worked && !s.held (s.partOfCore g) && !(s.core g).cqWait.isEmpty && decide ((s.core g).cq.length < capCq)

/-- CQ_WORD_ENTER (R295). -/
def execCqWordEnter (s : State) : Host.Outcome State Fault Refusal :=
  if wordDue s s.unit then .next (enterWaiting s s.unit) else .fault (.notDue "CQ_WORD_ENTER")

/-- COLL_MATCH_TIMEOUT (R444). -/
def execCollMatchTimeout (s : State) : Host.Outcome State Fault Refusal :=
  match collLate s s.unit s.sub with
  | some c => .next (s.setCe s.unit { c with
      status := 1, count := 0, outs := [], doneAt := some (s.sccOf (s.partOfCore s.unit)) })
  | none => .fault (.notDue "COLL_MATCH_TIMEOUT")

/-! ### Translation and the answers of the host and the peer (03: R104; 19: R460) -/

/-- The command of stream str of core g that waits for tag. -/
def ceWaiting (s : State) (g str tag : Nat) : Option CCmd :=
  (sget [] (s.core g).ccmds str).find? fun c => c.outs.contains tag

/-- A command's request is answered with data, or has failed. -/
def ceAnswer (s : State) (g str tag off : Nat) (res : Bytes ⊕ Nat × Nat) : State :=
  match ceWaiting s g str tag with
  | none => s
  | some c =>
    let c := { c with outs := c.outs.filter (· ≠ tag) }
    s.setCe g (match res with
      | .inl bs => { c with buf := c.buf.write off bs }
      | .inr (status, detail) => endLate c status detail (c.from_ + off))

end Sys2Proof.Machine
end

