-- ==== Sys2Proof/Machine/HostPort.lean ====
section
/-! DEFINITION. The host and peer ports (13: R345, R350 to R356; 17: R418 to R420, R423, R424; 19: R460, R461): BAR2
and peer accesses, messages, host queues, completions, and the links to the host and the peer. -/

namespace Sys2Proof.Machine

/-! ### Messages (R355) -/

/-- A host message to partition p, with the tag last written. -/
def hostMessage (s : State) (p : Nat) (v : Nat) : State :=
  fireMessage s p 4 (s.part p).msgTag (BitVec.ofNat 64 (v % 2 ^ 48))

/-- HOST_MESSAGE (R355): a write of HMSG's second doubleword. -/
def execHostMessage (p : Nat) (v : DWord) (s : State) : Host.Outcome State Fault Refusal :=
  if p < 4 then .next (hostMessage s p v.toNat) else .fault (.noUnit p)

/-! ### BAR2 and the peer's requests (R350, R351, R356; 17: R423, R424; 19: R461) -/

/-- The entry that maps BAR2 offset o, and the tile-store address. -/
def bar2Entry (s : State) (o : Nat) : Nat := s.reg (offBar2map (bits o 27 21))
def bar2Addr (s : State) (o : Nat) : Nat := bits (bar2Entry s o) 6 0 * 2 ^ 21 + bits o 20 0
def bar2Part (s : State) (o : Nat) : Nat := bits (bar2Entry s o) 61 60

/-- The run's bytes lie in slices of partition p. -/
def inSlices (s : State) (p a n : Nat) : Bool := (runPoints a n).all (ownsTile s p)

/-- An access of the host's is refused: the advisory non-fatal error and the record (R461). -/
def hostRefusal (s : State) (p a : Nat) : State :=
  record { s with advisory := true } { det := 15, sev := 0, part := p, ukind := 4, unit := 0, addr := a % 2 ^ 48 }

/-- An access joins those that wait for their banks. -/
def enqueue (s : State) (o : Bar2Op) : State :=
  { s with effNo := s.effNo + 1, bar2 := s.bar2 ++ [{ o with id := s.effNo, parts := runSectors (o.addr, o.len), arrive := s.sccOf o.p }] }

/-- An access of the host port is one that a request can carry: within BAR2 and a page of 4 KiB. -/
def bar2Fits (off n : Nat) : Bool := 0 < n && off + n ≤ 2 ^ 28 && off % 4096 + n ≤ 4096

/-- The access maps into its partition's slices. -/
def bar2Maps (s : State) (off n : Nat) : Bool :=
  bits (bar2Entry s off) 63 63 = 1 && inSlices s (bar2Part s off) (bar2Addr s off) n

/-- BAR2_WRITE (R350, R351). -/
def execBar2Write (off : Nat) (data : Bytes) (s : State) : Host.Outcome State Fault Refusal :=
  if !bar2Fits off data.length then .fault (.noUnit off)
  else
    let p := bar2Part s off
    let a := bar2Addr s off
    if !bar2Maps s off data.length then .next (hostRefusal s p a)
    else .next (enqueue s {
      id := 0, kind := 0, p := p, addr := a, data := data, len := data.length, op := 0, w := 0, y := 0, z := 0 })

/-- A read that a request can carry in BAR0, at offset 2^28 here, or in BAR4, behind BAR0 (13: R345). -/
def barFits (off n : Nat) : Bool :=
  0 < n && 2 ^ 28 ≤ off && off + n ≤ 2 ^ 28 + 2 ^ 22 + 2 ^ 16 && off % 4096 + n ≤ 4096

/-- What BAR0 and BAR4 read as: the registers, and zeros for the notify registers, which are written only. -/
def barRead (s : State) (o n : Nat) : Bytes := if o < 2 ^ 22 then regBytesAt s o n else natLe n 0

/-- BAR2_READ (R350, R351), and the reads of BAR0 and BAR4, which complete at once (R345, R346; the model's choice, log
entry 98). -/
def execBar2Read (off len : Nat) (s : State) : Host.Outcome State Fault Refusal :=
  if barFits off len then .next (hostSend { s with effNo := s.effNo + 1 } (.cpl s.effNo (barRead s (off - 2 ^ 28) len)))
  else if !bar2Fits off len then .fault (.noUnit off)
  else
    let p := bar2Part s off
    let a := bar2Addr s off
    if !bar2Maps s off len then
      .next (hostSend { hostRefusal s p a with effNo := s.effNo + 1 } (.cpl s.effNo (natLe len 0)))
    else .next (enqueue s { id := 0, kind := 1, p := p, addr := a, data := [], len := len, op := 0, w := 0, y := 0, z := 0 })

/-- HOST_ATOMIC (R423, R424, R461): w 3 names 64 bits, else 32. -/
def execHostAtomic (off : Nat) (op : B4) (w : B2) (y z : DWord) (s : State) : Host.Outcome State Fault Refusal :=
  let n := if w = 3 then 8 else 4
  if !bar2Fits off n then .fault (.noUnit off)
  else
    let p := bar2Part s off
    let a := bar2Addr s off
    let known := op = 0 || op = 5 || op = 6
    if !known || off % n ≠ 0 || bits (bar2Entry s off) 62 62 = 0 || s.fieldOf (offPart p rHslot) 15 8 < 2 then
      .next (hostSend { hostRefusal s p a with effNo := s.effNo + 1 } (.ur s.effNo))
    else if !bar2Maps s off n then
      .next (hostSend { hostRefusal s p a with effNo := s.effNo + 1 } (.cpl s.effNo (natLe n 0)))
    else .next (enqueue s {
      id := 0, kind := 2, p := p, addr := a, data := [], len := n, op := op.toNat, w := n, y := y, z := z })

/-- A request of the peer's to partition p: op 0 writes data; otherwise op - 1 is 16 u8 + 32 U + the operation of
an atomic, with its operands in data. -/
def peerRequest (s : State) (p tag addr op : Nat) (data : Bytes) : State :=
  let at_ := op - 1
  let w := if bits at_ 4 4 = 1 then 8 else 4
  let n := if op = 0 then data.length else w
  if p ≥ 4 || n = 0 || !s.peerUp || !inSlices s p addr n || (op ≠ 0 && (addr % w ≠ 0 || 6 < at_ % 16)) then
    { s with peer := .peerNak tag :: s.peer }
  else
    enqueue s {
      id := 0, kind := if op = 0 then 0 else 2, p := p, addr := addr, data := if op = 0 then data else [], len := n
      op := at_ % 64, w := w, y := BitVec.ofNat 64 (leNat (data.take 8)), z := BitVec.ofNat 64 (leNat ((data.drop 8).take 8))
      peer := some tag }

/-- PEER_WRITE (R356). -/
def execPeerWrite (p tag addr op : Nat) (data : Bytes) (s : State) : Host.Outcome State Fault Refusal :=
  .next (peerRequest s p tag addr op data)

/-- PEER_MESSAGE (R355): a write of 16 bytes at PMSGA. -/
def execPeerMessage (p tag : Nat) (data : Bytes) (s : State) : Host.Outcome State Fault Refusal :=
  .next (peerRequest s p tag (s.fieldOf (offPart p rPmsga) 47 0) 0 (data.take 16 ++ natLe (16 - data.length) 0))

/-- The banks that accesses before o, of those still waiting, wait for. -/
def waitingBanks (o : Bar2Op) : List Nat := o.parts.filterMap bankOf

/-- The access is the host's, to a locked partition: it is served in that partition's host cycles (13: R351). -/
def bar2Slotted (s : State) (o : Bar2Op) : Bool := o.peer.isNone && s.locked o.p

/-- The access may have its sector at a in this host cycle: not in the window of a BRMW (R423). -/
def bar2Open (s : State) (o : Bar2Op) (a : Nat) : Bool :=
  hostCycle s o.p && (match bankOf a with
    | some b => !s.banksUsed.contains b && !s.reserved.contains b
    | none => true)

/-- A write from outside enters, and is applied at once in each view that has what it follows. During a reset of the
partition it is discarded (19: R463). -/
def outsideWrite (s : State) (o : Bar2Op) (cs : List (Nat × Byte)) : State :=
  if (s.part o.p).resetting.isSome then s else
  let id := s.effNo
  let s := noteWriter (enterWrite s .mgmt o.p origExt cs) (if o.peer.isSome then 602 else 601) id 0 cs
  [0, 1].foldl (fun s d =>
    match s.vwrites.find? fun w => w.id = id with
    | some w => if mayApply s w.part d w.origin w.stamp then applyWrite s w d else s
    | none => s) s

/-- The access is done: what is answered, and the message that a write of the peer's carries. -/
def bar2Done (s : State) (o : Bar2Op) : State :=
  let s := { s with bar2 := s.bar2.filter fun x => x.id ≠ o.id }
  match o.peer, o.kind with
  | none, 0 => s
  | none, 1 => hostSend s (.cpl o.id (o.acc.read 0 o.len))
  | none, _ => hostSend s (.cpl o.id (natLe o.w ((o.got.getD 0).toNat)))
  | some t, 0 =>
    let s := { s with peer := .peerAck t [] :: s.peer }
    let at_ := s.fieldOf (offPart o.p rPmsga) 47 0
    if at_ ≠ 0 && o.addr = at_ && o.len = 16 then
      fireMessage s o.p 5 (leNat (o.data.take 4)) (BitVec.ofNat 64 (leNat (o.data.drop 8)))
    else s
  | some t, _ => { s with peer := .peerAck t (natLe o.w ((o.got.getD 0).toNat)) :: s.peer }

def setBar2 (s : State) (o : Bar2Op) : State := { s with bar2 := s.bar2.map fun x => if x.id = o.id then o else x }

/-- One sector of an access is served. -/
def bar2Serve (s : State) (o : Bar2Op) (sec : Nat) : State × Bar2Op :=
  let (lo, n) := clip sec (o.addr, o.len)
  let s := useBanks s [sec]
  let o := { o with parts := o.parts.filter (· ≠ sec) }
  if o.kind = 0 then (outsideWrite s o (runCells lo ((o.data.drop (lo - o.addr)).take n)), o)
  else
    let d := dieOfAddr lo
    (learn s o.p origExt d, { o with acc := o.acc.write (lo - o.addr) (s.readView d lo n) })

/-- An AtomicOp reads, or writes in the cycle that follows (R351, R424); in open cycles, and for the peer, it does both
in one. -/
def bar2Atomic (s : State) (o : Bar2Op) : State × Bar2Op :=
  let locked := bar2Slotted s o
  let new (x : Nat) : List (Nat × Byte) :=
    runCells o.addr (natLe o.w (rmwValue (o.op % 16) o.w (o.op / 32 % 2 = 1) x o.y.toNat o.z.toNat))
  let s := useBanks s [sectorOf o.addr]
  match o.got with
  | some x => (outsideWrite s o (new x.toNat), { o with parts := [] })
  | none =>
    let x := leNat (latestRead s o.addr o.w)
    let s := learn s o.p origExt (dieOfAddr o.addr)
    if locked then (s, { o with got := some (BitVec.ofNat 64 x) })
    else (outsideWrite s o (new x), { o with got := some (BitVec.ofNat 64 x), parts := [] })

/-- An AtomicOp that reaches the last host cycle of a period waits for the first of the next (R424). -/
def lastHostCycle (s : State) (p : Nat) : Bool :=
  let v := s.reg (offPart p rHslot)
  s.sccOf p % 256 + 1 = bits v 7 0 + bits v 15 8

/-- The service of one access in this host cycle; `busy` lists the banks that earlier accesses wait for. -/
def bar2Step (acc : State × List Nat) (id : Nat) : State × List Nat :=
  let (s, busy) := acc
  match s.bar2.find? fun o => o.id = id with
  | none => acc
  | some o =>
    let free (a : Nat) : Bool := bar2Open s o a && !s.gone (dieOfAddr a) && (match bankOf a with
      | some b => !busy.contains b
      | none => true)
    let (s, o) :=
      if o.kind = 2 then
        if free o.addr && (o.got.isSome || !lastHostCycle s o.p) then bar2Atomic s o else (s, o)
      else (firstOfBank (o.parts.filter free)).foldl (fun (p : State × Bar2Op) sec => bar2Serve p.1 p.2 sec) (s, o)
    let s := if o.parts = [] then bar2Done s o else setBar2 s o
    (s, busy ++ waitingBanks o)

/-- The accesses that their banks serve in this cycle as a host cycle, in the order received. -/
def bar2Work (s : State) : State :=
  (((s.bar2.filter (bar2Slotted s)).map (·.id)).foldl bar2Step (s, [])).1

/-! ### MSI-X (R354) -/

/-- Vector v is sent, or pends while it is masked. -/
def sendMsix (s : State) (v : Nat) : State :=
  if 32 ≤ v then s
  else if bits (s.reg (offMsix v + 8)) 32 32 = 1 then s.setField offPba v v 1
  else hostSend s (.msix v)

/-- Vectors that pend and are no longer masked are sent. -/
def unmaskMsix (s : State) : State :=
  (List.range 32).foldl (fun s v =>
    if s.fieldOf offPba v v = 1 && bits (s.reg (offMsix v + 8)) 32 32 = 0 then
      hostSend (s.setField offPba v v 0) (.msix v) else s) s

/-! ### Host queues (R352, R353) -/

def qBase (s : State) (q : Nat) : Nat := s.fieldOf (offQdesc q) 47 0
def qLog (s : State) (q : Nat) : Nat := s.fieldOf (offQdesc q + 8) 5 0
def qPart (s : State) (q : Nat) : Nat := s.fieldOf (offQdesc q + 8) 7 6
def qTail (s : State) (q : Nat) : Nat := s.fieldOf (offQdesc q + 16) 31 0
def qHead (s : State) (q : Nat) : Nat := s.fieldOf (offQdesc q + 16) 63 32
def qCda (s : State) (q : Nat) : Nat := s.fieldOf (offQdesc q + 24) 63 16

/-- QUEUE_NOTIFY (R353): TAIL takes the written value. -/
def execQueueNotify (off : Nat) (v : W32) (s : State) : Host.Outcome State Fault Refusal :=
  if off % 64 = 0 && off < 65536 then
    let q := off / 64
    let s := s.setField (offQdesc q + 16) 31 0 v.toNat
    .next { s with notified := if s.notified.contains q then s.notified else s.notified ++ [q] }
  else .next s

/-- An entry of queue q is being read or waits to be launched. -/
def entryPending (s : State) (p slot q : Nat) : Bool :=
  (s.tasks.any fun e => e.2.queue = some q && e.2.st = .pending) || s.outst.any fun o => o.why = .entry p slot

/-- The slots of partition p whose binding ends. -/
def endedSlots (s : State) (p : Nat) : List Nat :=
  ((s.part p).slots.filter fun e => qHead s (e.2 - 1) = qTail s (e.2 - 1) && !entryPending s p e.1 (e.2 - 1)).map (·.1)

/-- The slots that partition p owns (01: R25) and that no queue of any partition is bound to. Of several partitions that
are not locked and name one slot the lowest owns it, which the spec does not settle (the model's choice, log entry 83). -/
def freeSlots (s : State) (p : Nat) : List Nat :=
  (List.range 32).filter fun i => s.ownerBit rQslot i = some p && (List.range 4).all fun o => sget 0 (s.part o).slots i = 0

/-- Step 4 of R353: the oldest announced queues take the lowest free slots. -/
def bindSlots (free announced : List Nat) (slots : SMap Nat) : List Nat × SMap Nat :=
  match free, announced with
  | i :: is, q :: qs => bindSlots is qs (sset 0 slots i (q + 1))
  | _, l => (l, slots)

def insertNat (x : Nat) : List Nat → List Nat
  | [] => [x]
  | y :: l => if x ≤ y then x :: y :: l else y :: insertNat x l

/-- Steps 2 to 4 of R353 have something to do for partition p. -/
def bindDue (s : State) (p : Nat) : Bool :=
  p < 4 && (s.part p).resetting.isNone && (
    (s.notified.any fun q => qPart s q = p) || !(endedSlots s p).isEmpty
      || (!(s.part p).announced.isEmpty && !(freeSlots s p).isEmpty))

/-- QUEUE_BIND (R353). -/
def execQueueBind (s : State) : Host.Outcome State Fault Refusal :=
  let p := s.unit
  if bindDue s p then
    let ended := endedSlots s p
    let s := s.modPart p fun x => { x with slots := x.slots.filter fun e => !ended.contains e.1 }
    let mine := (s.notified.filter fun q => qPart s q = p).foldl (fun l q => insertNat q l) []
    let x := s.part p
    let fresh := mine.filter fun q => qHead s q ≠ qTail s q && !x.announced.contains q && !x.slots.any fun e => e.2 = q + 1
    let (l, slots) := bindSlots (freeSlots s p) (x.announced ++ fresh) x.slots
    let s : State := { s with notified := s.notified.filter fun q => qPart s q ≠ p }
    .next (s.modPart p fun x => { x with announced := l, slots := slots })
  else .fault (.notDue "QUEUE_BIND")

/-- The die whose unit translates for the queues of partition p. -/
def queueDie (s : State) (p : Nat) : Nat := (diesOf s p).headD 0

/-- A walk for address a can start. -/
def walkFree (s : State) (die p a : Nat) : Bool :=
  let ws := walksOf s die p
  ws.length < 16 && !ws.any fun w => w.va / 4096 = a / 4096

/-- Whether a request to address a can go on in this cycle: it has an answer, or its walk can start. -/
def xlMoves (s : State) (p a : Nat) (write : Bool) : Bool :=
  !s.hostUp || (match translate s (queueDie s p) p a write with
    | .miss => walkFree s (queueDie s p) p a
    | _ => true)

/-- Entry HEAD of queue q. -/
def entryAddr (s : State) (q : Nat) : Nat := qBase s q + 64 * (qHead s q % 2 ^ qLog s q)

/-- An entry that cannot be read is passed over, and its queue told of a failed launch. -/
def entryFailed (s : State) (p q status detail a : Nat) : State :=
  let s := xlRecord s p (queueDie s p) status detail a 0 0 0
  let s := s.setField (offQdesc q + 16) 63 32 ((qHead s q + 1) % 2 ^ 32)
  queueDone s q true

/-- The queue bound to slot `slot` of partition p, if it reads its next entry. -/
def slotDue (s : State) (p slot : Nat) : Option Nat :=
  match sget 0 (s.part p).slots slot with
  | 0 => none
  | q + 1 =>
    if p < 4 && (s.part p).resetting.isNone && qHead s q ≠ qTail s q && !entryPending s p slot q && xlMoves s p (entryAddr s q) false then
      some q else none

/-- QUEUE_ENTRY_READ (R353, R56). -/
def execQueueEntryRead (s : State) : Host.Outcome State Fault Refusal :=
  let p := s.unit
  match slotDue s p s.sub with
  | none => .fault (.notDue "QUEUE_ENTRY_READ")
  | some q =>
    let a := entryAddr s q
    let die := queueDie s p
    if !s.hostUp then .next (entryFailed s p q 10 5 a)
    else match translate s die p a false with
      | .ok pa _ => .next (hostRead s pa 64 (.entry p s.sub))
      | .miss => .next (startWalk s die p a (.slot p s.sub))
      | .refuse d => .next (entryFailed s p q 7 d a)

/-- An entry has been read: a pending launch, and HEAD advances. -/
def takeEntry (s : State) (p slot q : Nat) (data : Bytes) : State :=
  let r := leNat (data.take 64)
  let s := s.setField (offQdesc q + 16) 63 32 ((qHead s q + 1) % 2 ^ 32)
  let (since, s) := takeSince s
  addTask s { part := p, queue := some q, slot := slot, tid := recTid r, lnoff := recLnoff r, lrec := cells 0 0 (natLe 64 r) }
    since

/-- The first completion of queue q that waits, and whether it can go on. -/
def cdaDue (s : State) (q : Nat) : Option (Nat × Nat) :=
  match s.cdaWait.find? fun e => e.1 = q with
  | some (_, v, ph) => if ph = 2 || (ph = 0 && xlMoves s (qPart s q) (qCda s q) true) then some (v, ph) else none
  | none => none

/-- The first entry of queue q is replaced, or gone. -/
def setCda (q : Nat) (x : Option (Nat × Nat × Nat)) : List (Nat × Nat × Nat) → List (Nat × Nat × Nat)
  | [] => []
  | e :: l => if e.1 = q then x.toList ++ l else e :: setCda q x l

/-- A completion doubleword that cannot be written is dropped. -/
def cdaFailed (s : State) (q status detail : Nat) : State :=
  let s := xlRecord s (qPart s q) (queueDie s (qPart s q)) status detail (qCda s q) 0 0 0
  { s with cdaWait := setCda q none s.cdaWait }

/-- QUEUE_MSIX (R353): the completion doubleword is written, a read behind it shows it applied, and then the vector is
sent. -/
def execQueueMsix (s : State) : Host.Outcome State Fault Refusal :=
  let q := s.unit
  let p := qPart s q
  match cdaDue s q with
  | none => .fault (.notDue "QUEUE_MSIX")
  | some (v, ph) =>
    if ph = 2 then
      let s : State := { s with cdaWait := setCda q none s.cdaWait }
      .next (if s.fieldOf (offQdesc q + 32) 39 39 = 1 then sendMsix s (s.fieldOf (offQdesc q + 32) 47 40) else s)
    else if !s.hostUp then .next (cdaFailed s q 10 5)
    else match translate s (queueDie s p) p (qCda s q) true with
      | .ok pa _ =>
        let s := hostSend s (.write pa (natLe 8 v))
        .next (hostRead { s with cdaWait := setCda q (some (q, v, 1)) s.cdaWait } pa 0 (.cda q))
      | .miss => .next (startWalk s (queueDie s p) p (qCda s q) (.cda q))
      | .refuse d => .next (cdaFailed s q 7 d)

/-! ### Walks (03: R102 to R104; 17: R420; 19: R460) -/

/-- PAGE_WALK_COMPLETE (R102, R104): the leaf is cached, or what waited for it is refused. -/
def execPageWalkComplete (s : State) : Host.Outcome State Fault Refusal :=
  match walkDone s s.unit with
  | none => .fault (.notDue "PAGE_WALK_COMPLETE")
  | some w =>
    match w.refused, w.who with
    | some d, .slot p slot =>
      let s := finishWalk s w
      (match sget 0 (s.part p).slots slot with
       | 0 => .next s
       | q + 1 => .next (entryFailed s p q 7 d w.va))
    | some d, .cda q => .next (cdaFailed (finishWalk s w) q 7 d)
    | _, _ => .next (finishWalk s w)

/-! ### Completions (R345; 19: R460) -/

/-- A request of the host's is answered: status 0 with data, else it has failed (1 UR, 2 CA, 3 poisoned, 4 timeout,
5 link down). -/
def hostAnswer (s : State) (o : Outstanding) (st : Nat) (data : Bytes) : State :=
  let s : State := { s with outst := s.outst.filter fun x => x.tag ≠ o.tag }
  match o.why with
  | .walk n =>
    (match s.walks.find? fun w => w.no = n with
     | none => s
     | some w => if st = 0 then walkEntry s w (leNat (data.take 8)) else setWalk s { w with refused := some 0x100 })
  | .ceRead g str off len => ceAnswer s g str o.tag off (if st = 0 then .inl (data.take len) else .inr (10, st))
  | .cePeer _ _ => s
  | .entry p slot =>
    (match sget 0 (s.part p).slots slot with
     | 0 => s
     | q + 1 => if st = 0 then takeEntry s p slot q data else entryFailed s p q 10 st (entryAddr s q))
  | .cda q =>
    if st ≠ 0 then cdaFailed s q 10 st
    else { s with cdaWait := setCda q ((s.cdaWait.find? fun e => e.1 = q).map fun e => (q, e.2.1, 2)) s.cdaWait }

def isPeer (w : Purpose) : Bool :=
  match w with
  | .cePeer _ _ => true
  | _ => false

def outstTag (s : State) (tag : Nat) : Option Outstanding := s.outst.find? fun o => o.tag = tag && !isPeer o.why

/-- HOST_COMPLETION (R345, R460); one that answers no request is dropped, and so is one for a die whose link is withdrawn
(R459). -/
def execHostCompletion (tag st : Nat) (data : Bytes) (s : State) : Host.Outcome State Fault Refusal :=
  match outstTag s tag with
  | some o => .next (if o.why.cut s then s else hostAnswer s o (min st 3) data)
  | none => .next s

/-- The request with that tag has waited 1 ms. -/
def timedOut (s : State) (tag : Nat) : Option Outstanding :=
  match outstTag s tag with
  | some o => if o.since + 400000 ≤ s.wcc then some o else none
  | none => none

/-- HOST_COMPLETION_TIMEOUT (R460). -/
def execHostCompletionTimeout (tag : Nat) (s : State) : Host.Outcome State Fault Refusal :=
  match timedOut s tag with
  | some o => .next (hostAnswer s o 4 [])
  | none => .fault (.notDue "HOST_COMPLETION_TIMEOUT")

/-- HOST_LINK_DOWN (R460): every request that is outstanding ends. -/
def execHostLinkDown (s : State) : Host.Outcome State Fault Refusal :=
  .next ((s.outst.filter fun o => !isPeer o.why).foldl (fun s o => hostAnswer s o 5 []) { s with hostUp := false })

/-- HOST_LINK_UP (R345). -/
def execHostLinkUp (s : State) : Host.Outcome State Fault Refusal := .next { s with hostUp := true }

/-! ### The peer link (R356, R364) -/

/-- PEER_LINK_CHANGE: the link is up only while PEERCFG.EN is 1. -/
def execPeerLinkChange (up : Bool) (s : State) : Host.Outcome State Fault Refusal :=
  let up := up && s.fieldOf offPeercfg 0 0 = 1
  let s := s.setField offStatus 3 3 (natOfBool up)
  .next { s with peerUp := up, outst := if up then s.outst else s.outst.filter fun o => !isPeer o.why }

/-- A request to the peer is answered: with data for a BATOM or a COLL, or refused. -/
def peerAnswer (s : State) (g str tag : Nat) (ok : Bool) (data : Bytes) : State :=
  let isColl := match ceWaiting s g str tag with
    | some c => decide (c.code = 7)
    | none => false
  if !ok && isColl then
    match ceWaiting s g str tag with
    | some c => collFail s g c
    | none => s
  else if !ok then ceAnswer s g str tag 0 (.inr (8, 1))
  else if isColl then
    match ceWaiting s g str tag with
    | some c => s.setCe g { c with
        outs := c.outs.filter (· ≠ tag), rcd := cells 0 0 (natLe 8 data.length ++ data) }
    | none => s
  else ceAnswer s g str tag 32 (.inl data)

/-- PEER_COMPLETION (R356). -/
def execPeerCompletion (tag : Nat) (ok : Bool) (data : Bytes) (s : State) : Host.Outcome State Fault Refusal :=
  match s.outst.find? fun o => o.tag = tag with
  | some ⟨_, _, .cePeer g str⟩ =>
    .next (if s.gone (dieOf g) then s else peerAnswer { s with outst := s.outst.filter fun o => o.tag ≠ tag } g str tag ok data)
  | _ => .next s

end Sys2Proof.Machine
end

