-- ==== Sys2Proof/Machine/HostRegs.lean ====
section
/-! DEFINITION. Writes to the memory-mapped registers (00: R7; 13: R346 to R348, R358 to R360, R365, R478, R479; 12: R325,
R327, R330; 16: R393, R397; 19: R453; 11: R322): the bits that a write changes, and what it does besides. -/

namespace Sys2Proof.Machine

/-! ### The bits of a write -/

/-- Of number `old`, the bits of `mask` are replaced by those of v. -/
def mixBits (old mask v : Nat) : Nat := old - (old &&& mask) + (v &&& mask)

/-- The bits of an 8-byte register that an access of n bytes at off touches, and the value as it lies there. -/
def touched (off n : Nat) : Nat := (2 ^ (8 * n) - 1) * 2 ^ (8 * (off % 8))
def placed (off n v : Nat) : Nat := v % 2 ^ (8 * n) * 2 ^ (8 * (off % 8))

/-- A register of a partition's configuration, which the device takes only while READY is 1 (13: R357, R364). -/
def isConfigReg (b : Nat) : Bool :=
  (0x10000 ≤ b && b < 0x14000 && (let r := b % 0x1000
    !(r = rHoldLimit || r = rAwaitLimit || r = rPthr || r = rXlinv || r = rHmsg0 || r = rHmsg1)))
  || (0x40000 ≤ b && b < 0x40300) || (0x50000 ≤ b && b < 0x50300) || (0x60000 ≤ b && b < 0x60200)
  || (0x70000 ≤ b && b < 0x70080) || (0xC0100 ≤ b && b < 0xC0180) || (0x110000 ≤ b && b < 0x110400)

/-- The write changes nothing: a lock is set, or the device does not take configuration yet. -/
def writeIgnored (s : State) (b : Nat) : Bool := s.regLocked b || (isConfigReg b && !ready s)

/-- A write of n bytes, which changes the RW bits that it touches. -/
def plainWrite (s : State) (off n v : Nat) : State :=
  let b := off / 8 * 8
  if writeIgnored s b then s
  else s.setReg b (mixBits (s.reg b) (regWritable b &&& touched off n) (placed off n v))

/-! ### Registers with an effect of their own -/

/-- XLINV of partition p (R365): the cached translations of a 2 MiB range, or all, are dropped on both dies. -/
def xlinv (s : State) (p v : Nat) : State :=
  let a := bits v 47 21 * 2 ^ 21
  let keep (x : Xlat) : Bool := bits v 1 1 = 0 && !(bits v 0 0 = 1 && x.page < a + 2 ^ 21 && a < x.page + x.size)
  s.modPart p fun x => { x with xl0 := x.xl0.filter keep, xl1 := x.xl1.filter keep }

/-- XLINV_WRITE (R365). -/
def execXlinvWrite (p : Nat) (v : DWord) (s : State) : Host.Outcome State Fault Refusal :=
  if p < 4 then .next (xlinv s p v.toNat) else .fault (.noUnit p)

/-- DBGRES (R365): core g goes on where a DBG stopped it. -/
def dbgResume (s : State) (g : Nat) : State :=
  if g < Config.cores then s.modCore g fun x => { x with trap := { x.trap with dbgStop := none } } else s

/-- DBGRES_WRITE (R365). -/
def execDbgresWrite (v : DWord) (s : State) : Host.Outcome State Fault Refusal := .next (dbgResume s (bits v.toNat 6 0))

/-- The core whose scratchpad the window shows takes writes through it (R479). -/
def windowCore (s : State) : Option Nat :=
  let g := s.fieldOf offSpwin 6 0
  if g < Config.cores && s.locked (s.partOfCore g) && !s.tasks.any fun e => e.2.part = s.partOfCore g then some g else none

/-- A write of bytes at offset o of the window: an untimed write of the management controller's, for itself or for the host,
which enters the SFD's stream (04: R112). -/
def windowWrite (s : State) (o : Nat) (bs : Bytes) : State :=
  match windowCore s with
  | some g => postLater { s with effNo := s.effNo + 1 } {
      id := s.effNo, g := g, sfd := true, agent := 600, arrive := s.sccOf (s.partOfCore g), parts := [], rd := []
      wr := runCells (spadBase g + o) bs, orig := origSfd }
  | none => s

/-- SCRATCHPAD_WINDOW_WRITE (R479): a doubleword. -/
def execScratchpadWindowWrite (off : Nat) (v : DWord) (s : State) : Host.Outcome State Fault Refusal :=
  if off % 8 = 0 ∧ off < 0x80000 then .next (windowWrite s off (natLe 8 v.toNat)) else .fault (.noUnit off)

/-- MIGCTL of channel h (R453), of which a write touches the bits of `mask`: SC, BANK and ENT take what is written;
GO starts the copy of the entry that they name where no copy is under way. -/
def migctl (s : State) (h mask v : Nat) : State :=
  let off := offDcs h rMigctl
  let old := s.reg off
  let new := mixBits old (mask &&& 0x1FF) v
  let s := s.setReg off new
  if bits (v &&& mask) 10 10 = 1 && bits old 9 9 = 0 then
    (s.setField off 9 9 1).setDcs h { s.dcsAt h with mig := some (bits new 8 8, bits new 7 4, bits new 3 0) }
  else s

/-- MIGCTL_GO (R453): a write of the whole register. -/
def execMigctlGo (ch : Nat) (v : DWord) (s : State) : Host.Outcome State Fault Refusal :=
  if ch < Config.channels then .next (migctl s ch (2 ^ 64 - 1) v.toNat) else .fault (.noUnit ch)

/-- FRING.REL of ring x (R393): ignored where it would pass PUB. -/
def fringRel (s : State) (x rel : Nat) : State :=
  let pub := s.fieldOf (offFring x) 15 0
  let old := s.fieldOf (offFring x) 31 16
  if (rel + 65536 - old) % 65536 ≤ (pub + 65536 - old) % 65536 then s.setField (offFring x) 31 16 rel else s

/-- FRING_REL_WRITE (R393). -/
def execFringRelWrite (x : Nat) (v : DWord) (s : State) : Host.Outcome State Fault Refusal :=
  if x < 5 then .next (fringRel s x (bits v.toNat 31 16)) else .fault (.noUnit x)

/-- A W1C write to FPIN (R397): WARN and FDEV once the device is ready, FATAL of partitions reset since the bit was
set. -/
def fpinWrite (s : State) (v : Nat) : State :=
  let old := s.reg offFpin
  let fatal := (List.range 4).foldl (fun m p => if bits v (20 + p) (20 + p) = 1 && s.seqReset.contains p then m + 2 ^ (20 + p) else m) 0
  let clear := fatal + if ready s then bits v 24 24 * 2 ^ 24 + bits v 12 8 * 2 ^ 8 else 0
  s.setReg offFpin (fpinSettle (old - (old &&& clear)))

/-- FPIN_CLEAR (R397). -/
def execFpinClear (v : DWord) (s : State) : Host.Outcome State Fault Refusal := .next (fpinWrite s v.toNat)

/-- A port's configuration is written (12: R325, R326). -/
def portWrite (s : State) (off n v : Nat) : State :=
  let p := (off - 0x50000) / 8
  let on (s : State) : Bool := bits (s.reg (off / 8 * 8)) 0 0 = 1
  let s' := plainWrite s off n v
  portEnabled s' p (on s) (on s')

/-- A remap entry is written (11: R322): an entry in STATE COPYING has every column to copy. -/
def remapWrite (s : State) (off v : Nat) : State :=
  let s := s.setReg32 off (v % 2 ^ 20)
  let h := (off - 0x80000) / 0x4000
  let r := (off % 0x4000 - 0x1000) / 4
  if bits v 19 18 = 1 then s.setReg (offDcs h (rDirty (r / 256) (r / 16 % 16) (r % 16))) (2 ^ 64 - 1) else s

/-- LBPCTL of LBP n (12: R330; 13: R478): GO starts the row program of an LBP that a partition owns. -/
def lbpctl (s : State) (n v : Nat) : State := if bits v 0 0 = 1 && (s.lbpOwner n).isSome then lbpStart s n else s

/-- LBP_GO (R330). -/
def execLbpGo (n : Nat) (s : State) : Host.Outcome State Fault Refusal :=
  if n < Config.lbps then .next (lbpctl s n 1) else .fault (.noUnit n)

/-- A register of partition p's block. An access of its upper half alone reaches no field that acts (00: R9). -/
def partWrite (s : State) (p r off n v : Nat) : State :=
  let low := off % 8 = 0
  if r = rXlinv then xlinv s p (placed off n v)
  else if r = rHmsg0 then (if low then s.modPart p fun x => { x with msgTag := v % 2 ^ 32 } else s)
  else if r = rHmsg1 then (if low then hostMessage s p v else s)
  else
    let s := plainWrite s off n v
    if r = rPthr && low then s.modPart p fun x => { x with newLevel := x.newLevel ++ [(v % 16, x.scc)] } else s

/-- A write of n bytes at BAR0 offset `off`. -/
def regWrite (s : State) (off n v : Nat) : State :=
  let b := off / 8 * 8
  let w := placed off n v
  if off % n ≠ 0 then s
  else if b = offBootctl then (if bits w 0 0 = 1 then bootStart s else s)
  else if b = offCfglock then (namedParts w 8).foldl lockRequest s
  else if b = offPrst then (namedParts w 0).foldl resetStart s
  else if b = offAttctl then (if bits w 0 0 = 1 then attest s else s)
  else if b = offTbstep then tbStep s (BitVec.ofNat 64 w)
  else if 0x10000 ≤ b && b < 0x14000 then partWrite s ((b - 0x10000) / 0x1000) (b % 0x1000) off n v
  else if b = offDbgres then (if off % 8 = 0 then dbgResume s (bits w 6 0) else s)
  else if 0x50000 ≤ b && b < 0x500A0 then portWrite s off n v
  else if 0x60200 ≤ b && b < 0x60400 then lbpctl s ((b - 0x60200) / 8) w
  else if offLbpImem ≤ b && b < 0x68000 then imemWrite s (off - offLbpImem) (natLe n v)
  else if 0x80000 ≤ b && b < 0xC0000 then
    (let r := off % 0x4000
     if 0x1000 ≤ r && r < 0x1800 && n = 4 then remapWrite s off v
     else if 0x1000 ≤ r && r < 0x1800 then remapWrite (remapWrite s off v) (off + 4) (v / 2 ^ 32)
     else if r / 8 * 8 = rMigctl then migctl s ((b - 0x80000) / 0x4000) (touched off n) w
     else plainWrite s off n v)
  else if b = offFpin then fpinWrite s w
  else if 0xC0100 ≤ b && b < 0xC01A0 && b % 0x20 = 8 then (if off % 8 = 0 then fringRel s ((b - 0xC0100) / 0x20) (bits w 31 16) else s)
  else if offSpw ≤ b && b < 0x200000 then windowWrite s (off - offSpw) (natLe n v)
  else if 0x9000 ≤ b && b < 0x9200 then unmaskMsix (plainWrite s off n v)
  else plainWrite s off n v

/-- A write at BAR0 offset `off` ends a monitor wait of the management controller on its sector, which the controller sees
at 4 MiB and above (02: R68; 13: R346). -/
def regWoken (s : State) (off : Nat) : State := { s with mgmt := wakeSeqr [sectorOf (0x400000 + off)] s.wcc s.mgmt }

/-- REGISTER_WRITE (R7, R346): of 4 or 8 bytes; another size is no register access, and is ignored. -/
def execRegisterWrite (off n : Nat) (v : DWord) (s : State) : Host.Outcome State Fault Refusal :=
  if n = 4 ∨ n = 8 then .next (regWoken (regWrite s off n v.toNat) off) else .next s

end Sys2Proof.Machine
end

