-- ==== Sys2Proof/Machine/Requests.lean ====
section
/-! DEFINITION. Untimed accesses at their banks (03: R80, R89, R91; 04: R106, R109 to R112, R119; 10: R269, R278, R295; 13:
R351): which sectors of each may perform in a cycle, what an engine's access does there, and the order in which the open
cycles are given away. -/

namespace Sys2Proof.Machine

/-! ### Requests of sequencers (04: R106; 10: R269, R278) -/

/-- The bank of the sector at x can serve request r of core g in this cycle. -/
def reqOpen (s : State) (g : Nat) (r : UReq) (x : Nat) : Bool :=
  !needsBank s g r.op x || (bankOpen s s.reserved x && (match r.op with
    | .rmw _ _ _ _ _ _ _ => windowOpen s x
    | _ => true))

/-- The sectors of request r that perform in this cycle, were there no header to compare. -/
def reqSecs (s : State) (g : Nat) (r : UReq) : List Nat :=
  if l1Whole s g r.op then (if r.parts.any (blockedByOrder s r) then [] else r.parts)
  else r.parts.filter fun x => reqOpen s g r x && !blockedByOrder s r x

/-- The sector of the header that the request compares first, where the L1D does not serve it. -/
def headerSecs (s : State) (g : Nat) (r : UReq) : List Nat :=
  match tagOf s r with
  | some e => if l1Whole s g e.op then [] else e.op.sectors
  | none => []

/-- The header that the request compares first can be read: no earlier access to its bytes is still to perform, and its bank
is open (04: R109; 10: R269). -/
def headerOpen (s : State) (g : Nat) (r : UReq) : Bool :=
  (match tagOf s r with
   | some e => !e.op.sectors.any (blockedByOrder s e)
   | none => true) && (headerSecs s g r).all (bankOpen s s.reserved)

/-- Of the sectors secs those that request r takes in one cycle: one of each bank, and of the header's bank the header's. -/
def oneEach (s : State) (g : Nat) (r : UReq) (secs : List Nat) : List Nat :=
  let h := headerSecs s g r
  let (banked, rest) := secs.partition (needsBank s g r.op)
  rest ++ firstOfBank (banked.filter fun x => h.contains x || !((bankOf x).any (h.filterMap bankOf).contains))

/-- The sectors of request r that perform in this cycle; none where it cannot perform. A header is read in the cycle of the
first of them (10: R269); it goes first where the two need one bank for two sectors. -/
def reqNow (s : State) (r : UReq) : Option (List Nat) :=
  let g := coreOf r.own
  let cut := match r.op with
    | .ring _ n _ _ => ringCut s g n
    | _ => false
  if r.op.isTag || !reqMayPerform s g r || cut then none
  else if r.parts = [] then some []
  else
    let secs := reqSecs s g r
    if secs = [] || !headerOpen s g r then none else some (oneEach s g r secs)

/-- Request r performs in sectors secs. -/
def reqServe (s : State) (r : UReq) (secs : List Nat) : State :=
  let g := coreOf r.own
  serveReq (useBanks s (headerSecs s g r ++ secs.filter (needsBank s g r.op))) g r secs

/-! ### Accesses of engines and of the management controller (03: R82, R84, R89; 04: R112) -/

/-- The engine command whose access e is. -/
def EReq.command (s : State) (e : EReq) : Option CCmd := (allCe (s.core e.g)).find? fun c => c.id = e.cmd

/-- The sector at x is one that another command is still to write, which started before or is stamped and has begun it: a
command's sectors are written whole (04: R119). -/
def sectorTaken (s : State) (e : EReq) (x : Nat) : Bool :=
  e.copy.isNone && (e.wr.any fun c => sectorOf c.1 = x) && (match e.command s with
    | some m => s.cores.any fun y => (allCe y.2).any fun c =>
        c.id ≠ m.id && (c.startedBefore m || (c.stamp.isSome && hasBegun s c x)) && c.stillWrites x
    | none => false)

/-- The copies of one stream's completion words are written in the order of the words (10: R295). -/
def copyWaits (s : State) (e : EReq) : Bool :=
  e.copy.isSome && s.ereqs.any fun x => decide (x.g = e.g) && x.copy = e.copy && decide (x.id < e.id)

/-- The withdrawn link that access e would cross to the sector at x: its flits are discarded (19: R459). -/
def EReq.cut (s : State) (e : EReq) (x : Nat) : Bool :=
  if e.sfd then s.gone (dieOfAddr x) else s.gone 2 && decide (dieOfAddr x ≠ dieOf e.g)

/-- The sectors of access e that perform in this cycle. -/
def ereqNow (s : State) (e : EReq) : List Nat :=
  let p := s.partOfCore e.g
  if s.sccOf p < e.arrive || s.held p || copyWaits s e then []
  else firstOfBank (e.parts.filter fun x => bankOpen s s.reserved x && !sectorTaken s e x && !e.cut s x)

/-- What access e writes in sectors secs, with what it has read; a pair of LBWB notes what it writes. -/
def ereqCells (s : State) (e : EReq) (secs : List Nat) : List (Nat × Byte) × Mem :=
  let got := secs.foldl (fun (m : Mem) x => (clipRuns x e.rd).foldl (fun m r => m.write r.2.1 (s.readView (dieOf e.g) r.1 r.2.2)) m) e.got
  match e.atom with
  | some (a, op, u, y, z) =>
    let w := ((e.rd.head?).map (·.2.2)).getD 0
    let x := leNat (latestRead s a w)
    if eccBad s a w then ([], got.setByte atomBadAt 1) else (runCells a (natLe w (rmwValue op w u x y z)), got.write 0 (natLe w x))
  | none =>
    let cs := e.wr.filter fun c => secs.contains (sectorOf c.1)
    let cs := match e.command s with
      | some c => c.unlost cs
      | none => cs
    (cs, match e.back with
      | some (_, addr, _) => cs.foldl (fun (m : Mem) c => m.setByte (c.1 - addr) c.2) got
      | none => got)

/-- A write of access e enters the stream of its origin, and the race detector notes its agent. -/
def ereqWrite (s : State) (e : EReq) (cs : List (Nat × Byte)) : State :=
  if cs = [] then s
  else match e.org with
    | some o => coreWrite s e.g o.q cs e.id
    | none =>
      let id := s.effNo
      noteWriter (enterWrite s .mgmt (s.partOfCore e.g) e.orig cs e.cmd (if e.sfd then e.id else 0) e.agent) e.agent (if e.cmd = 0 then id else e.cmd) 0 cs

/-- A pair of lines of a block is read and filled (03: R82, R84; 18: R439). -/
def fillPair (s : State) (g : Nat) (org : Origin) (line addr n e no : Nat) : State :=
  let s := noteSeen (noteCorrected s g org [(addr, 128 * n)]) g org.q [(addr, 128 * n)]
  let x := s.core g
  let ent := sget {} x.l1Dir e
  s.setCore g { x with
    l1d := x.l1d.write (128 * line) (s.readView (dieOf g) addr (128 * n))
    l1Ecc := (List.range n).foldl (fun m j => sset false m (line + j) (eccBad s (addr + 128 * j) 128)) x.l1Ecc
    l1Fill := if ent.no = no && ent.valid then sset 0 x.l1Fill e (line + n - ent.line) else x.l1Fill }

/-- The landing of core g of that number. -/
def landingOf (s : State) (g id : Nat) : Option Landing := (s.core g).pend.find? fun l => l.id = id

/-- The tag comparison that goes with the first line pair, whose landing has number id, of a tokened LBLK. -/
def pairTag (s : State) (g id : Nat) : Option (Landing × Nat × Nat × Nat) :=
  match landingOf s g (id - 1) with
  | some l => (match l.eff with
    | .perform (.tag h exp n) => some (l, h, exp, n)
    | _ => none)
  | none => none

/-- Every sector of a line pair of a tokened LBLK has been served: the tags are compared, and where they do not differ the
pair is filled (10: R270; 17: R412). -/
def pairServed (s : State) (g id : Nat) : State :=
  let s := match pairTag s g id with
    | some (l, h, exp, n) =>
      let s := s.modCore g fun x => { x with pend := x.pend.filter fun y => y.id ≠ l.id }
      tagCompare s g l.org l.id h exp n
    | none => s
  match landingOf s g id with
  | some l => (match l.eff with
    | .l1Fill no e line addr n _ => fillPair s g l.org line addr n e no
    | _ => s)
  | none => s

/-- Access e performs in sectors secs. One that nothing waits for is gone when it has performed in all of them. -/
def ereqServe (s : State) (e : EReq) (secs : List Nat) : State :=
  let s := match e.org with
    | some o => decideCand s e.g o.q (some o)
    | none => s
  let (cs, got) := ereqCells s e secs
  let s := ereqWrite (useBanks s secs) e cs
  let e := { e with got := got, parts := e.parts.filter fun x => !secs.contains x }
  if e.parts.isEmpty && (e.sfd || e.copy.isSome) then dropReq s e.id
  else
    let s := setReq s e
    if e.parts.isEmpty && e.org.isSome then pairServed s e.g e.id else s

/-! ### Accesses from outside in open cycles (13: R351) -/

/-- The sectors of access o that perform in this cycle. -/
def bar2Now (s : State) (o : Bar2Op) : List Nat :=
  if bar2Slotted s o || s.held o.p then []
  else firstOfBank (o.parts.filter fun x => bankOpen s s.reserved x && !s.gone (dieOfAddr x))

/-- Access o performs in sectors secs. -/
def bar2Grant (s : State) (o : Bar2Op) (secs : List Nat) : State :=
  let (s, o) := if o.kind = 2 then bar2Atomic s o else secs.foldl (fun (p : State × Bar2Op) sec => bar2Serve p.1 p.2 sec) (s, o)
  if o.parts = [] then bar2Done s o else setBar2 s o

/-! ### The order in which open cycles are given away (03: R80, R89) -/

/-- An access that can perform in some sectors in this cycle. -/
inductive Claim where
  | req (r : UReq) (secs : List Nat)
  | ereq (e : EReq) (secs : List Nat)
  | bar2 (o : Bar2Op) (secs : List Nat)

/-- A core's own sequencers in the order of R80; its matrix engine's sources come before them (log entry 116). -/
def seqRank (q : SeqId) : Nat :=
  match q with
  | .l => 1
  | .s => 2
  | .c => 3
  | .k => 4

/-- The rank of core g's engines at the bank of the sector at x: at its own scratchpad they come first. -/
def engineRank (g x : Nat) : Nat :=
  match regionOf x with
  | .spad h => if h = g then 0 else g + 1
  | _ => g

/-- Its place: by arrival; then cores, copy engines and the traffic of the SFD; then by core; then the matrix engine, L, S, C
and K. -/
def Claim.key (c : Claim) : List Nat :=
  match c with
  | .req r _ => [r.arrive, 0, coreOf r.own, seqRank r.org.q, r.id]
  | .ereq e secs =>
    match e.sfd, e.org with
    | true, _ => [e.arrive, 2, 0, 0, e.id]
    | _, some o => [e.arrive, 0, e.g, seqRank o.q, e.id]
    | _, none => if e.me then [e.arrive, 0, e.g, 0, e.id] else [e.arrive, 1, engineRank e.g (secs.headD 0), 0, e.id]
  | .bar2 o _ => [o.arrive, 2, 0, 0, o.id]

/-- Of two lists of numbers, the first comes before the second. -/
def listBefore : List Nat → List Nat → Bool
  | x :: xs, y :: ys => decide (x < y) || (decide (x = y) && listBefore xs ys)
  | _, _ => false

/-- The sectors that an engine's access takes in one grant: those of one region, in which it has one rank. -/
def oneRegion (secs : List Nat) : List Nat := secs.filter fun x => regionOf x = regionOf (secs.headD 0)

/-- Every access that can perform in some sector in this cycle. -/
def claims (s : State) : List Claim :=
  (s.reqs.filterMap fun r => if r.parts.isEmpty then none else (reqNow s r).map (Claim.req r)) ++
  (s.ereqs.filterMap fun e => match oneRegion (ereqNow s e) with
    | [] => none
    | secs => some (Claim.ereq e secs)) ++
  (s.bar2.filterMap fun o => match bar2Now s o with
    | [] => none
    | secs => some (Claim.bar2 o secs))

/-- The access whose turn it is. -/
def firstClaim (s : State) : Option Claim :=
  (claims s).foldl (fun m c => match m with
    | none => some c
    | some d => if listBefore c.key d.key then some c else m) none

end Sys2Proof.Machine
end

