-- ==== Sys2Proof/Machine/Links.lean ====
section
/-! DEFINITION. The Slonos links' retries and retrainings (01: R16; 02: R60; 19: R459), and untimed accesses and writes as
steps of their own (04: R106, R113). -/

namespace Sys2Proof.Machine

/-! ### Link retries (R60; R459). Link 0 is SL-A, 1 SL-B, 2 SL-C. -/

/-- The partitions with a slot on the link. -/
def linkParts (s : State) (link : Nat) : List Nat :=
  (List.range 4).filter fun p => s.fieldOf (offPart p rPslot) (16 * link + 15) (16 * link) ≠ 0

def linkRecord (s : State) (link sev : Nat) : State := record s { det := 5, sev := sev, part := 4, ukind := 3, unit := link }

/-- A flit fails its CRC: a retry holds every partition with a slot on the link. -/
def linkRetry (s : State) (link : Nat) : State :=
  if s.gone link then s
  else
    (linkParts s link).foldl (fun s p => s.modPart p fun x =>
      if x.retry.any (fun e => e.1 = link) then x
      else { x with
        retry := x.retry ++ [(link, s.wcc)]
        hold := if x.hold.held then { x.hold with lr := true } else x.hold }) (linkRecord s link 0)

/-- LINK_CRC_RETRY (R459). -/
def execLinkCrcRetry (link : Nat) (s : State) : Host.Outcome State Fault Refusal :=
  if link < 3 then .next (linkRetry s link) else .fault (.noUnit link)

/-- No partition waits for the link's retry. -/
def dropRetry (s : State) (link : Nat) : State :=
  { s with parts := s.parts.map fun e => (e.1, { e.2 with retry := e.2.retry.filter fun r => r.1 ≠ link }) }

/-- A retry of the flit ends: it has come through, or it has failed once more. -/
def retryEnds (s : State) (link : Nat) (ok : Bool) : State :=
  let n := sget 0 s.linkRetry link
  if s.gone link || 16 ≤ n then s
  else if ok then dropRetry { s with linkRetry := sset 0 s.linkRetry link 0, linkTrain := sset 0 s.linkTrain link 0 } link
  else { s with linkRetry := sset 0 s.linkRetry link (n + 1) }

/-- LINK_RETRY_COMPLETE (R60). -/
def execLinkRetryComplete (link : Nat) (ok : Bool) (s : State) : Host.Outcome State Fault Refusal :=
  if link < 3 then .next (retryEnds s link ok) else .fault (.noUnit link)

/-- A flit has failed 16 retries, and the link does not yet retrain. -/
def trainDue (s : State) (link : Nat) : Bool := link < 3 && !s.gone link && sget 0 s.linkRetry link = 16

/-- LINK_RETRAIN (R459). -/
def execLinkRetrain (link : Nat) (s : State) : Host.Outcome State Fault Refusal :=
  if trainDue s link then
    .next (csEvent (linkRecord { s with linkRetry := sset 0 s.linkRetry link 17 } link 2) 7 4 0 link 0 0)
  else .fault (.notDue "LINK_RETRAIN")

/-- The link is withdrawn: its retries end, and the timed domains of its partitions break at their next boundary. -/
def withdraw (s : State) (link : Nat) : State :=
  let ps := linkParts s link
  let s := linkRecord (dropRetry { s with linkGone := sset false s.linkGone link true, linkRetry := sset 0 s.linkRetry link 0 } link) link 3
  ps.foldl (fun s p => s.modPart p fun x => { x with linkBreak := true }) s

/-- The retraining under way ends; the third that fails withdraws the link. -/
def trainEnds (s : State) (link : Nat) (ok : Bool) : State :=
  if sget 0 s.linkRetry link ≠ 17 then s
  else
    let s := csEvent s 7 4 0 link 0 0
    if ok then { s with linkRetry := sset 0 s.linkRetry link 0 }
    else
      let n := sget 0 s.linkTrain link + 1
      if 3 ≤ n then withdraw s link
      else { s with linkTrain := sset 0 s.linkTrain link n, linkRetry := sset 0 s.linkRetry link 16 }

/-- LINK_RETRAIN_END (R459). -/
def execLinkRetrainEnd (link : Nat) (ok : Bool) (s : State) : Host.Outcome State Fault Refusal :=
  if link < 3 then .next (trainEnds s link ok) else .fault (.noUnit link)

/-! ### Untimed accesses (04: R106, R109 to R111) -/

/-- UNTIMED_ACCESS_PERFORM (R106): of the request whose number is `unit`. -/
def execUntimedAccessPerform (s : State) : Host.Outcome State Fault Refusal :=
  match s.reqs.find? fun r => r.id = s.unit && (reqNow s r).isSome with
  | none => .fault (.notDue "UNTIMED_ACCESS_PERFORM")
  | some r => .next (reqServe s r ((reqNow s r).getD []))

/-! ### Writes in the other views (04: R112, R113) -/

/-- The link that a write crosses on its way to a die's view. -/
def viewLink (w : VWrite) (die : Nat) : Option Nat :=
  if w.origin = origCd die then none
  else if w.origin = origCd (1 - die) then some 2
  else some die

/-- The write is applied in the die's view in this cycle. While its partition is held, what its units have sent waits in
its slot (02: R39). -/
def applyDue (s : State) (w : VWrite) (die : Nat) : Bool :=
  die < 2 && (w.left die).isSome && decide (w.due ≤ s.wcc) && mayApply s w.part die w.origin w.stamp
    && !((viewLink w die).any s.gone) && !((viewLink w die).isSome && s.held w.part && w.agent ≠ 600)

/-- WRITE_APPLIED_IN_VIEW (R113): of the write whose number is `unit`, in the view of die `sub`. -/
def execWriteAppliedInView (s : State) : Host.Outcome State Fault Refusal :=
  match s.vwrites.find? fun w => w.id = s.unit && applyDue s w s.sub with
  | none => .fault (.notDue "WRITE_APPLIED_IN_VIEW")
  | some w => .next (applyWrite s w s.sub)

end Sys2Proof.Machine
end

