-- ==== Sys2Proof/Machine/Matrix.lean ====
section
/-! DEFINITION. The meanings of the matrix engine's instructions and of the steps in which a command starts and
completes (09: R241 to R262; 18: R436). -/

namespace Sys2Proof.Machine

/-- MMUL (R249). -/
def execMmul (h : Hdr) (o : A3) (x : XM) (s : State) : Host.Outcome State Fault Refusal :=
  issue h (.mmul h o x) (meBody (.mmul h o x)) s

/-- MMULS (R249). -/
def execMmuls (h : Hdr) (o : A3) (x : XM) (s : State) : Host.Outcome State Fault Refusal :=
  issue h (.mmuls h o x) (meBody (.mmuls h o x)) s

/-- MSACC (R251). -/
def execMsacc (h : Hdr) (o : A3) (x : XM) (s : State) : Host.Outcome State Fault Refusal :=
  issue h (.msacc h o x) (meBody (.msacc h o x)) s

/-- MACC (R251). -/
def execMacc (h : Hdr) (o : A3) (x : XM) (s : State) : Host.Outcome State Fault Refusal :=
  issue h (.macc h o x) (meBody (.macc h o x)) s

/-- MZERO (R252). -/
def execMzero (h : Hdr) (o : A3) (x : XM) (s : State) : Host.Outcome State Fault Refusal :=
  issue h (.mzero h o x) (meBody (.mzero h o x)) s

/-- MRD (R253). -/
def execMrd (h : Hdr) (o : A3) (x : XM) (s : State) : Host.Outcome State Fault Refusal :=
  issue h (.mrd h o x) (meBody (.mrd h o x)) s

/-- MWBL (R256). -/
def execMwbl (h : Hdr) (o : A3) (x : XM) (s : State) : Host.Outcome State Fault Refusal :=
  issue h (.mwbl h o x) (meBody (.mwbl h o x)) s

/-- MWBD (R257). -/
def execMwbd (h : Hdr) (o : A3) (x : XM) (s : State) : Host.Outcome State Fault Refusal :=
  issue h (.mwbd h o x) (meBody (.mwbd h o x)) s

/-- MSCL (R258). -/
def execMscl (h : Hdr) (o : A3) (x : XM) (s : State) : Host.Outcome State Fault Refusal :=
  issue h (.mscl h o x) (meBody (.mscl h o x)) s

/-- MCHK (R259). -/
def execMchk (h : Hdr) (o : A3) (x : XM) (s : State) : Host.Outcome State Fault Refusal :=
  issue h (.mchk h o x) (meBody (.mchk h o x)) s

/-- MFEN (R262). -/
def execMfen (h : Hdr) (o : A3) (x : XM) (s : State) : Host.Outcome State Fault Refusal :=
  issue h (.mfen h o x) (meBody (.mfen h o x)) s

/-- A command of array arr has been issued and has not completed, or a stage of it is occupied (09: R261). -/
def arrayBusy (x : Core) (arr t : Nat) : Bool :=
  (allMe x).any (fun m => arrOf m.i = some arr && (match m.doneAt with
    | some d => decide (t ≤ d)
    | none => true)) || decide (t < sget 0 x.mulFree arr) || decide (t < sget 0 x.accFree arr)

/-- MSTAT's value for bank n in cycle t (09: R261). -/
def mstatValue (x : Core) (n t : Nat) : DWord :=
  let anyp := (below (above x.accP (16384 * n)) (16384 * n + 16384)).any fun e => e.2
  BitVec.ofNat 64 (8 * natOfBool (arrayBusy x 1 t) + 4 * natOfBool (arrayBusy x 0 t) + 2 * natOfBool anyp
    + natOfBool (sget false x.sat n))

/-- The body of MSTAT. -/
def mstatBody (i : Instr) (d : Code) (acc : B2) (s : State) : Body :=
  match s.actor with
  | .core g _ =>
    if s.timedOf s.actor || landsLast (s.pendingRegs s.actor) d (s.now s.actor) then
      .done (s.result i d 1 (mstatValue (s.core g) acc.toNat (s.now s.actor))) .seq
    else .wait s
  | _ => .wait s

/-- MSTAT (R261). -/
def execMstat (h : Hdr) (d : Code) (acc : B2) (s : State) : Host.Outcome State Fault Refusal :=
  issue h (.mstat h d acc) (mstatBody (.mstat h d acc) d acc) s

/-- ME_COMMAND_START (R242): the next command of stream `sub` of core `unit` starts. -/
def execMeCommandStart (s : State) : Host.Outcome State Fault Refusal :=
  if meMayStart s s.unit s.sub then .next (meStart s s.unit s.sub) else .fault (.notDue "ME_COMMAND_START")

/-- ME_COMMAND_COMPLETE (R243): the oldest command of stream `sub` of core `unit` whose word has not gone has
completed. -/
def execMeCommandComplete (s : State) : Host.Outcome State Fault Refusal :=
  if s.worked && (meDone s s.unit s.sub).isSome then .next (meComplete s s.unit s.sub)
  else .fault (.notDue "ME_COMMAND_COMPLETE")

end Sys2Proof.Machine
end

