-- ==== Sys2Proof/Machine/Scalar.lean ====
section
/-! DEFINITION. The meanings of the integer, bit, move, constant, spill and clock instructions (07: R178 to
R181, R190 to R192) and of the CSR instructions (R193). -/

namespace Sys2Proof.Machine

/-! ### Word-0 arithmetic (07: R178) -/

/-- ADD: (x + y)[63:0] (R178). -/
def execAdd (h : Hdr) (o : A3) (s : State) : Host.Outcome State Fault Refusal :=
  alu3 h (.add h o) o 1 (fun x y => x + y) s

/-- SUB: (x - y)[63:0] (R178). -/
def execSub (h : Hdr) (o : A3) (s : State) : Host.Outcome State Fault Refusal :=
  alu3 h (.sub h o) o 1 (fun x y => x - y) s

/-- AND (R178). -/
def execAnd (h : Hdr) (o : A3) (s : State) : Host.Outcome State Fault Refusal :=
  alu3 h (.and h o) o 1 (fun x y => x &&& y) s

/-- OR (R178). -/
def execOr (h : Hdr) (o : A3) (s : State) : Host.Outcome State Fault Refusal :=
  alu3 h (.or h o) o 1 (fun x y => x ||| y) s

/-- XOR (R178). -/
def execXor (h : Hdr) (o : A3) (s : State) : Host.Outcome State Fault Refusal :=
  alu3 h (.xor h o) o 1 (fun x y => x ^^^ y) s

/-- SHL (R178). -/
def execShl (h : Hdr) (o : A3) (s : State) : Host.Outcome State Fault Refusal :=
  alu3 h (.shl h o) o 1 aluShl s

/-- SHR (R178). -/
def execShr (h : Hdr) (o : A3) (s : State) : Host.Outcome State Fault Refusal :=
  alu3 h (.shr h o) o 1 aluShr s

/-- SRA (R178). -/
def execSra (h : Hdr) (o : A3) (s : State) : Host.Outcome State Fault Refusal :=
  alu3 h (.sra h o) o 1 aluSra s

/-! ### Immediate forms (07: R179) -/

/-- ADDI: the immediate is sign-extended (R179). -/
def execAddi (h : Hdr) (d : Code) (imm : B12) (s : State) : Host.Outcome State Fault Refusal :=
  alu2 h (.addi h d imm) d d (fun x => x + imm.signExtend 64) s

/-- ANDI: the immediate is zero-extended (R179). -/
def execAndi (h : Hdr) (d : Code) (imm : B12) (s : State) : Host.Outcome State Fault Refusal :=
  alu2 h (.andi h d imm) d d (fun x => x &&& imm.setWidth 64) s

/-- ORI (R179). -/
def execOri (h : Hdr) (d : Code) (imm : B12) (s : State) : Host.Outcome State Fault Refusal :=
  alu2 h (.ori h d imm) d d (fun x => x ||| imm.setWidth 64) s

/-- XORI (R179). -/
def execXori (h : Hdr) (d : Code) (imm : B12) (s : State) : Host.Outcome State Fault Refusal :=
  alu2 h (.xori h d imm) d d (fun x => x ^^^ imm.setWidth 64) s

/-- SHLI (R179). -/
def execShli (h : Hdr) (d : Code) (n : B6) (s : State) : Host.Outcome State Fault Refusal :=
  alu2 h (.shli h d n) d d (fun x => x <<< n.toNat) s

/-- SHRI (R179). -/
def execShri (h : Hdr) (d : Code) (n : B6) (s : State) : Host.Outcome State Fault Refusal :=
  alu2 h (.shri h d n) d d (fun x => x >>> n.toNat) s

/-- SRAI (R179). -/
def execSrai (h : Hdr) (d : Code) (n : B6) (s : State) : Host.Outcome State Fault Refusal :=
  alu2 h (.srai h d n) d d (fun x => x.sshiftRight n.toNat) s

/-! ### Moves and constants (07: R180) -/

/-- LIM of one word: the 12-bit constant, sign-extended (R180). -/
def execLim (h : Hdr) (d : Code) (imm : B12) (s : State) : Host.Outcome State Fault Refusal :=
  issue h (.lim h d imm) (aluBody (.lim h d imm) d 1 fun _ => imm.signExtend 64) s

/-- LIM of two words: the 40-bit constant, sign-extended (R180). -/
def execLimX (h : Hdr) (d : Code) (imm : B12) (x : B28) (s : State) : Host.Outcome State Fault Refusal :=
  issue h (.limX h d imm x) (aluBody (.limX h d imm x) d 1 fun _ => (x ++ imm).signExtend 64) s

/-- LIH: bits [63:40] from the constant (R180). -/
def execLih (h : Hdr) (d : Code) (imm : B12) (x : B12) (s : State) : Host.Outcome State Fault Refusal :=
  alu2 h (.lih h d imm x) d d (fun r => aluLih r x imm) s

/-- MOV (R180). -/
def execMov (h : Hdr) (d a : Code) (s : State) : Host.Outcome State Fault Refusal :=
  alu2 h (.mov h d a) d a (fun x => x) s

/-! ### Major 0x11 (07: R181) -/

/-- MUL, of latency 3 (R181, R176). -/
def execMul (h : Hdr) (o : A3) (s : State) : Host.Outcome State Fault Refusal :=
  alu3 h (.mul h o) o 3 (fun x y => x * y) s

/-- MULH, of latency 3 (R181, R176). -/
def execMulh (h : Hdr) (o : A3) (s : State) : Host.Outcome State Fault Refusal :=
  alu3 h (.mulh h o) o 3 aluMulh s

/-- MULHU, of latency 3 (R181, R176). -/
def execMulhu (h : Hdr) (o : A3) (s : State) : Host.Outcome State Fault Refusal :=
  alu3 h (.mulhu h o) o 3 aluMulhu s

/-- DIV, of latency 20 (R181, R176). -/
def execDiv (h : Hdr) (o : A3) (s : State) : Host.Outcome State Fault Refusal :=
  alu3 h (.div h o) o 20 aluDiv s

/-- DIVU, of latency 20 (R181, R176). -/
def execDivu (h : Hdr) (o : A3) (s : State) : Host.Outcome State Fault Refusal :=
  alu3 h (.divu h o) o 20 aluDivu s

/-- REM, of latency 20 (R181, R176). -/
def execRem (h : Hdr) (o : A3) (s : State) : Host.Outcome State Fault Refusal :=
  alu3 h (.rem h o) o 20 aluRem s

/-- REMU, of latency 20 (R181, R176). -/
def execRemu (h : Hdr) (o : A3) (s : State) : Host.Outcome State Fault Refusal :=
  alu3 h (.remu h o) o 20 aluRemu s

/-- MIN, of latency 1 (R181, R176). -/
def execMin (h : Hdr) (o : A3) (s : State) : Host.Outcome State Fault Refusal :=
  alu3 h (.min h o) o 1 aluMin s

/-- MAX, of latency 1 (R181, R176). -/
def execMax (h : Hdr) (o : A3) (s : State) : Host.Outcome State Fault Refusal :=
  alu3 h (.max h o) o 1 aluMax s

/-- MINU, of latency 1 (R181, R176). -/
def execMinu (h : Hdr) (o : A3) (s : State) : Host.Outcome State Fault Refusal :=
  alu3 h (.minu h o) o 1 aluMinu s

/-- MAXU, of latency 1 (R181, R176). -/
def execMaxu (h : Hdr) (o : A3) (s : State) : Host.Outcome State Fault Refusal :=
  alu3 h (.maxu h o) o 1 aluMaxu s

/-- CLZ (R181). -/
def execClz (h : Hdr) (d a : Code) (s : State) : Host.Outcome State Fault Refusal :=
  alu2 h (.clz h d a) d a aluClz s

/-- CTZ (R181). -/
def execCtz (h : Hdr) (d a : Code) (s : State) : Host.Outcome State Fault Refusal :=
  alu2 h (.ctz h d a) d a aluCtz s

/-- POPC (R181). -/
def execPopc (h : Hdr) (d a : Code) (s : State) : Host.Outcome State Fault Refusal :=
  alu2 h (.popc h d a) d a aluPopc s

/-- BEXT (R181). -/
def execBext (h : Hdr) (d a : Code) (p w : B6) (s : State) : Host.Outcome State Fault Refusal :=
  alu2 h (.bext h d a p w) d a (fun x => aluBext x p w) s

/-- BINS (R181). -/
def execBins (h : Hdr) (o : A3) (p w : B6) (s : State) : Host.Outcome State Fault Refusal :=
  alu3 h (.bins h o p w) o 1 (fun x y => aluBins x y p w) s

/-- SEQ (R181). -/
def execSeq (h : Hdr) (o : A3) (s : State) : Host.Outcome State Fault Refusal :=
  alu3 h (.seq h o) o 1 (fun x y => bit64 (decide (x = y))) s

/-- SNE (R181). -/
def execSne (h : Hdr) (o : A3) (s : State) : Host.Outcome State Fault Refusal :=
  alu3 h (.sne h o) o 1 (fun x y => bit64 (decide (x ≠ y))) s

/-- SLT (R181). -/
def execSlt (h : Hdr) (o : A3) (s : State) : Host.Outcome State Fault Refusal :=
  alu3 h (.slt h o) o 1 (fun x y => bit64 (ltS x y)) s

/-- SLTU (R181). -/
def execSltu (h : Hdr) (o : A3) (s : State) : Host.Outcome State Fault Refusal :=
  alu3 h (.sltu h o) o 1 (fun x y => bit64 (ltU x y)) s

/-- SEL: s(a) where s(C) is nonzero, else s(b) (R181). -/
def execSel (h : Hdr) (o : A3) (c : Code) (s : State) : Host.Outcome State Fault Refusal :=
  issue h (.sel h o c) (aluBody (.sel h o c) o.d 1 fun s => aluSel (s.rd o.a) (s.rd o.b) (s.rd c)) s

/-! ### Idle, spill memory and clocks (07: R190 to R192) -/

/-- NOP (R190). -/
def execNop (h : Hdr) (s : State) : Host.Outcome State Fault Refusal :=
  issue h (.nop h) (fun s => .done s .seq) s

/-- IDLE (R190). -/
def execIdle (h : Hdr) (n : B18) (s : State) : Host.Outcome State Fault Refusal :=
  issue h (.idle h n) (fun s => .done s (.idle n.toNat)) s

/-- SPLD's own effect: the eight bytes at 8 idx, which perform in the issue cycle (R191), or the trap that an uncorrectable
doubleword takes then (18: R434). -/
def spldBody (i : Instr) (d : Code) (idx : Nat) (s : State) : Body :=
  if sget false s.me.spillEcc idx then
    .done (raise s s.actor .eccUncorr 0 (BitVec.ofNat 64 (8 * idx)) s.me.pc (s.timedOf s.actor)) .seq
  else aluBody i d 1 (fun s => s.me.spill.dword (8 * idx)) s

/-- SPLD (R191). -/
def execSpld (h : Hdr) (d : Code) (idx : B10) (s : State) : Host.Outcome State Fault Refusal :=
  issue h (.spld h d idx) (spldBody (.spld h d idx) d idx.toNat) s

/-- SPST (R191). -/
def execSpst (h : Hdr) (d : Code) (idx : B10) (s : State) : Host.Outcome State Fault Refusal :=
  issue h (.spst h d idx) (fun s => .done (s.modSeqr s.actor fun q =>
    { q with
      spill := q.spill.write (8 * idx.toNat) (natLe 8 (readS q d).toNat)
      spillEcc := sset false q.spillEcc idx.toNat false }) .seq) s

/-- The clock that RDCLK's selector names, in the issue cycle (R192). -/
def clockOf (s : State) (r : B2) : DWord :=
  match r.toNat with
  | 0 => BitVec.ofNat 64 (s.sccOf (s.partOf s.actor))
  | 1 => BitVec.ofNat 64 s.wcc
  | _ => BitVec.ofNat 64 (s.sccOf (s.partOf s.actor)) - BitVec.ofNat 64 (s.tsbOf s.actor)

/-- RDCLK (R192). -/
def execRdclk (h : Hdr) (d : Code) (r : B2) (s : State) : Host.Outcome State Fault Refusal :=
  issue h (.rdclk h d r) (aluBody (.rdclk h d r) d 1 fun s => clockOf s r) s

/-! ### CSR instructions (07: R193) -/

/-- CSRR: the CSR as it stands at the start of the issue cycle (R193, R195). -/
def execCsrr (h : Hdr) (d : Code) (num : B10) (s : State) : Host.Outcome State Fault Refusal :=
  issue h (.csrr h d num) (aluBody (.csrr h d num) d 1 fun s => csrValue s s.actor num.toNat) s

/-- CSRW (R193). -/
def execCsrw (h : Hdr) (d : Code) (num : B10) (s : State) : Host.Outcome State Fault Refusal :=
  issue h (.csrw h d num) (csrWriteBody (.csrw h d num) num.toNat fun s => s.rd d) s

/-- CSRS (R193). -/
def execCsrs (h : Hdr) (d : Code) (num : B10) (s : State) : Host.Outcome State Fault Refusal :=
  issue h (.csrs h d num) (csrWriteBody (.csrs h d num) num.toNat fun s =>
    csrValue s s.actor num.toNat ||| s.rd d) s

/-- CSRC (R193). -/
def execCsrc (h : Hdr) (d : Code) (num : B10) (s : State) : Host.Outcome State Fault Refusal :=
  issue h (.csrc h d num) (csrWriteBody (.csrc h d num) num.toNat fun s =>
    csrValue s s.actor num.toNat &&& ~~~s.rd d) s

end Sys2Proof.Machine
end

