-- ==== Sys2Proof/Machine/Shutter.lean ====
section
/-! DEFINITION. The shutter (12: R342 to R344; 19: R458): the matches of a candidate, deciding it, its window record,
and candidates that die. -/

namespace Sys2Proof.Machine

/-! ### Matches (12: R343) -/

def setW (v : Nat) : Nat := bits v 63 40
def setRing (v : Nat) : Nat := bits v 39 32
def setPart (v : Nat) : Nat := bits v 31 30
def setOn (v : Nat) : Bool := bits v 29 29 = 1
def setRef (v : Nat) : Nat := bits v 28 24
def setMembers (v : Nat) : List Nat := (List.range 20).filter fun p => bits v p p = 1

/-- TMID of a row less TREF. -/
def offsetFrom (c r : Counted) : Int := (r.tmid : Int) - c.tmid

/-- The match of member m for candidate c. -/
def matchOf (x : FusionSet) (v : Nat) (c : Counted) (m : Nat) : Option Counted :=
  if m = setRef v then some c
  else (sget [] x.hist m).find? fun r => decide ((offsetFrom c r).natAbs ≤ setW v) && decide (sget 0 x.last m ≤ r.ord)

/-- Every member has a match. -/
def complete (x : FusionSet) (v : Nat) (c : Counted) : Bool := (setMembers v).all fun m => (matchOf x v c m).isSome

/-! ### The window record (12: R344) -/

/-- The entry of port p. -/
def windowEntry (x : FusionSet) (v : Nat) (c : Counted) (p : Nat) : Bytes :=
  if (setMembers v).contains p then
    match matchOf x v c p with
    | some r => natLe 8 (r.ord % 2 ^ 48) ++ natLe 4 r.frame ++ natLe 4 (wrap 32 (offsetFrom c r))
    | none => natLe 16 0
  else natLe 16 0

def windowRecord (x : FusionSet) (f v wnum : Nat) (c : Counted) : Bytes :=
  natLe 8 (f + setRef v * 2 ^ 8 + c.frame % 2 ^ 32 * 2 ^ 32) ++ natLe 8 c.tmid
    ++ natLe 16 (wnum % 2 ^ 48 + setW v * 2 ^ 48 + bits v 19 0 * 2 ^ 72) ++ natLe 32 0
    ++ (List.range 20).flatMap (windowEntry x v c) ++ natLe 128 0

/-! ### Deciding (12: R344) -/

/-- The oldest open candidate, when it is complete. -/
def decidable? (s : State) (f : Nat) : Option Counted :=
  let v := s.reg (offFscfg f)
  let x := s.fset f
  match x.cands with
  | c :: _ => if setOn v && !s.worked && complete x v c then some c else none
  | [] => none

/-- The oldest candidate is decided: its record is made, and is written within 64 cycles. -/
def decideSet (s : State) (f : Nat) (c : Counted) : State :=
  let v := s.reg (offFscfg f)
  let x := s.fset f
  let (n, s) := s.takeFresh
  let at_ := s.wcc + 1 + Config.ingressDelay n % 64
  let rcd := windowRecord x f v (windowCount s f + x.due.length) c
  s.setFset f { x with
    cands := x.cands.tail
    due := x.due ++ [(at_, rcd)]
    last := (setMembers v).foldl (fun m p => match matchOf x v c p with
      | some r => insert m p r.ord
      | none => m) x.last }

/-- The record of a decided candidate that is written and published in this cycle; none during a reset of its partition, at
whose end it is gone (19: R463). -/
def windowDue (s : State) (f : Nat) : Option Bytes :=
  let v := s.reg (offFscfg f)
  match (s.fset f).due with
  | (t, rcd) :: _ =>
    if s.worked && decide (t ≤ s.wcc) && (s.part (setPart v)).resetting.isNone && decide (0 < (s.ring (setPart v) (setRing v)).free) then some rcd else none
  | [] => none

/-- The record is written, its slot published, and WCNT advances. -/
def publishWindow (s : State) (f : Nat) (rcd : Bytes) : State :=
  let v := s.reg (offFscfg f)
  let p := setPart v
  let rn := setRing v
  let r := s.ring p rn
  let s := s.setFset f { s.fset f with due := (s.fset f).due.tail }
  let s := if s.gone r.home then s
    else (timedWrite (s.setClaim p rn (r.claim + 1)) (runCells (r.addr r.claim) rcd)).setPub p rn (r.pub + 1)
  let s := s.setField (offFscnt f) 47 0 (windowCount s f + 1)
  fireWindow s p f

/-- SHUTTER_DECIDE (R344): a complete candidate is decided, or the record of a decided one is published. -/
def execShutterDecide (s : State) : Host.Outcome State Fault Refusal :=
  match decidable? s s.unit, windowDue s s.unit with
  | some c, _ => .next (decideSet s s.unit c)
  | none, some rcd => .next (publishWindow s s.unit rcd)
  | none, none => .fault (.notDue "SHUTTER_DECIDE")

/-! ### Dead candidates (19: R458) -/

/-- Candidate c can no longer complete. -/
def deadCandidate (s : State) (x : FusionSet) (v : Nat) (c : Counted) : Bool :=
  let missing := (setMembers v).filter fun m => (matchOf x v c m).isNone
  let limit := c.tmid + setW v
  let base := (missing.map fun m => s.fieldOf (offPtim m) 47 32).foldl max 0
  missing ≠ [] && ((missing.all fun m => (sget [] x.hist m).any fun r => decide (limit < r.tmid)) ||
    (base ≠ 0 && decide (limit + 1000 * base < tbnow s)))

/-- The first candidate of a set that is dead; the oldest of five. -/
def deadDue (s : State) (f : Nat) : Option Counted :=
  let v := s.reg (offFscfg f)
  let x := s.fset f
  if !setOn v || s.worked then none
  else if 4 < x.cands.length then x.cands.head?
  else x.cands.find? (deadCandidate s x v)

/-- SHUTTER_CANDIDATE_DEAD (R458). -/
def execShutterCandidateDead (s : State) : Host.Outcome State Fault Refusal :=
  let f := s.unit
  match deadDue s f with
  | none => .fault (.notDue "SHUTTER_CANDIDATE_DEAD")
  | some c =>
    let v := s.reg (offFscfg f)
    let s := s.setFset f { s.fset f with cands := (s.fset f).cands.erase c }
    .next (record s {
        det := 17, sev := 0, part := setPart v, ukind := 8, unit := setRef v, detail := 0x100 + f, val := c.tmid })

end Sys2Proof.Machine
end

