-- ==== Sys2Proof/Machine/Dispatch.lean ====
section
/-! DEFINITION. One arm per constructor of `Instr`: the call of its meaning, or its rejection by name. -/

namespace Sys2Proof.Machine

def exec (i : Instr) (s : State) : Host.Outcome State Fault Refusal :=
  match i with

  | .nop h => Sys2Proof.Machine.execNop h s
  | .add h o => Sys2Proof.Machine.execAdd h o s
  | .sub h o => Sys2Proof.Machine.execSub h o s
  | .and h o => Sys2Proof.Machine.execAnd h o s
  | .or h o => Sys2Proof.Machine.execOr h o s
  | .xor h o => Sys2Proof.Machine.execXor h o s
  | .shl h o => Sys2Proof.Machine.execShl h o s
  | .shr h o => Sys2Proof.Machine.execShr h o s
  | .sra h o => Sys2Proof.Machine.execSra h o s
  | .addi h d imm => Sys2Proof.Machine.execAddi h d imm s
  | .andi h d imm => Sys2Proof.Machine.execAndi h d imm s
  | .ori h d imm => Sys2Proof.Machine.execOri h d imm s
  | .xori h d imm => Sys2Proof.Machine.execXori h d imm s
  | .shli h d n => Sys2Proof.Machine.execShli h d n s
  | .shri h d n => Sys2Proof.Machine.execShri h d n s
  | .srai h d n => Sys2Proof.Machine.execSrai h d n s
  | .lim h d imm => Sys2Proof.Machine.execLim h d imm s
  | .limX h d imm x => Sys2Proof.Machine.execLimX h d imm x s
  | .lih h d imm x => Sys2Proof.Machine.execLih h d imm x s
  | .mov h d a => Sys2Proof.Machine.execMov h d a s
  | .mul h o => Sys2Proof.Machine.execMul h o s
  | .mulh h o => Sys2Proof.Machine.execMulh h o s
  | .mulhu h o => Sys2Proof.Machine.execMulhu h o s
  | .div h o => Sys2Proof.Machine.execDiv h o s
  | .divu h o => Sys2Proof.Machine.execDivu h o s
  | .rem h o => Sys2Proof.Machine.execRem h o s
  | .remu h o => Sys2Proof.Machine.execRemu h o s
  | .min h o => Sys2Proof.Machine.execMin h o s
  | .max h o => Sys2Proof.Machine.execMax h o s
  | .minu h o => Sys2Proof.Machine.execMinu h o s
  | .maxu h o => Sys2Proof.Machine.execMaxu h o s
  | .clz h d a => Sys2Proof.Machine.execClz h d a s
  | .ctz h d a => Sys2Proof.Machine.execCtz h d a s
  | .popc h d a => Sys2Proof.Machine.execPopc h d a s
  | .bext h d a p w => Sys2Proof.Machine.execBext h d a p w s
  | .bins h o p w => Sys2Proof.Machine.execBins h o p w s
  | .seq h o => Sys2Proof.Machine.execSeq h o s
  | .sne h o => Sys2Proof.Machine.execSne h o s
  | .slt h o => Sys2Proof.Machine.execSlt h o s
  | .sltu h o => Sys2Proof.Machine.execSltu h o s
  | .sel h o c => Sys2Proof.Machine.execSel h o c s
  | .br h off => Sys2Proof.Machine.execBr h off s
  | .bz h d off => Sys2Proof.Machine.execBz h d off s
  | .bnz h d off => Sys2Proof.Machine.execBnz h d off s
  | .blt h a b off => Sys2Proof.Machine.execBlt h a b off s
  | .bge h a b off => Sys2Proof.Machine.execBge h a b off s
  | .bltu h a b off => Sys2Proof.Machine.execBltu h a b off s
  | .bgeu h a b off => Sys2Proof.Machine.execBgeu h a b off s
  | .bqs h q cnd off => Sys2Proof.Machine.execBqs h q cnd off s
  | .jal h off => Sys2Proof.Machine.execJal h off s
  | .jr h a => Sys2Proof.Machine.execJr h a s
  | .loop h lev nstr cnt sb blen => Sys2Proof.Machine.execLoop h lev nstr cnt sb blen s
  | .lbrkC h lev => Sys2Proof.Machine.execLbrkC h lev s
  | .lbrkD h lev => Sys2Proof.Machine.execLbrkD h lev s
  | .qualF h lev => Sys2Proof.Machine.execQualF h lev s
  | .qualL h lev => Sys2Proof.Machine.execQualL h lev s
  | .idle h n => Sys2Proof.Machine.execIdle h n s
  | .spld h d idx => Sys2Proof.Machine.execSpld h d idx s
  | .spst h d idx => Sys2Proof.Machine.execSpst h d idx s
  | .csrr h d num => Sys2Proof.Machine.execCsrr h d num s
  | .csrw h d num => Sys2Proof.Machine.execCsrw h d num s
  | .csrs h d num => Sys2Proof.Machine.execCsrs h d num s
  | .csrc h d num => Sys2Proof.Machine.execCsrc h d num s
  | .rdclk h d r => Sys2Proof.Machine.execRdclk h d r s
  | .vadd h o x => Sys2Proof.Machine.execVadd h o x s
  | .vsub h o x => Sys2Proof.Machine.execVsub h o x s
  | .vmul h o x => Sys2Proof.Machine.execVmul h o x s
  | .vmulh h o x => Sys2Proof.Machine.execVmulh h o x s
  | .vfma h o x => Sys2Proof.Machine.execVfma h o x s
  | .vfms h o x => Sys2Proof.Machine.execVfms h o x s
  | .vfnma h o x => Sys2Proof.Machine.execVfnma h o x s
  | .vmin h o x => Sys2Proof.Machine.execVmin h o x s
  | .vmax h o x => Sys2Proof.Machine.execVmax h o x s
  | .vabs h o x => Sys2Proof.Machine.execVabs h o x s
  | .vneg h o x => Sys2Proof.Machine.execVneg h o x s
  | .vnot h o x => Sys2Proof.Machine.execVnot h o x s
  | .vmov h o x => Sys2Proof.Machine.execVmov h o x s
  | .vclamp h o x => Sys2Proof.Machine.execVclamp h o x s
  | .vsat h o x => Sys2Proof.Machine.execVsat h o x s
  | .vand h o x => Sys2Proof.Machine.execVand h o x s
  | .vor h o x => Sys2Proof.Machine.execVor h o x s
  | .vxor h o x => Sys2Proof.Machine.execVxor h o x s
  | .vshl h o x => Sys2Proof.Machine.execVshl h o x s
  | .vshr h o x => Sys2Proof.Machine.execVshr h o x s
  | .vsra h o x => Sys2Proof.Machine.execVsra h o x s
  | .vcmp h cnd o x => Sys2Proof.Machine.execVcmp h cnd o x s
  | .vsel h o x => Sys2Proof.Machine.execVsel h o x s
  | .vbcast h o x => Sys2Proof.Machine.execVbcast h o x s
  | .vextr h o x => Sys2Proof.Machine.execVextr h o x s
  | .vins h o x => Sys2Proof.Machine.execVins h o x s
  | .vcvt h o x => Sys2Proof.Machine.execVcvt h o x s
  | .vsrnd h o x => Sys2Proof.Machine.execVsrnd h o x s
  | .vqnt h o x => Sys2Proof.Machine.execVqnt h o x s
  | .vdqnt h o x => Sys2Proof.Machine.execVdqnt h o x s
  | .vperm h o x => Sys2Proof.Machine.execVperm h o x s
  | .vshuf h fn o x => Sys2Proof.Machine.execVshuf h fn o x s
  | .vrot h o x => Sys2Proof.Machine.execVrot h o x s
  | .vcomp h o x => Sys2Proof.Machine.execVcomp h o x s
  | .vexpd h o x => Sys2Proof.Machine.execVexpd h o x s
  | .vred h fn o x => Sys2Proof.Machine.execVred h fn o x s
  | .vscan h fn o x => Sys2Proof.Machine.execVscan h fn o x s
  | .vdot h o x => Sys2Proof.Machine.execVdot h o x s
  | .viota h o x => Sys2Proof.Machine.execViota h o x s
  | .mand h o x => Sys2Proof.Machine.execMand h o x s
  | .mor h o x => Sys2Proof.Machine.execMor h o x s
  | .mxor h o x => Sys2Proof.Machine.execMxor h o x s
  | .mnot h o x => Sys2Proof.Machine.execMnot h o x s
  | .mpop h o x => Sys2Proof.Machine.execMpop h o x s
  | .mfirst h o x => Sys2Proof.Machine.execMfirst h o x s
  | .vsetvl h o x => Sys2Proof.Machine.execVsetvl h o x s
  | .vrand h o x => Sys2Proof.Machine.execVrand h o x s
  | .vsamp h o x => Sys2Proof.Machine.execVsamp h o x s
  | .defer h fn o x => Sys2Proof.Machine.execDefer h fn o x s
  | .drain h fn o x => Sys2Proof.Machine.execDrain h fn o x s
  | .dcount h o x => Sys2Proof.Machine.execDcount h o x s
  | .vexp2 h o x => Sys2Proof.Machine.execVexp2 h o x s
  | .vlog2 h o x => Sys2Proof.Machine.execVlog2 h o x s
  | .vrcp h o x => Sys2Proof.Machine.execVrcp h o x s
  | .vrsq h o x => Sys2Proof.Machine.execVrsq h o x s
  | .vsin h o x => Sys2Proof.Machine.execVsin h o x s
  | .vcos h o x => Sys2Proof.Machine.execVcos h o x s
  | .vtanh h o x => Sys2Proof.Machine.execVtanh h o x s
  | .vsigm h o x => Sys2Proof.Machine.execVsigm h o x s
  | .verf h o x => Sys2Proof.Machine.execVerf h o x s
  | .tap h o src inf t kh kw step => Sys2Proof.Machine.execTap h o src inf t kh kw step s
  | .rowinWait h d a => Sys2Proof.Machine.execRowinWait h d a s
  | .rowinRel h a => Sys2Proof.Machine.execRowinRel h a s
  | .rowinCnt h d => Sys2Proof.Machine.execRowinCnt h d s
  | .rowoutWr h a b => Sys2Proof.Machine.execRowoutWr h a b s
  | .rowoutNext h a b => Sys2Proof.Machine.execRowoutNext h a b s
  | .rowoutSlot h a b => Sys2Proof.Machine.execRowoutSlot h a b s
  | .remap h o inf t => Sys2Proof.Machine.execRemap h o inf t s
  | .tileout h a b t ring ch => Sys2Proof.Machine.execTileout h a b t ring ch s
  | .mmul h o x => Sys2Proof.Machine.execMmul h o x s
  | .mmuls h o x => Sys2Proof.Machine.execMmuls h o x s
  | .msacc h o x => Sys2Proof.Machine.execMsacc h o x s
  | .macc h o x => Sys2Proof.Machine.execMacc h o x s
  | .mzero h o x => Sys2Proof.Machine.execMzero h o x s
  | .mrd h o x => Sys2Proof.Machine.execMrd h o x s
  | .mwbl h o x => Sys2Proof.Machine.execMwbl h o x s
  | .mwbd h o x => Sys2Proof.Machine.execMwbd h o x s
  | .mscl h o x => Sys2Proof.Machine.execMscl h o x s
  | .mchk h o x => Sys2Proof.Machine.execMchk h o x s
  | .mstat h d bank => Sys2Proof.Machine.execMstat h d bank s
  | .mfen h o x => Sys2Proof.Machine.execMfen h o x s
  | .ldB h d a off => Sys2Proof.Machine.execLdB h d a off s
  | .ldH h d a off => Sys2Proof.Machine.execLdH h d a off s
  | .ldW h d a off => Sys2Proof.Machine.execLdW h d a off s
  | .ldD h d a off => Sys2Proof.Machine.execLdD h d a off s
  | .stB h d a off => Sys2Proof.Machine.execStB h d a off s
  | .stH h d a off => Sys2Proof.Machine.execStH h d a off s
  | .stW h d a off => Sys2Proof.Machine.execStW h d a off s
  | .stD h d a off => Sys2Proof.Machine.execStD h d a off s
  | .ldBX h d a off => Sys2Proof.Machine.execLdBX h d a off s
  | .ldHX h d a off => Sys2Proof.Machine.execLdHX h d a off s
  | .ldWX h d a off => Sys2Proof.Machine.execLdWX h d a off s
  | .ldDX h d a off => Sys2Proof.Machine.execLdDX h d a off s
  | .stBX h d a off => Sys2Proof.Machine.execStBX h d a off s
  | .stHX h d a off => Sys2Proof.Machine.execStHX h d a off s
  | .stWX h d a off => Sys2Proof.Machine.execStWX h d a off s
  | .stDX h d a off => Sys2Proof.Machine.execStDX h d a off s
  | .vld h o x => Sys2Proof.Machine.execVld h o x s
  | .vst h o x => Sys2Proof.Machine.execVst h o x s
  | .vldx h o x => Sys2Proof.Machine.execVldx h o x s
  | .vstx h o x => Sys2Proof.Machine.execVstx h o x s
  | .rdq h o x => Sys2Proof.Machine.execRdq h o x s
  | .wrq h d a cnt first => Sys2Proof.Machine.execWrq h d a cnt first s
  | .lblk h o x => Sys2Proof.Machine.execLblk h o x s
  | .lbinv h a => Sys2Proof.Machine.execLbinv h a s
  | .lbwb h a => Sys2Proof.Machine.execLbwb h a s
  | .lbst h d a => Sys2Proof.Machine.execLbst h d a s
  | .rclaim h o x => Sys2Proof.Machine.execRclaim h o x s
  | .rpub h o x => Sys2Proof.Machine.execRpub h o x s
  | .rrel h o x => Sys2Proof.Machine.execRrel h o x s
  | .awfill h o x => Sys2Proof.Machine.execAwfill h o x s
  | .awfree h o x => Sys2Proof.Machine.execAwfree h o x s
  | .awrow h o x => Sys2Proof.Machine.execAwrow h o x s
  | .awwin h o x => Sys2Proof.Machine.execAwwin h o x s
  | .awcmp h cnd o x => Sys2Proof.Machine.execAwcmp h cnd o x s
  | .phase h lev => Sys2Proof.Machine.execPhase h lev s
  | .pset h eng wr idx a b => Sys2Proof.Machine.execPset h eng wr idx a b s
  | .fence h scope v => Sys2Proof.Machine.execFence h scope v s
  | .brmw h o x => Sys2Proof.Machine.execBrmw h o x s
  | .monwait h a => Sys2Proof.Machine.execMonwait h a s
  | .push h o x => Sys2Proof.Machine.execPush h o x s
  | .pop h d pm => Sys2Proof.Machine.execPop h d pm s
  | .dact h q row => Sys2Proof.Machine.execDact h q row s
  | .drd h q col addr => Sys2Proof.Machine.execDrd h q col addr s
  | .drdWb h q col core off => Sys2Proof.Machine.execDrdWb h q col core off s
  | .dwr h q col wb addr => Sys2Proof.Machine.execDwr h q col wb addr s
  | .dpre h q => Sys2Proof.Machine.execDpre h q s
  | .dprea h qs sc => Sys2Proof.Machine.execDprea h qs sc s
  | .dref h q => Sys2Proof.Machine.execDref h q s
  | .dmrw h qs sc mr val => Sys2Proof.Machine.execDmrw h qs sc mr val s
  | .dmrr h qs sc mr => Sys2Proof.Machine.execDmrr h qs sc mr s
  | .dzq h qs sc op => Sys2Proof.Machine.execDzq h qs sc op s
  | .didle h n => Sys2Proof.Machine.execDidle h n s
  | .dsync h n => Sys2Proof.Machine.execDsync h n s
  | .trap h code => Sys2Proof.Machine.execTrap h code s
  | .eret h => Sys2Proof.Machine.execEret h s
  | .halt h => Sys2Proof.Machine.execHalt h s
  | .dbg h code => Sys2Proof.Machine.execDbg h code s
  | .safept h bnd => Sys2Proof.Machine.execSafept h bnd s
  | .bbmark h a code => Sys2Proof.Machine.execBbmark h a code s
  | .configLockRequest v => Sys2Proof.Machine.execConfigLockRequest v s
  | .partitionReset v => Sys2Proof.Machine.execPartitionReset v s
  | .hostMessage p v => Sys2Proof.Machine.execHostMessage p v s
  | .peerMessage p tag data => Sys2Proof.Machine.execPeerMessage p tag data s
  | .peerWrite p tag addr op data => Sys2Proof.Machine.execPeerWrite p tag addr op data s
  | .queueNotify off v => Sys2Proof.Machine.execQueueNotify off v s
  | .xlinvWrite p v => Sys2Proof.Machine.execXlinvWrite p v s
  | .dbgresWrite v => Sys2Proof.Machine.execDbgresWrite v s
  | .tbstepWrite v => Sys2Proof.Machine.execTbstepWrite v s
  | .timeSyncMessage inc step => Sys2Proof.Machine.execTimeSyncMessage inc step s
  | .lbpGo n => Sys2Proof.Machine.execLbpGo n s
  | .lbpImemWrite off v => Sys2Proof.Machine.execLbpImemWrite off v s
  | .scratchpadWindowWrite off v => Sys2Proof.Machine.execScratchpadWindowWrite off v s
  | .migctlGo ch v => Sys2Proof.Machine.execMigctlGo ch v s
  | .fringRelWrite x v => Sys2Proof.Machine.execFringRelWrite x v s
  | .fpinClear v => Sys2Proof.Machine.execFpinClear v s
  | .registerWrite off n v => Sys2Proof.Machine.execRegisterWrite off n v s
  | .bar2Write off data => Sys2Proof.Machine.execBar2Write off data s
  | .bar2Read off len => Sys2Proof.Machine.execBar2Read off len s
  | .hostAtomic off op w y z => Sys2Proof.Machine.execHostAtomic off op w y z s
  | .spiRead off len => Sys2Proof.Machine.execSpiRead off len s
  | .hostCompletion tag st data => Sys2Proof.Machine.execHostCompletion tag st data s
  | .hostCompletionTimeout tag => Sys2Proof.Machine.execHostCompletionTimeout tag s
  | .peerLinkChange up => Sys2Proof.Machine.execPeerLinkChange up s
  | .linkCrcRetry link => Sys2Proof.Machine.execLinkCrcRetry link s
  | .linkRetryComplete link ok => Sys2Proof.Machine.execLinkRetryComplete link ok s
  | .linkRetrain link => Sys2Proof.Machine.execLinkRetrain link s
  | .linkRetrainEnd link ok => Sys2Proof.Machine.execLinkRetrainEnd link ok s
  | .frameStart port vc => Sys2Proof.Machine.execFrameStart port vc s
  | .cameraRow port di data bad => Sys2Proof.Machine.execCameraRow port di data bad s
  | .frameEnd port vc => Sys2Proof.Machine.execFrameEnd port vc s
  | .lidarDatagram port udpp data bad => Sys2Proof.Machine.execLidarDatagram port udpp data bad s
  | .sensorLinkLoss port => Sys2Proof.Machine.execSensorLinkLoss port s
  | .sensorLinkReturn port => Sys2Proof.Machine.execSensorLinkReturn port s
  | .peerCompletion tag ok data => Sys2Proof.Machine.execPeerCompletion tag ok data s
  | .tileoutPublish => Sys2Proof.Machine.execTileoutPublish s
  | .meCommandStart => Sys2Proof.Machine.execMeCommandStart s
  | .meCommandComplete => Sys2Proof.Machine.execMeCommandComplete s
  | .monitorResume => Sys2Proof.Machine.execMonitorResume s
  | .copy1d => Sys2Proof.Machine.execCopy1d s
  | .copynd => Sys2Proof.Machine.execCopynd s
  | .gather => Sys2Proof.Machine.execGather s
  | .scatter => Sys2Proof.Machine.execScatter s
  | .shape => Sys2Proof.Machine.execShape s
  | .scopy => Sys2Proof.Machine.execScopy s
  | .batom => Sys2Proof.Machine.execBatom s
  | .coll => Sys2Proof.Machine.execColl s
  | .ceCommandComplete => Sys2Proof.Machine.execCeCommandComplete s
  | .cqWordEnter => Sys2Proof.Machine.execCqWordEnter s
  | .collMatchTimeout => Sys2Proof.Machine.execCollMatchTimeout s
  | .refreshDue => Sys2Proof.Machine.execRefreshDue s
  | .holdRefresh => Sys2Proof.Machine.execHoldRefresh s
  | .idleRefresh => Sys2Proof.Machine.execIdleRefresh s
  | .mr4Poll => Sys2Proof.Machine.execMr4Poll s
  | .migrationPass => Sys2Proof.Machine.execMigrationPass s
  | .markDrain => Sys2Proof.Machine.execMarkDrain s
  | .trapHandlerEntry => Sys2Proof.Machine.execTrapHandlerEntry s
  | .domainBreak => Sys2Proof.Machine.execDomainBreak s
  | .walkerRecovery => Sys2Proof.Machine.execWalkerRecovery s
  | .schedSegmentDeadline => Sys2Proof.Machine.execSchedSegmentDeadline s
  | .awaitHorizon => Sys2Proof.Machine.execAwaitHorizon s
  | .holdBegin => Sys2Proof.Machine.execHoldBegin s
  | .holdReleaseDecided => Sys2Proof.Machine.execHoldReleaseDecided s
  | .holdRelease => Sys2Proof.Machine.execHoldRelease s
  | .throttleSlotEnd => Sys2Proof.Machine.execThrottleSlotEnd s
  | .throttleLevelEffect => Sys2Proof.Machine.execThrottleLevelEffect s
  | .awaitBudgetExhausted => Sys2Proof.Machine.execAwaitBudgetExhausted s
  | .holdBudgetExhausted => Sys2Proof.Machine.execHoldBudgetExhausted s
  | .latencyBudgetExceeded => Sys2Proof.Machine.execLatencyBudgetExceeded s
  | .phaseChange => Sys2Proof.Machine.execPhaseChange s
  | .safepointPreempt => Sys2Proof.Machine.execSafepointPreempt s
  | .contextSaveDone => Sys2Proof.Machine.execContextSaveDone s
  | .contextRestoreDone => Sys2Proof.Machine.execContextRestoreDone s
  | .vrfWakeDone => Sys2Proof.Machine.execVrfWakeDone s
  | .wccCompareTrigger => Sys2Proof.Machine.execWccCompareTrigger s
  | .launchStart => Sys2Proof.Machine.execLaunchStart s
  | .iterationRetire => Sys2Proof.Machine.execIterationRetire s
  | .deviceReset => Sys2Proof.Machine.execDeviceReset s
  | .powerOn => Sys2Proof.Machine.execPowerOn s
  | .bootGo => Sys2Proof.Machine.execBootGo s
  | .bootReady => Sys2Proof.Machine.execBootReady s
  | .attestGo => Sys2Proof.Machine.execAttestGo s
  | .partitionResetDone => Sys2Proof.Machine.execPartitionResetDone s
  | .queueBind => Sys2Proof.Machine.execQueueBind s
  | .queueEntryRead => Sys2Proof.Machine.execQueueEntryRead s
  | .queueMsix => Sys2Proof.Machine.execQueueMsix s
  | .pageWalkComplete => Sys2Proof.Machine.execPageWalkComplete s
  | .hostLinkDown => Sys2Proof.Machine.execHostLinkDown s
  | .rowDeadline => Sys2Proof.Machine.execRowDeadline s
  | .overrunSubstitute => Sys2Proof.Machine.execOverrunSubstitute s
  | .shutterDecide => Sys2Proof.Machine.execShutterDecide s
  | .shutterCandidateDead => Sys2Proof.Machine.execShutterCandidateDead s
  | .untimedAccessPerform => Sys2Proof.Machine.execUntimedAccessPerform s
  | .writeAppliedInView => Sys2Proof.Machine.execWriteAppliedInView s
  | .hostLinkUp => Sys2Proof.Machine.execHostLinkUp s
  | .tsbReached => Sys2Proof.Machine.execTsbReached s
  | .periodBoundary => Sys2Proof.Machine.execPeriodBoundary s

end Sys2Proof.Machine
end

