-- ==== Sys2Proof/Machine/Work.lean ====
section
/-! DEFINITION. What performs and lands in one wall cycle, in classes: reads, then writes, the operations of the ring
units, results, strides, pushes, tokens and CSRs (02: R37; 03: R72, R75 to R77, R81 to R84, R96; 04: R106, R107; 07: R187,
R193 to R195; 10: R267, R268, R270, R271; 17: R412, R476). -/

namespace Sys2Proof.Machine

/-! ### Landings that are due -/

/-- The landing joins a list ordered by number. -/
def insertLanding (l : Landing) : List Landing → List Landing
  | [] => [l]
  | x :: xs => if l.id < x.id then l :: x :: xs else x :: insertLanding l xs

def sortLandings (ls : List Landing) : List Landing := ls.foldl (fun acc l => insertLanding l acc) []

def State.setPend (s : State) (a : Actor) (ls : List Landing) : State :=
  match a with
  | .core g _ => s.modCore g fun x => { x with pend := ls }
  | .lbp n => s.setLbp n { s.lbp n with pend := ls }
  | .dcs _ => s
  | .mgmt => { s with mgmtPend := ls }

/-- The landings of a unit that are due and that p names, in the order of their numbers; the state without them. -/
def takeDue (s : State) (a : Actor) (p : Landing → Bool) : List Landing × State :=
  let now := s.now a
  let hit (l : Landing) : Bool := decide (l.due ≤ now) && p l
  let ls := s.pendOf a
  if ls.any hit then (sortLandings (ls.filter hit), s.setPend a (ls.filter fun l => !hit l)) else ([], s)

/-- Sequencer q of the unit of an actor. -/
def unitSeq (a : Actor) (q : SeqId) : Actor :=
  match a with
  | .core g _ => .core g q
  | a => a

/-! ### Reads -/

/-- A tag comparison of timed code (10: R269). -/
def isTag (l : Landing) : Bool :=
  match l.eff with
  | .perform (.tag _ _ _) => l.org.timed
  | _ => false

/-- A landing that reads; the line pairs and the comparison of a tokened LBLK or LBWB are served by their banks. -/
def isRead (l : Landing) : Bool :=
  match l.eff with
  | .perform m => !(match m with
      | .store _ | .scatter _ | .rmwWrite _ | .held _ _ | .ring _ _ _ _ | .tag _ _ _ => true
      | _ => false)
  | .vstChunk _ _ _ _ | .vscatter _ _ _ _ | .wrqChunk _ _ _ | .qpop _ _ _ _ => true
  | .l1Back _ _ _ _ _ => l.org.timed
  | _ => false

/-- The cells that a store of parts of chunk k of register v writes. Of rows that share an address (stride 0) the highest
prevails (10: R265; the model's choice, log entry 109). -/
def chunkCells (s : State) (g v k : Nat) (rs : List (Nat × Nat × Nat)) : List (Nat × Byte) :=
  rs.flatMap fun r => runCells r.1 (if v < 48 then (s.core g).vrf.read (8192 * v + 1024 * k + r.2.1) r.2.2 else natLe r.2.2 0)

/-- The elements that an indexed store of chunk k of register v writes: address and bytes. -/
def chunkEls (s : State) (g v k : Nat) (els : List (Nat × Nat × Nat)) : List (Nat × Bytes) :=
  els.map fun e => (e.1, if v < 48 then (s.core g).vrf.read (8192 * v + 1024 * k + e.2.1) e.2.2 else natLe e.2.2 0)

/-- A chunk has been read: its store performs in its own cycle, or as an untimed request (10: R265). -/
def storeLater (s : State) (g : Nat) (l : Landing) (at_ : Nat) (op : MemOp) : State :=
  if l.org.timed then addLanding s (.core g l.org.q) { l with due := at_, eff := .perform op }
  else
    let r : UReq := {
      id := l.id, own := .core g l.org.q, org := l.org, after := l.after
      arrive := at_, parts := op.sectors, op := op }
    { s with reqs := s.reqs ++ [r] }

/-- The dirty lines of a pair: number in the pair and content. -/
def dirtyLines (x : Core) (line n : Nat) : List (Nat × Bytes) :=
  ((List.range n).filter fun j => sget false x.l1Dirty (line + j)).map fun j => (j, x.l1d.read (128 * (line + j)) 128)

/-- Lines js of a pair of entry e are clean; ANYD clears with the last pair if no line of the block is dirty. -/
def cleanLines (x : Core) (e line : Nat) (js : List Nat) (last : Bool) : Core :=
  let dirty := js.foldl (fun m j => sset false m (line + j) false) x.l1Dirty
  let ent := sget {} x.l1Dir e
  let clean := (List.range (ent.nm1 + 1)).all fun j => !sget false dirty (ent.line + j)
  { x with l1Dirty := dirty, l1Dir := if last && clean then sset {} x.l1Dir e { ent with anyd := false } else x.l1Dir }

/-- The dirty lines of a pair go to the tile store with their content at the start of this cycle, and are clean; a
store that the L1D serves in this cycle lands after it (10: R271). -/
def backPair (s : State) (g : Nat) (l : Landing) (e line addr n : Nat) (last : Bool) : State :=
  let ls := dirtyLines (s.core g) line n
  let cs := ls.flatMap fun j => runCells (addr + 128 * j.1) j.2
  let s := s.modCore g fun x => cleanLines x e line (ls.map (·.1)) last
  if cs = [] then s else addLanding s (.core g l.org.q) { l with due := s.now (.core g l.org.q), eff := .perform (.rmwWrite cs) }

/-- An entry of landing l of core g has found its queue full or empty: those that follow it are discarded, and the checking
core of a pair will discard its own (17: R476; 01: R27). -/
def stopPushes (s : State) (g : Nat) (l : Landing) : State := dropPushes (s.show_ g l.org [.gone]) g l.org

/-- A chunk that a WRQ has read is pushed at the end of this cycle, or 2 sc later into a partner's queue (10: R268). -/
def pushRead (s : State) (g : Nat) (l : Landing) (qn : Nat) (data : Mem) : State :=
  let a : Actor := .core g l.org.q
  let now := s.now a
  if (queueMode s g qn).1 = 1 then addLanding s a { l with due := now + 2, eff := .pushTo qn ⟨data, 0⟩ }
  else addLanding s a { l with due := now, eff := .push qn ⟨data, 0⟩ }

/-- A memory instruction pops n chunks of the queue that code c names, and pushes the one it pops where `push` names a
queue (06: R157; 03: R76; 08: R236; 17: R476). -/
def portPop (s : State) (g : Nat) (l : Landing) (c : Code) (n : Nat) (again : Bool) (push : Option Nat) : State :=
  let a : Actor := .core g l.org.q
  let go (s : State) (data : Mem) : State :=
    match push with
    | some qn => pushRead s g l qn data
    | none => s
  match queueOfCode s g c with
  | none =>
    let recs := (s.core g).dq.take (64 * n)
    go (s.modCore g fun x => { x with dq := x.dq.drop (64 * n) }) (cells 0 0 (recs.flatMap fun r => natLe 16 r.toNat))
  | some q =>
    let es := ((s.core g).queue q).take n
    if l.org.timed && push.isSome && es.isEmpty then
      lateTrap (stopPushes s g l) a l.org .sched 4 (l.org.w0.setWidth 64)
    else
      let s := s.modCore g fun x => x.setQueue q ((x.queue q).drop n)
      let s := if q = 8 || c = 58 then qstatNote s a again (es.any fun e => decide (e.poison ≠ 0)) (decide (es.length < n)) else s
      go s ((es.head?.map (·.data)).getD [])

/-- The bytes of the vector register file that an effect reads, which a lockstep pair compares (01: R27). -/
def shownBy (s : State) (g : Nat) (e : Eff) : List Shown :=
  let bytes (v off n : Nat) : List Shown := if v < 48 then [.vrf (8192 * v + off) ((s.core g).vrf.read (8192 * v + off) n)] else []
  match e with
  | .vstChunk v k rs _ => rs.flatMap fun r => bytes v (1024 * k + r.2.1) r.2.2
  | .vscatter v k els _ => els.flatMap fun r => bytes v (1024 * k + r.2.1) r.2.2
  | .wrqChunk _ v k => bytes v (1024 * k) 1024
  | _ => []

/-- What one due landing reads; what would cross a withdrawn SL-C is discarded (19: R459). -/
def readOne (s : State) (g : Nat) (l : Landing) : State :=
  let s := s.show_ g l.org (shownBy s g l.eff)
  match l.eff with
  | .perform m => if cutOff s g m m.sectors then s else performRead (decideCand s g l.org.q (some l.org)) g l.org l.id m
  | .vstChunk v k rs at_ => storeLater s g l at_ (.store (chunkCells s g v k rs))
  | .vscatter v k els at_ => storeLater s g l at_ (.scatter (chunkEls s g v k els))
  | .wrqChunk qn v k =>
    pushRead s g l qn (if v < 48 then cells 0 0 ((s.core g).vrf.read (8192 * v + 1024 * k) 1024) else [])
  | .qpop c n again push => portPop s g l c n again push
  | .l1Back e line addr n last => backPair s g l e line addr n last
  | _ => s

/-- The line pairs of LBLKs and LBWBs of core g that are due, of timed code or of tokened code, in the order of their
numbers. -/
def pairsDue (s : State) (g : Nat) (timed : Bool) : List Landing :=
  let now := s.now (.core g .k)
  sortLandings ((s.core g).pend.filter fun l => decide (l.due ≤ now) && decide (l.org.timed = timed) && (match l.eff with
    | .l1Fill _ _ _ _ _ _ | .l1Back _ _ _ _ _ => true
    | _ => false))

/-- The line fills of timed code of core g that are due. The landings stay until their flags are set at the end of the
cycle. -/
def fillsNow (s : State) (g : Nat) : State :=
  (pairsDue s g true).foldl (fun s l => match l.eff with
    | .l1Fill no e line addr n _ => if s.gone 2 && decide (dieOfAddr addr ≠ dieOf g) then s else fillPair (decideCand s g l.org.q (some l.org)) g l.org line addr n e no
    | _ => s) s

/-- The scheduled reads of core g in this cycle. A tag comparison comes first: where the tags differ, nothing of its
instruction performs (17: R412). -/
def coreReads (s : State) (g : Nat) : State :=
  let (ts, s) := takeDue s (.core g .k) isTag
  let s := ts.foldl (fun s l => readOne s g l) s
  let (ls, s) := takeDue s (.core g .k) isRead
  fillsNow (ls.foldl (fun s l => readOne s g l) s) g

/-! ### The line pairs of tokened LBLKs and LBWBs (03: R82, R84, R89; 04: R106, R109) -/

/-- What line pair l of core g asks of its banks: the lines of an LBLK, with the header that the first of them compares,
or the dirty lines of an LBWB; none where nothing is to be moved. -/
def pairRequest (s : State) (g : Nat) (l : Landing) : Option EReq :=
  let x := s.core g
  let r : EReq := { id := l.id, g := g, org := some l.org, agent := seqAgent g l.org.q, arrive := s.now (.core g .k), parts := [], orig := origCd (dieOf g) }
  match l.eff with
  | .l1Fill _ _ _ addr n _ =>
    let h := match pairTag s g l.id with
      | some (_, h, _, _) => if (l1Serves x (h + 12) 4).isSome then [] else [(h + 12, 4096, 4)]
      | none => []
    some { r with rd := (addr, 0, 128 * n) :: h }
  | .l1Back _ line addr n _ =>
    let cs := (dirtyLines x line n).flatMap fun j => runCells (addr + 128 * j.1) j.2
    if cs = [] then none else some { r with wr := cs, back := some (line, addr, n) }
  | _ => none

/-- Nothing in program order keeps line pair l of core g from its banks. -/
def pairFree (s : State) (g : Nat) (l : Landing) : Bool :=
  let header : List (Nat × Nat) := match pairTag s g l.id with
    | some (_, h, _, _) => [(h + 12, 4)]
    | none => []
  !fenced (s.seqr (.core g l.org.q)) l.id && afterDone s g l.after && !pairBlocked s g l (effStores l.eff ++ header)

/-- Line pair l asks its banks, in the first cycle in which nothing keeps it. What a pair of LBWB writes are its lines as
they stand at the start of the cycle. -/
def pairAsk (s : State) (g : Nat) (l : Landing) : State :=
  match ereqOf s l.id, pairRequest s g l with
  | some e, some r => if e.back.isSome then setReq s { e with wr := r.wr } else s
  | none, some r => if pairFree s g l then postReq s r else s
  | _, none => s

/-- What the line pairs of core g ask of their banks in this cycle. -/
def lineAsks (s : State) (g : Nat) : State := (pairsDue s g false).foldl (fun s l => pairAsk s g l) s

/-- A pair has not been served: it and those of its instruction that follow it are a cycle later, and so is the datapath. -/
def delayLines (x : Core) (l : Landing) : Core :=
  { x with
    ceFree := x.ceFree + 1
    pend := x.pend.map fun y => if y.org = l.org && decide (l.id ≤ y.id) && (match y.eff with
        | .l1Fill _ _ _ _ _ _ | .l1Back _ _ _ _ _ => true
        | _ => false) then { y with due := y.due + 1 } else y }

/-- The lines of a pair of LBWB whose written content is still what they hold: they are clean. -/
def writtenLines (x : Core) (line n : Nat) (got : Mem) : List Nat :=
  ((dirtyLines x line n).filter fun j => j.2 = got.read (128 * j.1) 128).map (·.1)

/-- Line pair l of core g at the end of the cycle: it has been served, or it and what follows it wait. -/
def pairMove (s : State) (g id : Nat) : State :=
  match landingOf s g id with
  | none => s
  | some l =>
    if s.now (.core g .k) < l.due then s
    else match ereqOf s id with
      | some e =>
        if !e.parts.isEmpty then s.modCore g fun x => delayLines x l
        else
          let s := dropReq s id
          (match l.eff with
           | .l1Back n line _ m last => s.modCore g fun x => cleanLines x n line (writtenLines x line m e.got) last
           | _ => s)
      | none =>
        match l.eff with
        | .l1Back n line _ _ last =>
          if (pairRequest s g l).isNone then s.modCore g fun x => cleanLines x n line [] last
          else s.modCore g fun x => delayLines x l
        | _ => s.modCore g fun x => delayLines x l

/-- The line pairs of tokened code of core g at the end of the cycle. -/
def lineMoves (s : State) (g : Nat) : State := ((pairsDue s g false).map (·.id)).foldl (fun s id => pairMove s g id) s

/-! ### The sources of unstamped MWBLs and MSCLs (04: R106; 09: R244) -/

/-- An unstamped MWBL or MSCL asks for its source's banks, or finds its port taken by a scheduled write or by an earlier
command. -/
def meAskOne (s : State) (g : Nat) (m : MCmd) : State :=
  let t := s.sccOf (s.partOfCore g)
  let first (e : MCmd) : Bool := e.id ≠ m.id && (e.stamp.isSome || decide (e.id < m.id))
  if m.portNow g t && !portOpen s g m t first then s.modCore g fun x => setMCmd x { m with stall := true }
  else
    let s := if m.stall then s.modCore g fun x => setMCmd x { m with stall := false } else s
    match m.sourceNow g t, ereqOf s m.id with
    | some (a, n), none => postReq s { id := m.id, g := g, me := true, arrive := t, parts := [], rd := [(a, 0, n)] }
    | _, _ => s

/-- What the unstamped MWBLs and MSCLs of core g ask for in this cycle. -/
def meAsks (s : State) (g : Nat) : State :=
  (allMe (s.core g)).foldl (fun s m => if m.stamp.isNone && m.s.isSome then meAskOne s g m else s) s

/-! ### Writes -/

def isWriteEff (l : Landing) : Bool :=
  match l.eff with
  | .perform (.store _) | .perform (.scatter _) | .perform (.rmwWrite _) | .perform (.held _ _) => true
  | _ => false

/-- A landing that writes: the lines of an LBWB go to the tile store itself. -/
def writeOne (s : State) (g : Nat) (l : Landing) : State :=
  match l.eff with
  | .perform m => if cutOff s g m m.sectors then s else performWrite (decideCand s g l.org.q (some l.org)) g l.org l.id m
  | _ => s

/-- The writes of core g in this cycle. -/
def coreWrites (s : State) (g : Nat) : State :=
  let (ls, s) := takeDue s (.core g .k) isWriteEff
  ls.foldl (fun s l => writeOne s g l) s

/-! ### Rings (03: R96; 02: R54) -/

def isRing (l : Landing) : Bool :=
  match l.eff with
  | .perform (.ring _ _ _ _) => true
  | _ => false

/-- The rings with ROWS = 1 on which cores publish in this cycle, with PUB before. -/
def rowRings (s : State) (ops : List RingOp) : List (Nat × Nat × Nat) :=
  ((ops.filter fun o => o.fn = 1 && (s.ring (s.partOfCore o.g) o.rn).rows).map fun o =>
    (s.partOfCore o.g, o.rn, (s.ring (s.partOfCore o.g) o.rn).pub)).eraseDups

/-- The operations of every ring in this cycle; then the launches that their row counters fire. -/
def ringWork (s : State) (gs : List Nat) : State :=
  let ops := ringOpsNow s
  let s := gs.foldl (fun s g => (takeDue s (.core g .k) isRing).2) s
  let s := ringStep ops 0 (ringStep ops 2 s)
  let s := (s.lbps.map (·.1)).foldl lbpClaims s
  let rows := rowRings s ops
  let s := ringStep ops 1 s
  rows.foldl (fun s r => fireRow s r.1 r.2.1 r.2.2 (s.ring r.1 r.2.1).pub) s

/-! ### Results -/

/-- The n bytes at lo of a unit's vector register file can be written: they lie in one register. -/
def State.vrfTakes (s : State) (a : Actor) (lo : Nat) : Bool :=
  match a with
  | .core g _ => decide (lo < 48 * 8192) && powerOf (s.core g) (lo / 8192) ≠ 2
  | _ => decide (lo < 48 * 8192)

def State.modVrf (s : State) (a : Actor) (f : Mem → Mem) : State :=
  match a with
  | .core g _ => s.modCore g fun x => { x with vrf := f x.vrf }
  | .lbp n => s.setLbp n { s.lbp n with vrf := f (s.lbp n).vrf }
  | _ => s

def State.modMask (s : State) (a : Actor) (m clear set : Nat) : State :=
  let new (old : Nat) : Nat := (old - (old &&& clear)) ||| set
  match a with
  | .core g _ => s.modCore g fun x => { x with masks := sset 0 x.masks m (new (sget 0 x.masks m)) }
  | .lbp n => s.setLbp n { s.lbp n with masks := sset 0 (s.lbp n).masks m (new (sget 0 (s.lbp n).masks m)) }
  | _ => s

/-- A write of a chunk of the vector register file corrects it. -/
def vrfMend (s : State) (a : Actor) (lo : Nat) : State :=
  match a with
  | .core g _ => s.modCore g fun x => { x with vrfEcc := sset false x.vrfEcc (lo / 1024) false }
  | _ => s

def isResult (e : Eff) : Bool :=
  match e with
  | .reg _ _ _ | .vrf _ | .vrfRun _ _ | .vrfBits _ _ _ _ | .mask _ _ _ | .orb _ _ => true
  | _ => false

/-- A result lands. -/
def landResult (s : State) (a : Actor) (e : Eff) : State :=
  match e with
  | .reg q d v => s.modSeqr (unitSeq a q) fun y => writeS y d v
  | .vrf cs => s.modVrf a fun m => m.writeCells (cs.filter fun c => s.vrfTakes a c.1)
  | .vrfRun lo bs => if s.vrfTakes a lo then (vrfMend s a lo).modVrf a fun m => m.write lo bs else s
  | .vrfBits lo n clear set => if s.vrfTakes a lo then (vrfMend s a lo).modVrf a fun m =>
      let old := leNat (m.read lo n)
      m.write lo (natLe n ((old - (old &&& clear)) ||| set)) else s
  | .mask m clear set => s.modMask a m clear set
  | .orb lo bs => (match a with
      | .lbp n => s.setLbp n { s.lbp n with orb := (s.lbp n).orb.write lo bs }
      | _ => s)
  | _ => s

def isMrd (l : Landing) : Bool :=
  match l.eff with
  | .mrd _ _ => true
  | _ => false

/-- A readout, which prevails over the results of the cycle (09: R240). -/
def landMrd (s : State) (g : Nat) (e : Eff) : State :=
  match e with
  | .mrd lo bs => if s.vrfTakes (.core g .c) lo then (vrfMend s (.core g .c) lo).modVrf (.core g .c) fun m => m.write lo bs else s
  | _ => s

def isStride (l : Landing) : Bool :=
  match l.eff with
  | .regAdd _ _ _ => true
  | _ => false

def landStride (s : State) (a : Actor) (e : Eff) : State :=
  match e with
  | .regAdd q t v => s.modSeqr (unitSeq a q) fun y => writeS y (t.setWidth 6) (readS y (t.setWidth 6) + v)
  | _ => s

/-- The checking core of a leading core receives its results from memory, queues and engines 2 sc later (02: R66). -/
def handResults (s : State) (a : Actor) (ls : List Landing) : State :=
  match a with
  | .core g q =>
    if s.leads g then
      (ls.filter fun l => byLeader l.org.w0).foldl (fun s l => addLanding s (.core (g + 1) q) { l with due := s.now a + 2 }) s
    else s
  | _ => s

/-- A residue mismatch of the scalar unit that gives result l: PIPE_ERR, and s(d) is not written (18: R433). -/
def scalarFails (s : State) (a : Actor) (l : Landing) : Option DWord :=
  match l.eff with
  | .reg q _ v =>
    let hit (y : Mismatch) : Bool := decide (y.unit = unitSeq a q) && y.arr.isNone && decide (y.at_ = s.now a)
    if !byLeader l.org.w0 && s.mismatch.any hit then some v else none
  | _ => none

/-- The results of a cycle without those that fail their check. -/
def scalarCheck (s : State) (a : Actor) (ls : List Landing) : List Landing × State :=
  (ls.filter fun l => (scalarFails s a l).isNone, ls.foldl (fun t l => match scalarFails s a l with
    | some v => lateTrap t (unitSeq a l.org.q) l.org .pipeErr 0 v
    | none => t) s)

/-- The results of a unit in this cycle: those pending and those of its vector engine, in issue order; the strides
after them. What the vector engine pushes or defers is left for the queues. -/
def unitResults (s : State) (a : Actor) : State :=
  let (ls, s) := takeDue s a fun l => isResult l.eff
  let (ls, s) := scalarCheck s a ls
  let s := handResults s a ls
  let (s, vs) := match a with
    | .core _ _ | .lbp _ => vopsLand s a
    | _ => (s, [])
  let s := (sortLandings (ls ++ vs.filter fun l => isResult l.eff)).foldl (fun s l => landResult s a l.eff) s
  let s := (vs.filter fun l => !isResult l.eff).foldl (fun s l => addLanding s (unitSeq a l.org.q) l) s
  let s := match a with
    | .core g _ =>
      let (ms, s) := takeDue s a isMrd
      ms.foldl (fun s l => landMrd s g l.eff) (handResults s a ms)
    | _ => s
  let (st, s) := takeDue s a isStride
  st.foldl (fun s l => landStride s a l.eff) s

/-! ### Pushes (03: R75, R77; 17: R476) -/

def isPush (l : Landing) : Bool :=
  match l.eff with
  | .push _ _ => true
  | _ => false

def isPushTo (l : Landing) : Bool :=
  match l.eff with
  | .pushTo _ _ => true
  | _ => false

/-- An entry of core g, from landing l, enters queue qn of core h, or finds it full. -/
def pushOne (s : State) (g h qn : Nat) (l : Landing) (e : QEntry) : State :=
  let s := if l.org.timed then s else s.modCore h fun x => x.release qn 1
  let x := s.core h
  if (x.queue qn).length < capQueue then s.setCore h (x.setQueue qn (x.queue qn ++ [e]))
  else lateTrap (stopPushes s g l) (.core g l.org.q) l.org .sched 5 (l.org.w0.setWidth 64)

/-- A push of core g from landing l: that of a vector instruction of a lockstep pair is compared, and only the leading
core's enters (01: R27). -/
def pushPair (s : State) (g h qn : Nat) (l : Landing) (e : QEntry) : State :=
  if s.checker g then checkPush s g l.org (.entry qn e)
  else pushOne (if byLeader l.org.w0 then s else s.show_ g l.org [.entry qn e]) g h qn l e

/-- The pushes of core g into its own queues, in the order L, C, S, K. -/
def localPushes (s : State) (g : Nat) : State :=
  let (ls, s) := takeDue s (.core g .k) isPush
  [SeqId.l, .c, .s, .k].foldl (fun s q => (ls.filter fun l => l.org.q = q).foldl (fun s l => match l.eff with
    | .push qn e => if (queueMode s g qn).1 = 1 then
        addLanding s (.core g q) { l with due := l.due + 2, eff := .pushTo qn e } else pushPair s g g qn l e
    | _ => s) s) s

/-- The pushes of core g into its partners' queues. -/
def partnerPushes (s : State) (g : Nat) : State :=
  let (ls, s) := takeDue s (.core g .k) isPushTo
  ls.foldl (fun s l => match l.eff with
    | .pushTo qn e => pushPair s g (queueMode s g qn).2 qn l e
    | _ => s) s

/-! ### The L1D directory, the deferral queue, tokens and CSRs -/

/-- Steps 1 and 2 of R82. -/
def setBlock (x : Core) (e : Nat) (ent : L1Ent) : Core :=
  let meets (y : L1Ent) : Bool := decide (y.line ≤ ent.line + ent.nm1) && decide (ent.line ≤ y.line + y.nm1)
  let old := sget {} x.l1Dir e
  let clear (m : SMap Bool) (y : L1Ent) : SMap Bool := (List.range (y.nm1 + 1)).foldl (fun m j => sset false m (y.line + j) false) m
  { x with
    l1Dir := insert (x.l1Dir.map fun d => if d.1 ≠ e && meets d.2 then (d.1, { d.2 with valid := false }) else d) e ent
    l1Dirty := clear (if old.valid then clear x.l1Dirty old else x.l1Dirty) ent
    l1Fill := sset 0 x.l1Fill e 0 }

/-- LBINV: the entry is invalid, and its dirty lines are discarded. -/
def invBlock (x : Core) (e : Nat) : Core :=
  let ent := sget {} x.l1Dir e
  { x with
    l1Dir := sset {} x.l1Dir e { ent with valid := false, anyd := false }
    l1Dirty := if ent.valid then (List.range (ent.nm1 + 1)).foldl (fun m j => sset false m (ent.line + j) false) x.l1Dirty else x.l1Dirty }

/-- VRFPWR of core g takes a value: groups wake, or go drowsy or gated (03: R72). -/
def powerWrite (s : State) (g : Nat) (v : DWord) : State :=
  let now := s.sccOf (s.partOfCore g)
  let x := s.core g
  let step (y : Core) (j : Nat) : Core :=
    let cur := powerOf x (8 * j)
    let f := bits v.toNat (2 * j + 1) (2 * j)
    if f = 0 then (if cur = 0 || (look x.wake j).isSome then y else { y with wake := insert y.wake j (now + 16, cur) })
    else if f = 2 then { clearGroup y j with wake := erase y.wake j }
    else { y with wake := erase y.wake j }
  let y := (List.range 6).foldl step x
  s.setCore g { y with c := setCsr y.c csrVrfpwr v }

/-- A CSR instruction's write. -/
def landCsr (s : State) (a : Actor) (q : SeqId) (n : Nat) (v : DWord) : State :=
  let b := unitSeq a q
  let new := csrWritten s b n v
  match a with
  | .core g _ => if n = csrVrfpwr then powerWrite s g new else s.modSeqr b fun y => setCsr y n new
  | _ => s.modSeqr b fun y => setCsr y n new

/-- What is left of a cycle's landings, by class: CSR writes come before the counts and bits that hardware adds. -/
def endClass (e : Eff) : Nat :=
  match e with
  | .csrAdd _ _ | .csrOr _ _ _ => 2
  | .cqPop _ _ _ => 0
  | _ => 1

def isEnd (k : Nat) (l : Landing) : Bool :=
  match l.eff with
  | .dq _ | .l1Set _ _ | .l1Inv _ | .l1Fill _ _ _ _ _ _ | .l1Back _ _ _ _ _ | .tokP _ _ | .tokN _ _ | .csr _ _ _ | .csrAdd _ _
  | .csrOr _ _ _ | .cqPop _ _ _ => endClass l.eff = k
  | _ => false

/-- A hardware count; BBLOST has 32 bits (07: R194). -/
def countCsr (q : Seqr) (n : Nat) : Seqr := setCsrNat q n ((csrNat q n + 1) % if n = csrBblost then 2 ^ 32 else 2 ^ 64)

/-- What hardware has set in core g's CSRs in this cycle comes after the writes of CSR instructions (07: R193). -/
def reapply (s : State) (a : Actor) : State :=
  match a with
  | .core g _ => s.modCore g fun x => { x with k := x.hwCsr.foldl hwField x.k, hwCsr := [] }
  | _ => s

def modUnitCore (s : State) (a : Actor) (f : Core → Core) : State :=
  match a with
  | .core g _ => s.modCore g f
  | _ => s

/-- The records of a DEFER enter the deferral queue; those of a lockstep pair are compared (01: R27). -/
def landRecs (s : State) (a : Actor) (org : Origin) (recs : List (BitVec 128)) : State :=
  let g := coreOf a
  if s.checker g then checkPush s g org (.recs recs)
  else modUnitCore (s.show_ g org [.recs recs]) a fun x => { x with dq := x.dq ++ recs }

def landEnd (s : State) (a : Actor) (l : Landing) : State :=
  match l.eff with
  | .dq recs => landRecs s a l.org recs
  | .l1Set n ent => modUnitCore s a fun x => setBlock x n ent
  | .l1Inv n => modUnitCore s a fun x => invBlock x n
  | .l1Fill no n _ _ _ last => modUnitCore s a fun x =>
      let ent := sget {} x.l1Dir n
      if last && ent.no = no && ent.valid then { x with l1Dir := sset {} x.l1Dir n { ent with flag := true } } else x
  | .tokP q upTo => s.modSeqr (unitSeq a q) fun y => { y with tokP := y.tokP ++ [upTo] }
  | .tokN q upTo => s.modSeqr (unitSeq a q) fun y => { y with tokN := y.tokN ++ [upTo] }
  | .csr q n v => landCsr s a q n v
  | .csrAdd q n => s.modSeqr (unitSeq a q) fun y => countCsr y n
  | .csrOr q n v => s.modSeqr (unitSeq a q) fun y => setCsr y n (getCsr y n ||| v)
  | _ => s

/-- The end of a unit's cycle. -/
def unitEnd (s : State) (a : Actor) : State :=
  let (_, s) := takeDue s a (isEnd 0)
  let (ls, s) := takeDue s a (isEnd 1)
  let s := reapply (ls.foldl (fun s l => landEnd s a l) s) a
  let (hs, s) := takeDue s a (isEnd 2)
  hs.foldl (fun s l => landEnd s a l) s

/-- The fences of core g that complete in this cycle. -/
def settleFences (s : State) (g : Nat) : State :=
  allSeq.foldl (fun s q => (s.seqr (.core g q)).fences.foldl (fun s f =>
    if fenceDone s g q f then completeFence s g q f else s) s) s

/-- A fence of the management controller is complete: its loads have returned, and its writes through the scratchpad
window are applied in both views. -/
def mgmtFenceDone (s : State) (f : Fence) : Bool :=
  (f.v = 1 || s.mgmtPend.all fun l => decide (f.id ≤ l.id) || (match l.eff with
    | .reg _ _ _ => false
    | _ => true)) &&
  (f.v = 2 || ((s.ereqs.all fun e => decide (e.agent ≠ 600) || decide (f.id ≤ e.id)) &&
    s.vwrites.all fun w => decide (w.agent ≠ 600) || decide (f.id ≤ w.acc)))

/-- The fences of the management controller that complete in this cycle. -/
def settleMgmt (s : State) : State :=
  s.mgmt.fences.foldl (fun s f =>
    if mgmtFenceDone s f then
      let s : State := { s with mgmt := { s.mgmt with fences := s.mgmt.fences.filter fun e => e.id ≠ f.id } }
      if f.v = 2 then s else release s .mgmt f.scope f.id
    else s) s

/-! ### The cycle -/

/-- The cores whose schedule time runs. -/
def runningCores (s : State) : List Nat := (s.cores.map (·.1)).filter fun g => !s.held (s.partOfCore g)

def runningDcs (s : State) : List Nat := (s.dcs.map (·.1)).filter fun h => !s.held (s.partOf (.dcs h))

def overCores (gs : List Nat) (f : State → Nat → State) (s : State) : State := gs.foldl f s

/-- The scheduled reads of this cycle, and what untimed commands ask of their banks. A bank that a scheduled access names
is reserved (03: R89). -/
def reads (s : State) : State :=
  let s : State := { s with reserved := reservedBanks s }
  let gs := runningCores s
  let s := overCores gs checkShown s
  let s := overCores gs lineAsks (overCores gs coreReads s)
  let s := overCores gs (fun s g => vopsRead s (.core g .c)) s
  let s := overCores (s.lbps.map (·.1)) (fun s n => vopsRead s (.lbp n)) s
  let s := overCores gs meAsks (overCores gs meFetch s)
  let s := overCores gs ceAsks (overCores gs ceFetch s)
  { overCores (runningDcs s) dcsReads s with readDone := true }

/-- The work of the engines, and writes: what untimed accesses of engines have been granted goes on. -/
def workWrites (s : State) (gs hs : List Nat) : State :=
  let s := overCores gs ceMoves (overCores gs meWorkAll s)
  let s := overCores gs coreWrites (overCores gs lineMoves s)
  let s := overCores gs ceRemote (overCores gs ceWrites s)
  bar2Work (overCores hs dcsWrites s)

/-- Results and the ends of the units' cycles. -/
def workLands (s : State) (gs ls : List Nat) : State :=
  let s := overCores gs popWords s
  let s := overCores gs (fun s g => unitResults s (.core g .c)) s
  let s := overCores ls (fun s n => unitResults s (.lbp n)) s
  let s := unitResults s .mgmt
  let s := overCores gs partnerPushes (overCores gs localPushes s)
  let s := overCores gs (fun s g => unitEnd s (.core g .k)) s
  let s := overCores ls (fun s n => unitEnd s (.lbp n)) s
  settleMgmt (overCores gs settleFences (unitEnd s .mgmt))

/-- What performs and lands in this wall cycle after its reads. -/
def work (s : State) : State :=
  let gs := runningCores s
  let ls := s.lbps.map (·.1)
  let hs := runningDcs s
  let s := overCores ls lbpSends (overCores ls releaseRows s)
  let s := workWrites s gs hs
  let s := workLands (ringWork s gs) gs ls
  let all := s.dcs.map (·.1)
  { overCores all closeBanks (overCores all dcsMrr s) with worked := true }

/-! ### The end of the cycle -/

/-- The core's engines and its state at the end of schedule cycle t. -/
def endCore (x : Core) (t : Nat) : Core :=
  let x := ceSweep (meSweep x t) t
  let x := { x with wbUse := 0, smUse := false }
  if x.st = .body && allHalted x then { x with st := .drain } else x

/-- Schedule time of a partition goes on, unless it is held. -/
def endPart (x : Part) : Part :=
  if x.hold.held then { x with total := (x.total + 1) % 2 ^ 52 } else { x with scc := x.scc + 1 }

/-- The checking core of leading core g sees the queues as g saw them 2 sc before (02: R66). -/
def lockQueues (s : State) (g : Nat) : State :=
  if s.leads g && !s.held (s.partOfCore g) then
    let x := s.core g
    let back := (x.queues, x.onWay, x.dq) :: x.back.take 2
    let old := back.getD 2 ([], [], [])
    let s := s.setCore g { x with back := back }
    s.modCore (g + 1) fun y => { y with queues := old.1, onWay := old.2.1, dq := old.2.2 }
  else s

/-- The wall cycle ends (02: R38, R39, R43, R59; 12: R327; 16: R401). -/
def advanceTime (s : State) : State :=
  let s := overCores (s.cores.map (·.1)) lockQueues (csFlush s)
  let s : State := { s with
    cores := s.cores.map fun e =>
      let x : Core := { e.2.unblock with hwCsr := [], csrWas := [] }
      if s.held (s.partOfCore e.1) then (e.1, x) else (e.1, endCore x (s.sccOf (s.partOfCore e.1)))
    lbps := s.lbps.map fun e => (e.1, { e.2 with seqr := { e.2.seqr with blocked := false } })
    dcs := s.dcs.map fun e => (e.1, { e.2 with seqr := { e.2.seqr with blocked := false } })
    mgmt := { s.mgmt with blocked := false } }
  { s with
    parts := ((List.range 4).map fun p => (p, endPart (s.part p)))
    tb := tbNext s, tbAdd := 0, banksUsed := [], reserved := [], readDone := false, worked := false, pinNow := 0
    cycleNo := s.effNo, wcc := s.wcc + 1 }

end Sys2Proof.Machine
end

