-- ==== Sys2Proof/Machine/Cycle.lean ====
section
/-! DEFINITION. What the device does next: the steps of a wall cycle in their order, and the fetch of an instruction
(02: R31, R35, R38, R39; 06: R153; 18: R428, R429). A wall cycle goes through the inputs that have arrived and the events
of its start; then the sequencers that issue in it; its scheduled reads; the untimed accesses and the writes that views
apply; what else performs and lands; the events of its end; and its end. -/

namespace Sys2Proof.Machine

/-! ### Fetching -/

/-- The memory that an actor's instructions lie in, and the address of its stream there. -/
def codeOf (s : State) (a : Actor) : Mem × Nat :=
  match a with
  | .core g q => (if dieOf g = 0 then s.view0 else s.view1, ((s.core g).seqr q).base)
  | .dcs h => (if h < 8 then s.view0 else s.view1, (s.dcsAt h).seqr.base)
  | .lbp n => ((s.lbp n).imem, 0)
  | .mgmt => (s.mgmtMem, 0)

/-- The word at a byte offset of an actor's stream. -/
def codeWord (s : State) (a : Actor) (off : Nat) : W32 := (codeOf s a).1.word ((codeOf s a).2 + off)

/-- The words at an actor's next instruction. The second of a two-word instruction that is the last of its stream is the
memory word behind it (the model's choice, log entry 90). A place is fetched as word 0 whatever word stands there: a branch
or JR whose target is an extension word takes that word as word 0 (06: R153; the model's choice, log entry 105). -/
def nextWords (s : State) (a : Actor) : W32 × W32 := (codeWord s a (s.seqr a).pc, codeWord s a ((s.seqr a).pc + 4))

/-- The next instruction of an actor, or the first of checks 1 to 11 that its words fail. -/
def fetch (s : State) (a : Actor) : Except Reject Instr :=
  decode (kindOf a) (dieOfActor a) (s.timedOf a) (nextWords s a).1 (nextWords s a).2

/-- TRAPVAL of an instruction that fails a check on its words (18: R429). -/
def rejectVal (s : State) (a : Actor) (r : Reject) : DWord :=
  if r.cause = .illegalExt then (nextWords s a).2.setWidth 64 else (nextWords s a).1.setWidth 64

/-! ### Steps of the device that are due -/

/-- A step of the device and where it acts. -/
structure Due where
  i : Instr
  unit : Nat := 0
  sub : Nat := 0
  actor : Option Actor := none

/-- The state in which that step is executed. -/
def State.place (s : State) (e : Due) : State :=
  { s with unit := e.unit, sub := e.sub, actor := e.actor.getD s.actor }

/-- Step i of the first unit for which it is due. -/
def dueOf (i : Instr) (us : List Nat) (on : Nat → Bool) : Option Due := (us.find? on).map fun u => { i := i, unit := u }

/-- Step i of the first unit and part of it for which it is due. -/
def dueAt (i : Instr) (us subs : List Nat) (on : Nat → Nat → Bool) : Option Due :=
  us.findSome? fun u => (subs.find? (on u)).map fun x => { i := i, unit := u, sub := x }

def four : List Nat := [0, 1, 2, 3]

def State.gs (s : State) : List Nat := s.cores.map (·.1)
def State.ts (s : State) : List Nat := s.tasks.map (·.1)
def State.hs (s : State) : List Nat := s.dcs.map (·.1)

/-- The time of partitions: boundaries, levels, holds and their budgets (02: R40 to R42; 17: R408, R409). -/
def dueTime (s : State) : Option Due :=
  dueOf .periodBoundary four (boundaryDue s) <|>
  dueOf .throttleLevelEffect four (fun p => (levelDue s p).isSome) <|>
  dueOf .holdReleaseDecided four (decideDue s) <|>
  dueOf .awaitBudgetExhausted four (fun p => (awaitLapse s p).isSome) <|>
  dueOf .holdBudgetExhausted four (budgetDue s) <|>
  dueOf .throttleSlotEnd four (slotEndDue s) <|>
  dueOf .holdRelease four (releaseDue s) <|>
  dueOf .holdBegin four (holdDue s)

/-- An untimed ring operation that performs in this cycle (03: R96). -/
def dueRing (s : State) : Option Due :=
  (s.reqs.find? fun r => r.parts = [] && (reqNow s r).isSome).map fun r => { i := .untimedAccessPerform, unit := r.id }

/-- The horizon of a partition: the awaits of its boundary, those that a restored task registers again among them, are
evaluated with the ring operations of the cycle (02: R40, R65; 03: R96). -/
def dueHorizon (s : State) : Option Due := dueOf .awaitHorizon four (horizonDue s)

/-- The quarter-slot of a pin command within its cycle (06: R164). -/
def pinSlot (i : Instr) : Option Nat :=
  match i with
  | .dact _ q _ | .drd _ q _ _ | .drdWb _ q _ _ _ | .dwr _ q _ _ _ | .dpre _ q | .dref _ q => some q.qs.toNat
  | .dprea _ qs _ | .dmrw _ qs _ _ _ | .dmrr _ qs _ _ | .dzq _ qs _ _ => some qs.toNat
  | _ => none

/-- The sequencer may issue, and has not been found waiting in this cycle. -/
def mayIssue (s : State) (a : Actor) : Bool := !(s.seqr a).blocked && s.canIssue a

/-- A pin command of channel h issues in this cycle in wall quarter-slot q or before it: it takes effect before the
refresh balance rises (19: R450). -/
def pinFirst (s : State) (h q : Nat) : Bool :=
  decide (q / 4 = s.wcc) && mayIssue s (.dcs h) && decide ((s.dcsAt h).seqr.pc < (s.dcsAt h).seqr.len) &&
    (match fetch s (.dcs h) with
     | .ok i => (match pinSlot i with
       | some n => decide (n ≤ q % 4)
       | none => false)
     | .error _ => false)

/-- The DRAM channels' own work (11: R316 to R320; 19: R453). -/
def dueDram (s : State) : Option Due :=
  let all := List.range 16
  dueOf .mr4Poll all (pollDue s) <|>
  dueAt .refreshDue all [0, 1] (fun h x => refreshDue s h x && !(refreshAt s h x).any (pinFirst s h)) <|>
  dueAt .holdRefresh s.hs [0, 1] (fun h x => (holdRefreshDue s h x).isSome) <|>
  dueAt .idleRefresh s.hs [0, 1] (fun h x => (idleRefreshDue s h x).isSome) <|>
  dueOf .migrationPass all (fun h => (switchDue s h).isSome || (passDue s h).isSome)

/-- The records that a partition's trigger table lists, by index (02: R53). -/
def listedTriggers (s : State) (p : Nat) : List Nat :=
  ((s.bar0.filter fun e => offTrig p 0 ≤ e.1 && e.1 < offTrig p 256 && e.1 % 64 = 0).map fun e => (e.1 - offTrig p 0) / 64)

/-- Tasks: launches, pre-emption, recovery, the start of iterations and what the walker watches (02: R54, R55, R59, R61 to
R65; 16: R395, R396, R400). -/
def dueTasks (s : State) : Option Due :=
  dueOf .safepointPreempt s.ts (preemptDue s) <|>
  dueOf .contextSaveDone s.ts (saveDone s) <|>
  dueOf .contextRestoreDone s.ts (restoreDone s) <|>
  (four.findSome? fun p => dueAt .wccCompareTrigger [p] (listedTriggers s p) (wccDue s)) <|>
  dueOf .launchStart four (fun p => (launchNext s p).isSome) <|>
  dueOf .walkerRecovery s.ts (recoveryDue s) <|>
  dueOf .domainBreak s.gs (fun g => (breakDue s g).isSome) <|>
  dueOf .tsbReached s.gs (tsbDue s) <|>
  dueOf .latencyBudgetExceeded s.gs (lateIteration s)

/-- The first sequencer of a core for which a step is due. -/
def dueSeqr (i : Instr) (as : List Actor) (on : Actor → Bool) : Option Due :=
  (as.find? on).map fun a => { i := i, actor := some a }

def coreActors (s : State) : List Actor := s.gs.flatMap fun g => allSeq.map (Actor.core g)

/-- The step that starts a command of the copy engine (10: R282). -/
def ceInstr (code : Nat) : Instr :=
  match code with
  | 0 => .copy1d
  | 1 => .copynd
  | 2 => .gather
  | 3 => .scatter
  | 4 => .shape
  | 5 => .scopy
  | 6 => .batom
  | _ => .coll

/-- A command of the copy engine that starts. -/
def dueCe (s : State) : Option Due :=
  s.gs.findSome? fun g => four.findSome? fun str =>
    match ceMayStart s g str with
    | some c => if c.code < 8 then some { i := ceInstr c.code, unit := g, sub := str } else none
    | none => none

/-- Cores: traps, phases, wakes, deadlines, monitors and the starts of commands (03: R72; 16: R395; 02: R47, R68; 09: R242;
10: R282; 17: R406; 18: R444). -/
def dueCores (s : State) : Option Due :=
  dueOf .trapHandlerEntry s.gs (entryDue s) <|>
  dueOf .phaseChange s.gs (fun g => (phaseDue s g).isSome) <|>
  dueAt .vrfWakeDone s.gs (List.range 6) (wakeDone s) <|>
  dueSeqr .schedSegmentDeadline (coreActors s) (fun a => (deadlineDue s a).isSome) <|>
  dueSeqr .monitorResume (coreActors s ++ [.mgmt]) (resumeDue s) <|>
  dueAt .collMatchTimeout s.gs four (fun g x => (collLate s g x).isSome) <|>
  dueAt .meCommandStart s.gs four (meMayStart s) <|>
  dueCe s

/-- Sensors, queues, the host, links, boot and resets (12: R344; 13: R353; 19: R458 to R463; 03: R104). -/
def dueSystem (s : State) : Option Due :=
  dueOf .shutterDecide (s.sets.map (·.1)) (fun f => (decidable? s f).isSome) <|>
  dueOf .shutterCandidateDead (s.sets.map (·.1)) (fun f => (deadDue s f).isSome) <|>
  dueOf .queueBind four (bindDue s) <|>
  (four.findSome? fun p => dueAt .queueEntryRead [p] ((s.part p).slots.map (·.1)) (fun p x => (slotDue s p x).isSome)) <|>
  dueOf .queueMsix (s.cdaWait.map (·.1)) (fun q => (cdaDue s q).isSome) <|>
  dueOf .pageWalkComplete [0, 1] (fun d => (walkDone s d).isSome) <|>
  ((s.outst.find? fun o => (timedOut s o.tag).isSome).map fun o => { i := .hostCompletionTimeout o.tag }) <|>
  (([0, 1, 2].find? (trainDue s)).map fun l => { i := .linkRetrain l }) <|>
  (match s.bootAt with
   | some t => if t ≤ s.wcc then some { i := .bootReady } else none
   | none => none) <|>
  dueOf .partitionResetDone four (resetEnds s)

/-- The steps at the start of a cycle, and those that what issues in it brings about. -/
def dueEarly (s : State) : Option Due :=
  dueTime s <|> dueRing s <|> dueTasks s <|> dueHorizon s <|> dueDram s <|> dueCores s <|> dueSystem s

/-- Writes that a view applies, and awaits that sequencers have found false too long. -/
def dueMid (s : State) : Option Due :=
  (s.vwrites.findSome? fun w => ([0, 1].find? (applyDue s w)).map fun d => { i := .writeAppliedInView, unit := w.id, sub := d }) <|>
  dueOf .awaitBudgetExhausted four (fun p => (tokenedLapse s p).isSome)

/-- A substitute for a lost row that the first stage's ring now has room for (19: R454). -/
def overruns (s : State) : Option Due := dueOf .overrunSubstitute (s.ports.map (·.1)) (fun p => (overrunDue s p).isSome)

/-- The steps at the end of a cycle. Words that wait for room in cq enter it before the words of commands that complete in
the same cycle: the spec does not order the two (the model's choice, log entry 110). -/
def dueLate (s : State) : Option Due :=
  dueOf .tileoutPublish (s.lbps.map (·.1)) (fun n => (publishDue s n).isSome) <|>
  overruns s <|>
  dueOf .rowDeadline (s.ports.map (·.1)) (deadlinePassed s) <|>
  dueOf .shutterDecide (s.sets.map (·.1)) (fun f => (windowDue s f).isSome) <|>
  dueOf .cqWordEnter s.gs (wordDue s) <|>
  dueAt .meCommandComplete s.gs four (fun g x => (meDone s g x).isSome) <|>
  dueAt .ceCommandComplete s.gs four (fun g x => (ceDone s g x).isSome) <|>
  dueOf .iterationRetire s.gs (mayRetire s) <|>
  dueOf .markDrain s.gs (fun g => (markDue s g).isSome)

/-! ### Inputs -/

/-- An input from outside the device that acts on the sensors at the end of a cycle. -/
def isSensor (i : Instr) : Bool :=
  match i with
  | .frameStart _ _ | .frameEnd _ _ | .cameraRow _ _ _ _ | .lidarDatagram _ _ _ _ | .sensorLinkLoss _ | .sensorLinkReturn _ => true
  | _ => false

/-- An input from outside the device that acts at the start of a cycle; the management controller's stores to registers
are among them. -/
def isInput (i : Instr) : Bool :=
  match i with
  | .configLockRequest _ | .partitionReset _ | .hostMessage _ _ | .peerMessage _ _ _ | .peerWrite _ _ _ _ _
  | .queueNotify _ _ | .xlinvWrite _ _ | .dbgresWrite _ | .tbstepWrite _ | .timeSyncMessage _ _ | .lbpGo _ | .lbpImemWrite _ _
  | .scratchpadWindowWrite _ _ | .migctlGo _ _ | .fringRelWrite _ _ | .fpinClear _ | .registerWrite _ _ _ | .bar2Write _ _
  | .bar2Read _ _ | .hostAtomic _ _ _ _ _ | .spiRead _ _ | .hostCompletion _ _ _ | .peerLinkChange _ | .linkCrcRetry _
  | .linkRetryComplete _ _ | .linkRetrainEnd _ _ | .peerCompletion _ _ _ | .deviceReset | .powerOn | .bootGo | .attestGo
  | .hostLinkDown | .hostLinkUp => true
  | _ => false

/-- The first input that has arrived and that p names, and the inputs without it. -/
def takeInput (now : Nat) (p : Instr → Bool) : List (Nat × Instr) → Option (Instr × List (Nat × Instr))
  | [] => none
  | e :: l =>
    if e.1 ≤ now && p e.2 then some (e.2, l)
    else (takeInput now p l).map fun r => (r.1, e :: r.2)

/-! ### What is next -/

/-- The order in which the sequencers of a core issue in a cycle. -/
def issueOrder : List SeqId := [.l, .s, .c, .k]

/-- The sequencer of a checking core, the odd one of its pair, that follows its leading core in this cycle (02: R66). -/
def nextCheck (s : State) : Option Actor :=
  s.gs.findSome? fun g => if g % 2 = 0 then (trailDue s g).map fun e => .core (g + 1) e.org.q else none

/-- The next sequencer that issues in this cycle. -/
def nextSeqr (s : State) : Option Actor :=
  nextCheck s <|>
  (if mayIssue s .mgmt then some .mgmt else none) <|>
  (s.gs.findSome? fun g => (issueOrder.find? fun q => mayIssue s (.core g q)).map (Actor.core g)) <|>
  ((s.lbps.map (·.1)).findSome? fun n => if mayIssue s (.lbp n) then some (.lbp n) else none) <|>
  (s.hs.findSome? fun h => if mayIssue s (.dcs h) then some (.dcs h) else none)

/-- A core in which sequencers wait for one another, where no sequencer issues by itself any more. -/
def keptCore (s : State) : Option Nat := s.gs.find? fun g => !(keptSeqs s g).isEmpty

/-- What is next: a step that `exec` gives a meaning, in the state in which it acts; or the state after what no row of
the instruction set names. -/
inductive Next where
  | row (i : Instr) (s : State)
  | go (s : State)

/-- The nibble of words that fail a check keeps the sequencer from its issue cycle, in tokened code (02: R37; 18: R428). -/
def rejectWaits (s : State) (a : Actor) : Bool :=
  let h := hdrOf (nextWords s a).1
  !s.timedOf a && decide ((s.seqr a).qual ≠ some false) && !(tokensThere h (s.seqr a) && signalsFit s h a)

/-- A sequencer issues: the instruction that its words decode to, a trap at the end of its stream or by the checks 1 to 11 in
its issue cycle (18: R428, R429). -/
def issueNext (s : State) (a : Actor) : Next :=
  match a, checking s a with
  | .core g q, some e =>
    (match !e.move.isEmpty, decide ((s.seqr a).len ≤ (s.seqr a).pc), fetch s a with
     | true, _, _ => .go (checkMove s (g - 1) e)
     | _, false, .ok i => .row i { s with actor := .core g q }
     | _, _, _ => .go (checkLost s (g - 1) e))
  | _, _ =>
  if (s.seqr a).len ≤ (s.seqr a).pc then .go (refuse s a .bounds 5 0)
  else match fetch s a with
    | .ok i => .row i { s with actor := a }
    | .error r => .go (if rejectWaits s a then s.block a else refuse s a r.cause r.detail.toNat (rejectVal s a r))

/-- What is next in the first part of a cycle. -/
def nextEarly (s : State) : Next :=
  match takeInput s.wcc isInput s.inputs with
  | some (i, rest) => .row i { s with inputs := rest }
  | none => match dueEarly s with
    | some e => .row e.i (s.place e)
    | none => match nextSeqr s with
      | some a => issueNext s a
      | none => match keptCore s with
        | some g => .go (settleKept s g)
        | none => .go (reads s)

/-- What is next once the scheduled reads of the cycle have performed: untimed accesses take the open cycles of their
banks, one after the other. -/
def nextMid (s : State) : Next :=
  match firstClaim s with
  | some (.req r _) => .row .untimedAccessPerform { s with unit := r.id }
  | some (.ereq e secs) => .go (ereqServe s e secs)
  | some (.bar2 o secs) => .go (bar2Grant s o secs)
  | none => match dueMid s with
    | some e => .row e.i (s.place e)
    | none => .go (work s)

/-- What is next once the work of the cycle has been done. Substitutes for rows that were lost come before the rows that
arrive in the cycle (19: R454). -/
def nextLate (s : State) : Next :=
  match overruns s with
  | some e => .row e.i (s.place e)
  | none => match takeInput s.wcc isSensor s.inputs with
    | some (i, rest) => .row i { s with inputs := rest }
    | none => match dueLate s with
      | some e => .row e.i (s.place e)
      | none => .go (advanceTime s)

/-- What the device does next. -/
def next (s : State) : Next := if s.worked then nextLate s else if s.readDone then nextMid s else nextEarly s

end Sys2Proof.Machine
end

