-- ==== Sys2Proof/Machine/Fetch.lean ====
section
/-! DEFINITION. An instruction placed where the next step fetches it: how the host asks what one word does. -/

namespace Sys2Proof.Machine

/-- The first of the kinds and modes in which a word decodes. -/
def contextOf (w0 w1 : W32) : List (SeqKind × Bool) → SeqKind × Bool
  | [] => (.tile .k, false)
  | x :: l => match decode x.1 0 x.2 w0 w1 with
    | .ok _ => x
    | .error _ => contextOf w0 w1 l

/-- The first sequencer of a kind. -/
def placeOf (k : SeqKind) : Actor :=
  match k with
  | .tile q => .core 0 q
  | .lbp => .lbp 0
  | .dcs => .dcs 0
  | .mgmt => .mgmt

/-- The code of an actor with bytes at its first address. -/
def State.putCode (s : State) (a : Actor) (bs : Bytes) : State :=
  match a with
  | .lbp n => s.setLbp n { s.lbp n with imem := (s.lbp n).imem.write 0 bs }
  | .mgmt => { s with mgmtMem := s.mgmtMem.write 0 bs }
  | _ => { s with view0 := s.view0.write 0 bs, view1 := s.view1.write 0 bs }

/-- The sequencer of an actor runs a stream of 16,384 bytes from address 0, and issues its first instruction now. -/
def State.runAt (s : State) (a : Actor) (timed : Bool) : State :=
  let now := s.now a
  s.modSeqr a fun q => { q with
    run := true, pc := 0, base := 0, len := 16384, segs := [⟨0, timed, 0⟩], nextAt := now
    blocked := false, qual := none, park := none }

/-- The two words of an instruction of the opcode table, in the first kind of sequencer whose profile has it. -/
def State.withWords (s : State) (w0 w1 : W32) : State :=
  let x := contextOf w0 w1 tableContexts
  let a := placeOf x.1
  (s.putCode a (wordBytes w0 ++ wordBytes w1)).runAt a x.2

end Sys2Proof.Machine
end

