-- ==== Sys2Proof/Machine/Step.lean ====
section
/-! DEFINITION. One step of the device: one instruction of a sequencer, one event or input, or a part of a wall cycle. -/

namespace Sys2Proof.Machine

/-- One step (02: R35, R37, R38). -/
def step (s : State) : Host.Outcome State Fault Refusal :=
  match next s with
  | .row i t => exec i t
  | .go t => .next t

/-- The state with the instruction whose bits are w where the next step fetches it. -/
def State.withFetchWord (s : State) (_nbits w : Nat) : State :=
  s.withWords (BitVec.ofNat 32 w) (BitVec.ofNat 32 (w / 2 ^ 32))

end Sys2Proof.Machine
end

