-- ==== Sys2Proof/Safety.lean ====
section
/-! DEFINITION. The terms in which statements speak of the machine: an instruction that nothing keeps back and the state
after its issue, the canonical form of the tile stores, scratchpads and the management memory, inputs that name units the
device has, and a safe step. -/

namespace Sys2Proof.Machine

/-- The header of an instruction word. -/
def header (i : Instr) : Hdr := hdrOf ((encode i).headD 0)

/-- Nothing keeps instruction i with header h from issuing in state s (02: R35, R37; 07: R176, R188): its sequencer may
issue in this cycle and no QUAL suppresses it; in timed code the tokens of its nibble are there, and in tokened code so are
the registers that it reads. -/
def Unhindered (h : Hdr) (i : Instr) (s : State) : Prop :=
  s.canIssue s.actor = true ∧ (s.seqr s.actor).qual ≠ some false ∧
    (if s.timedOf s.actor then tokenSched s h s.actor = none
     else tokensThere h (s.seqr s.actor) = true ∧ signalsFit s h s.actor = true ∧ regsReady s s.actor i = true)

/-- The state in which the waits of the instruction's nibble have acted (02: R33). -/
def waited (h : Hdr) (s : State) : State := consume h s.actor s

/-- The state after the issue of instruction i in s, where its own effect leaves t and its stream goes on at f: its signals,
and the place and the cycle of the next instruction (02: R33, R35; 07: R186 to R188). -/
def issued (h : Hdr) (i : Instr) (f : Flow) (s t : State) : State :=
  unblock (advance h i s.actor f (signal h s.actor (s.origin s.actor i) (s.seqr s.actor).lastAcc t)) s.actor

/-- A core without what issuing an instruction touches: its sequencers, the results on their way, and what its checking
core is to follow. -/
def engines (x : Core) : Core := { x with k := {}, l := {}, c := {}, s := {}, pend := [], trail := [] }

/-- What is not in a sequencer, nor on its way to one. -/
def outside (s : State) : State :=
  { s with cores := [], lbps := [], dcs := [], mgmt := {}, mgmtPend := [], effNo := 0 }

/-- From s to t nothing has changed but the place, the timing, the loops and the tokens of the sequencer that issues, and
results on their way: every scalar register, CSR and byte of spill memory, every engine, queue and directory of the tile
cores, every byte of memory in either view, and the rest of the device are as before. -/
structure Keeps (s t : State) : Prop where
  regs : ∀ a c, readS (t.seqr a) c = readS (s.seqr a) c
  csrs : ∀ a n, getCsr (t.seqr a) n = getCsr (s.seqr a) n
  spill : ∀ a, (t.seqr a).spill = (s.seqr a).spill
  others : ∀ a, a ≠ s.actor → ({ t.seqr a with blocked := false, turn := .free } : Seqr) = { s.seqr a with blocked := false, turn := .free }
  cores : ∀ g, engines (t.core g) = engines (s.core g)
  lbps : ∀ n, ({ t.lbp n with seqr := {}, pend := [] } : Lbp) = { s.lbp n with seqr := {}, pend := [] }
  dcs : ∀ h, ({ t.dcsAt h with seqr := {} } : Dcs) = { s.dcsAt h with seqr := {} }
  bytes : ∀ d a n, t.readView d a n = s.readView d a n
  rest : outside t = outside s

/-- The tile stores and scratchpads in both dies' views, and the memory of the management controller, stand in their
canonical form. -/
def MemoryWf (s : State) : Prop := s.view0.wf = true ∧ s.view1.wf = true ∧ s.mgmtMem.wf = true

/-- An input names a unit, an offset and a length that the device has. -/
def namesUnit (i : Instr) : Bool :=
  match i with
  | .hostMessage p _ | .xlinvWrite p _ => decide (p < 4)
  | .lbpGo n => decide (n < Config.lbps)
  | .lbpImemWrite off _ => decide (off % 8 = 0 ∧ off < 16384)
  | .scratchpadWindowWrite off _ => decide (off % 8 = 0 ∧ off < 0x80000)
  | .migctlGo ch _ => decide (ch < Config.channels)
  | .fringRelWrite x _ => decide (x < 5)
  | .bar2Write off data => bar2Fits off data.length
  | .bar2Read off len => barFits off len || bar2Fits off len
  | .hostAtomic off _ w _ _ => bar2Fits off (if w = 3 then 8 else 4)
  | .linkCrcRetry l | .linkRetryComplete l _ | .linkRetrainEnd l _ => decide (l < 3)
  | .frameStart p _ | .frameEnd p _ | .cameraRow p _ _ _ => decide (p < 16)
  | .lidarDatagram p _ _ _ => decide (16 ≤ p ∧ p < 20)
  | .sensorLinkLoss p | .sensorLinkReturn p => decide (p < 20)
  | _ => true

/-- Every input on its way names a unit that the device has. -/
def InputsOk (s : State) : Prop := ∀ e ∈ s.inputs, namesUnit e.2 = true

/-- A step that completes. -/
def Steps (s : State) : Prop := ∃ t, step s = .next t

end Sys2Proof.Machine
end

