-- ==== Sys2Proof/Certificates/Slice0/Obligations.lean ====
section
/-! DEFINITION. What is claimed of the machine, from the numbered rules of the spec. -/

open Sys2Proof Sys2Proof.Machine

namespace Sys2Proof.Claims

/-- The results of the scalar unit (07: R176, R178 to R181): destination, latency, value. -/
def scalar (i : Instr) (s : State) : Option (Hdr × Code × Nat × DWord) :=
  let x (c : Code) : DWord := s.rd c
  match i with
  | .add h o => some (h, o.d, 1, x o.a + x o.b)
  | .sub h o => some (h, o.d, 1, x o.a - x o.b)
  | .and h o => some (h, o.d, 1, x o.a &&& x o.b)
  | .or h o => some (h, o.d, 1, x o.a ||| x o.b)
  | .xor h o => some (h, o.d, 1, x o.a ^^^ x o.b)
  | .shl h o => some (h, o.d, 1, x o.a <<< ((x o.b).toNat % 64))
  | .shr h o => some (h, o.d, 1, x o.a >>> ((x o.b).toNat % 64))
  | .sra h o => some (h, o.d, 1, (x o.a).sshiftRight ((x o.b).toNat % 64))
  | .addi h d imm => some (h, d, 1, x d + imm.signExtend 64)
  | .andi h d imm => some (h, d, 1, x d &&& imm.setWidth 64)
  | .ori h d imm => some (h, d, 1, x d ||| imm.setWidth 64)
  | .xori h d imm => some (h, d, 1, x d ^^^ imm.setWidth 64)
  | .shli h d n => some (h, d, 1, x d <<< n.toNat)
  | .shri h d n => some (h, d, 1, x d >>> n.toNat)
  | .srai h d n => some (h, d, 1, (x d).sshiftRight n.toNat)
  | .lim h d imm => some (h, d, 1, imm.signExtend 64)
  | .limX h d imm e => some (h, d, 1, (e ++ imm).signExtend 64)
  | .lih h d imm e => some (h, d, 1, (e ++ imm) ++ (x d).extractLsb' 0 40)
  | .mov h d a => some (h, d, 1, x a)
  | .mul h o => some (h, o.d, 3, x o.a * x o.b)
  | .mulh h o => some (h, o.d, 3, (((x o.a).signExtend 128 * (x o.b).signExtend 128) >>> 64).setWidth 64)
  | .mulhu h o => some (h, o.d, 3, (((x o.a).setWidth 128 * (x o.b).setWidth 128) >>> 64).setWidth 64)
  | .div h o => some (h, o.d, 20,
      if x o.b = 0 then BitVec.allOnes 64
      else if (x o.a).toInt = -2 ^ 63 ∧ (x o.b).toInt = -1 then x o.a
      else BitVec.ofInt 64 ((x o.a).toInt.tdiv (x o.b).toInt))
  | .divu h o => some (h, o.d, 20, if x o.b = 0 then BitVec.allOnes 64 else x o.a / x o.b)
  | .rem h o => some (h, o.d, 20,
      if x o.b = 0 then x o.a
      else if (x o.a).toInt = -2 ^ 63 ∧ (x o.b).toInt = -1 then 0
      else BitVec.ofInt 64 ((x o.a).toInt.tmod (x o.b).toInt))
  | .remu h o => some (h, o.d, 20, if x o.b = 0 then x o.a else x o.a % x o.b)
  | .min h o => some (h, o.d, 1, if (x o.a).toInt ≤ (x o.b).toInt then x o.a else x o.b)
  | .max h o => some (h, o.d, 1, if (x o.b).toInt ≤ (x o.a).toInt then x o.a else x o.b)
  | .minu h o => some (h, o.d, 1, if x o.a ≤ x o.b then x o.a else x o.b)
  | .maxu h o => some (h, o.d, 1, if x o.b ≤ x o.a then x o.a else x o.b)
  | .clz h d a => some (h, d, 1, BitVec.ofNat 64 (((List.range 64).find? fun k => (x a).getLsbD (63 - k)).getD 64))
  | .ctz h d a => some (h, d, 1, BitVec.ofNat 64 (((List.range 64).find? fun k => (x a).getLsbD k).getD 64))
  | .popc h d a => some (h, d, 1, BitVec.ofNat 64 ((List.range 64).countP fun k => (x a).getLsbD k))
  | .bext h d a p w => some (h, d, 1, (x a >>> p.toNat) &&& BitVec.ofNat 64 (2 ^ (w.toNat + 1) - 1))
  | .bins h o p w =>
    let m : DWord := BitVec.ofNat 64 (2 ^ (w.toNat + 1) - 1) <<< p.toNat
    some (h, o.d, 1, (x o.a &&& ~~~m) ||| ((x o.b <<< p.toNat) &&& m))
  | .seq h o => some (h, o.d, 1, if x o.a = x o.b then 1 else 0)
  | .sne h o => some (h, o.d, 1, if x o.a = x o.b then 0 else 1)
  | .slt h o => some (h, o.d, 1, if (x o.a).slt (x o.b) then 1 else 0)
  | .sltu h o => some (h, o.d, 1, if (x o.a).ult (x o.b) then 1 else 0)
  | .sel h o c => some (h, o.d, 1, if x c = 0 then x o.b else x o.a)
  | .spld h d idx =>
    if sget false s.me.spillEcc idx.toNat then none
    else some (h, d, 1, BitVec.ofNat 64 (leNat (s.me.spill.read (8 * idx.toNat) 8)))
  | _ => none

end Sys2Proof.Claims

/-- Every instruction of the scalar unit that nothing keeps back issues, and its one effect is a result of its latency with
the value of its entry; SPLD of a doubleword that is uncorrectable issues and traps, and gives no result (07: R176, R178 to
R181, R191; 18: R434).
Completion of: add, sub, and, or, xor, shl, shr, sra, addi, andi, ori, xori, shli, shri, srai, lim, limX, lih, mov,
mul, mulh, mulhu, div, divu, rem, remu, min, max, minu, maxu, clz, ctz, popc, bext, bins, seq, sne, slt, sltu, sel,
spld. -/
def Obligations.ScalarResults : Prop :=
  (∀ (i : Instr) (s : State) (h : Hdr) (d : Code) (lat : Nat) (v : DWord),
    Claims.scalar i s = some (h, d, lat, v) → Unhindered h i s →
    exec i s = .next (issued h i .seq s ((waited h s).result i d lat v))) ∧
  ∀ (h : Hdr) (d : Code) (idx : B10) (s : State), Unhindered h (.spld h d idx) s → sget false s.me.spillEcc idx.toNat = true →
    exec (.spld h d idx) s = .next (issued h (.spld h d idx) .seq s
      (raise (waited h s) s.actor .eccUncorr 0 (BitVec.ofNat 64 (8 * idx.toNat)) s.me.pc (s.timedOf s.actor)))


namespace Sys2Proof.Claims

/-- Branches and jumps by offset (07: R182 to R184): the offset in words, whether it is taken. -/
def branch (i : Instr) (s : State) : Option (Hdr × Int × Bool) :=
  match i with
  | .br h off => some (h, off.toInt, true)
  | .bz h d off => some (h, off.toInt, decide (s.rd d = 0))
  | .bnz h d off => some (h, off.toInt, decide (s.rd d ≠ 0))
  | .blt h a b off => some (h, off.toInt, (s.rd a).slt (s.rd b))
  | .bge h a b off => some (h, off.toInt, !(s.rd a).slt (s.rd b))
  | .bltu h a b off => some (h, off.toInt, (s.rd a).ult (s.rd b))
  | .bgeu h a b off => some (h, off.toInt, !(s.rd a).ult (s.rd b))
  | _ => none

/-- A byte offset lies in the stream of the sequencer that issues. -/
def inStream (s : State) (t : Int) : Prop := 0 ≤ t ∧ t < s.me.len

/-- No active loop level of q ends in the n bytes at its pc. -/
def noLevelEnds (q : Seqr) (n : Nat) : Prop :=
  ∀ l < 6, (sget {} q.loops l).act = true → (sget {} q.loops l).fin < q.pc ∨ q.pc + n ≤ (sget {} q.loops l).fin

/-- Level l of q is active and ends in the n bytes at its pc, and no other active level does. -/
def onlyLevelEnds (q : Seqr) (n l : Nat) : Prop :=
  l < 6 ∧ (sget {} q.loops l).act = true ∧ q.pc ≤ (sget {} q.loops l).fin ∧ (sget {} q.loops l).fin < q.pc + n ∧
    ∀ m < 6, m ≠ l → (sget {} q.loops m).act = true → (sget {} q.loops m).fin < q.pc ∨ q.pc + n ≤ (sget {} q.loops m).fin

/-- Where flow f leads from the instruction of n bytes at pc, while no loop ends. -/
def place (pc n : Nat) (f : Flow) : Option Nat :=
  match f with
  | .seq | .idle _ | .qual _ => some (pc + n)
  | .branch t | .jump t => some t.toNat
  | .goto t => some t
  | _ => none

/-- The cycles that flow f adds before the next instruction. -/
def extra (f : Flow) : Nat :=
  match f with
  | .idle n => n
  | _ => 0

end Sys2Proof.Claims

/-- An instruction of the scalar unit changes nothing in its issue cycle but the sequencer that issues it: its result is
on its way (07: R175, R176). Where it is refused a trap is taken (16: R395). -/
def Sys2Proof.Claims.ScalarFrame : Prop :=
  ∀ (i : Instr) (s t : State) (r : Hdr × Code × Nat × DWord), Claims.scalar i s = some r → s.canIssue s.actor = true →
    exec i s = .next t → Keeps s t ∨ ∃ d, t = refuse s s.actor .sched d (word0Val i)

/-- In the cycle in which a result lands, its register takes the value, but for code 39, which discards it and reads 0; no
other register of the unit's sequencers changes (07: R175, R176). -/
def Sys2Proof.Claims.ResultLands : Prop :=
  ∀ (s : State) (a : Actor) (q : SeqId) (d : Code) (v : DWord),
    let t := landResult s a (.reg q d v)
    (d ≠ 39 → readS (t.seqr (unitSeq a q)) d = v) ∧ readS (t.seqr (unitSeq a q)) 39 = 0 ∧
      (∀ c, c ≠ d → readS (t.seqr (unitSeq a q)) c = readS (s.seqr (unitSeq a q)) c) ∧
      ∀ b, b ≠ unitSeq a q → t.seqr b = s.seqr b

/-- The scalar unit changes nothing in the issue cycle but its sequencer, and where a result lands its register alone
changes (07: R175, R176). -/
def Obligations.ScalarChanges : Prop := Sys2Proof.Claims.ScalarFrame ∧ Sys2Proof.Claims.ResultLands

/-- A branch goes to PC + 4 offset when its condition holds and the target lies in the stream, and on to the next word
when it does not hold; a taken target outside the stream traps with BOUNDS, 4 (07: R182; 06: R154; 18: R429). -/
def Sys2Proof.Claims.Branches : Prop :=
  ∀ (i : Instr) (s : State) (h : Hdr) (off : Int) (taken : Bool), Claims.branch i s = some (h, off, taken) →
    Unhindered h i s →
    let t : Int := (s.me.pc : Int) + 4 * off
    (taken = false → exec i s = .next (issued h i .seq s (waited h s))) ∧
    (taken = true → Claims.inStream s t → exec i s = .next (issued h i (.branch t) s (waited h s))) ∧
    (taken = true → ¬ Claims.inStream s t → exec i s = .next (refuse s s.actor .bounds 4 (BitVec.ofInt 64 t)))

/-- BQS looks at the head of the queue and pops nothing: P is taken on a head whose poison word is nonzero, NP on one whose
poison word is 0, E when there is no entry and NE when there is one; a taken target outside the stream traps with BOUNDS, 4
(07: R183; 18: R434). -/
def Sys2Proof.Claims.QueueBranch : Prop :=
  ∀ (h : Hdr) (q : Code) (cnd : B2) (off : B28) (s : State) (g : Nat) (n : SeqId), s.actor = .core g n →
    Unhindered h (.bqs h q cnd off) s →
    let t : Int := (s.me.pc : Int) + 4 * off.toInt
    let taken : Bool := match cnd.toNat with
      | 0 => queueHead s g q = some true
      | 1 => queueHead s g q = some false
      | 2 => (queueHead s g q).isNone
      | _ => (queueHead s g q).isSome
    (taken = true → Claims.inStream s t → exec (.bqs h q cnd off) s = .next (issued h (.bqs h q cnd off) (.branch t) s (waited h s))) ∧
    (taken = true → ¬ Claims.inStream s t → exec (.bqs h q cnd off) s = .next (refuse s s.actor .bounds 4 (BitVec.ofInt 64 t))) ∧
    (taken = false → exec (.bqs h q cnd off) s = .next (issued h (.bqs h q cnd off) .seq s (waited h s)))

/-- JAL sets LR to PC + 4, one cycle later, and jumps to PC + 4 offset; JR jumps to the byte offset in the low 32 bits of
its register, and traps with BOUNDS, 2 where that is not a multiple of 4. Either traps with BOUNDS, 4 where its target lies
outside the stream, and JAL then sets no LR (07: R184; 18: R434). -/
def Sys2Proof.Claims.Jumps : Prop :=
  (∀ (h : Hdr) (off : B18) (s : State), Unhindered h (.jal h off) s →
    let t : Int := (s.me.pc : Int) + 4 * off.toInt
    (Claims.inStream s t → exec (.jal h off) s = .next (issued h (.jal h off) (.jump t) s
      ((waited h s).result (.jal h off) 38 1 (BitVec.ofNat 64 (s.me.pc + 4))))) ∧
    (¬ Claims.inStream s t → exec (.jal h off) s = .next (refuse s s.actor .bounds 4 (BitVec.ofInt 64 t)))) ∧
  ∀ (h : Hdr) (a : Code) (s : State), Unhindered h (.jr h a) s →
    let t := (s.rd a).toNat % 2 ^ 32
    (t % 4 = 0 → t < s.me.len → exec (.jr h a) s = .next (issued h (.jr h a) (.jump t) s (waited h s))) ∧
    (t % 4 = 0 → s.me.len ≤ t → exec (.jr h a) s = .next (refuse s s.actor .bounds 4 (BitVec.ofNat 64 t))) ∧
    (t % 4 ≠ 0 → exec (.jr h a) s = .next (refuse s s.actor .bounds 2 (BitVec.ofNat 64 t)))

/-- Branches take their condition from the signed or unsigned order or from zero, BQS from the head of its queue, and jumps set
their link; a target outside the stream traps (07: R182 to R184; 18: R434).
Completion of: br, bz, bnz, blt, bge, bltu, bgeu, bqs, jal, jr. -/
def Obligations.BranchesAndJumps : Prop := Sys2Proof.Claims.Branches ∧ Sys2Proof.Claims.QueueBranch ∧ Sys2Proof.Claims.Jumps

namespace Sys2Proof.Claims

/-- Instructions whose own effect is on their stream alone (07: R188, R190, R198; 11: R310): where the stream goes on. -/
def streamOnly (i : Instr) (s : State) : Option (Hdr × Flow) :=
  match i with
  | .nop h => some (h, .seq)
  | .idle h n | .didle h n => some (h, .idle n.toNat)
  | .qualF h lev => some (h, .qual (!(s.level lev).act || decide ((s.level lev).trip = 0)))
  | .qualL h lev => some (h, .qual (!(s.level lev).act || decide ((s.level lev).trip + 1 = (s.level lev).n)))
  | .trap h code => some (h, .trap code.toNat)
  | _ => none

end Sys2Proof.Claims

/-- NOP, IDLE, DIDLE, QUAL.F, QUAL.L and TRAP that nothing keeps back issue, and their one effect is on their stream: its next
place, the cycles that IDLE and DIDLE add, the condition of the qualified instruction, the trap (07: R188, R190, R198; 11:
R310). -/
def Sys2Proof.Claims.StreamOnly : Prop :=
  ∀ (i : Instr) (h : Hdr) (f : Flow) (s : State), Claims.streamOnly i s = some (h, f) → Unhindered h i s →
    exec i s = .next (issued h i f s (waited h s))

/-- When a stride lands, its register has grown by it, and no other has changed (07: R187). -/
def Sys2Proof.Claims.StrideLands : Prop :=
  ∀ (s : State) (a : Actor) (q : SeqId) (r : BitVec 5) (v : DWord),
    let t := landStride s a (.regAdd q r v)
    let c : Code := r.setWidth 6
    readS (t.seqr (unitSeq a q)) c = readS (s.seqr (unitSeq a q)) c + v ∧
      (∀ d, d ≠ c → readS (t.seqr (unitSeq a q)) d = readS (s.seqr (unitSeq a q)) d) ∧ ∀ b, b ≠ unitSeq a q → t.seqr b = s.seqr b

/-- The next instruction: where no loop level ends, it is at the place that the flow gives, and issues no earlier than 1 +
PAD cycles after this one, and the idle count of IDLE; where one level ends and has trips left, it is the first of the body
and TRIP advances; on its last trip it is the word after END, and the level is inactive; at either end of a trip each pair's
stride is on its way to its register, to land at the end of the cycle. When a stride lands its register has grown by it, and
no other has changed. The instructions whose one effect is on their stream issue and put it where they say (07: R182, R186
to R188, R190, R198; 02: R35, R37; 11: R310).
Completion of: nop, idle, qualF, qualL, didle, trap. -/
def Obligations.NextPlace : Prop :=
  Sys2Proof.Claims.StreamOnly ∧ Sys2Proof.Claims.StrideLands ∧ ∀ (h : Hdr) (i : Instr) (f : Flow) (s t : State) (here : Nat),
    Claims.place (t.seqr s.actor).pc (lenOf i) f = some here →
    let q := t.seqr s.actor
    let u := issued h i f s t
    let q' := u.seqr s.actor
    (Claims.noLevelEnds q (lenOf i) → q'.pc = here ∧
      (bundles t s.actor i here = false → segAt q.segs here = segAt q.segs q.pc →
        q'.nextAt = t.now s.actor + 1 + h.pad.toNat + Claims.extra f)) ∧
    (∀ l, Claims.onlyLevelEnds q (lenOf i) l → (sget {} q.loops l).trip + 1 < (sget {} q.loops l).n →
      q'.pc = (sget {} q.loops l).start ∧ (sget {} q'.loops l).trip = (sget {} q.loops l).trip + 1) ∧
    (∀ l, Claims.onlyLevelEnds q (lenOf i) l → (∀ x, s.actor ≠ .dcs x) → ∀ p ∈ (sget {} q.loops l).pairs,
      ∃ e ∈ u.pendOf s.actor, e.due = t.now s.actor ∧ e.eff = .regAdd (seqOf s.actor) p.1 (p.2.signExtend 64)) ∧
    (∀ l, Claims.onlyLevelEnds q (lenOf i) l → ¬ (sget {} q.loops l).trip + 1 < (sget {} q.loops l).n →
      q'.pc = (sget {} q.loops l).fin + 4 ∧ (sget {} q'.loops l).act = false)

/-- LOOP with a count activates its level with the count, trip 0, the body after it and its pairs; with count 0 the body is
skipped; on an active level it traps (07: R186; 18: R434). -/
def Sys2Proof.Claims.LoopStarts : Prop :=
  ∀ (h : Hdr) (lev nstr : B3) (cnt : Code) (sb : B6) (blen : B16) (s : State),
    let i : Instr := .loop h lev nstr cnt sb blen
    let x : LoopLev := {
      act := true, n := (s.rd cnt).toNat, start := s.me.pc + 8, fin := s.me.pc + 8 + 4 * (blen.toNat - 1)
      pairs := (List.range nstr.toNat).map fun j =>
        ((s.rd (sb + BitVec.ofNat 6 j)).setWidth 5, (s.rd (sb + BitVec.ofNat 6 j) >>> 8).setWidth 56) }
    Unhindered h i s →
    ((s.level lev).act = false → s.rd cnt = 0 →
      exec i s = .next (issued h i (.goto (s.me.pc + 8 + 4 * blen.toNat)) s (waited h s))) ∧
    ((s.level lev).act = false → s.rd cnt ≠ 0 →
      exec i s = .next (issued h i .seq s (activate (waited h s) lev x)) ∧
      ∃ o, (activate (waited h s) lev x).level lev = { x with ord := o }) ∧
    ((s.level lev).act = true → exec i s = .next (refuse s s.actor .illegalOperand 0x0608 (word0Val i)))

/-- LBRK ends its level and every level activated after it, and the stream goes on after the body; .C discards the level's
commands that have not started, those issued in its present activation (the model's choice, log entry 91), .D discards none;
on an inactive level it traps (07: R189; 18: R434). -/
def Sys2Proof.Claims.LoopBreaks : Prop :=
  ∀ (i : Instr) (h : Hdr) (lev : B3) (s : State), i = .lbrkC h lev ∨ i = .lbrkD h lev → Unhindered h i s →
    ((s.level lev).act = true → ∃ t, exec i s = .next (issued h i (.goto ((s.level lev).fin + 4)) s t) ∧
      (∀ l < 6, (sget {} s.me.loops l).act = true → (s.level lev).ord ≤ (sget {} s.me.loops l).ord →
        (sget {} (t.seqr s.actor).loops l).act = false) ∧
      (∀ g n, s.actor = .core g n → i = .lbrkC h lev →
        (t.core g).mcmds = (cancelAll (s.core g) (s.now s.actor) fun levs => levs.contains (s.level lev).ord).mcmds ∧
        (t.core g).ccmds = (cancelAll (s.core g) (s.now s.actor) fun levs => levs.contains (s.level lev).ord).ccmds) ∧
      (i = .lbrkD h lev → ∀ j, engines (t.core j) = engines (s.core j))) ∧
    ((s.level lev).act = false → exec i s = .next (refuse s s.actor .illegalOperand 0x0608 (word0Val i)))

/-- The loop engine's instructions: LOOP activates its level or skips its body, LBRK ends its level and those within;
which pending commands LBRK.C discards is the model's choice (log entry 91) (07: R186, R189; 18: R434).
Completion of: loop, lbrkC, lbrkD. -/
def Obligations.Loops : Prop := Sys2Proof.Claims.LoopStarts ∧ Sys2Proof.Claims.LoopBreaks

namespace Sys2Proof.Claims

/-- What a suppressed instruction leaves for the next one: a suppressed QUAL suppresses it (07: R188). -/
def qualAfter (i : Instr) : Option Bool :=
  match i with
  | .qualF _ _ | .qualL _ _ => some false
  | _ => none

end Sys2Proof.Claims

/-- QUAL.F lets the next instruction be executed on the first trip of its level, QUAL.L on the last, and both at an inactive
level; an instruction that a QUAL suppresses issues and has no effect: the QUAL is used up, but for a QUAL, which suppresses
the next one in turn; the sequencer is at the word after it where no loop ends, no earlier than 1 + PAD cycles later; and
nothing else changes but the strides of a loop that ends there (07: R188).
Completion of: qualF, qualL. -/
def Obligations.Qualified : Prop :=
  (∀ (h : Hdr) (lev : B3) (s : State), Unhindered h (.qualF h lev) s →
    exec (.qualF h lev) s = .next (issued h (.qualF h lev)
      (.qual (!(s.level lev).act || decide ((s.level lev).trip = 0))) s (waited h s))) ∧
  (∀ (h : Hdr) (lev : B3) (s : State), Unhindered h (.qualL h lev) s →
    exec (.qualL h lev) s = .next (issued h (.qualL h lev)
      (.qual (!(s.level lev).act || decide ((s.level lev).trip + 1 = (s.level lev).n))) s (waited h s))) ∧
  ∀ (i : Instr) (s : State), i.isWord = true → s.canIssue s.actor = true → (s.seqr s.actor).qual = some false →
    ∃ t, exec i s = .next t ∧ Keeps s t ∧
      (t.seqr s.actor).tokP = (s.seqr s.actor).tokP ∧ (t.seqr s.actor).tokN = (s.seqr s.actor).tokN ∧
      (t.seqr s.actor).qual = Claims.qualAfter i ∧
      (Claims.noLevelEnds s.me (lenOf i) → (t.seqr s.actor).pc = s.me.pc + lenOf i) ∧
      ((∀ x, s.actor ≠ .dcs x) → s.now s.actor + 1 + (header i).pad.toNat ≤ (t.seqr s.actor).nextAt)

/-- NOP does nothing. IDLE carries its idle count and does nothing else: the next instruction issues no earlier than
1 + PAD cycles later, and the idle count, in both modes, at the next word where no loop ends. IDLE 0 leaves every sequencer
as NOP does (07: R190).
Completion of: nop, idle. -/
def Obligations.NopIdle : Prop :=
  (∀ (h : Hdr) (s : State), Unhindered h (.nop h) s → exec (.nop h) s = .next (issued h (.nop h) .seq s (waited h s))) ∧
  (∀ (h : Hdr) (n : B18) (s : State), Unhindered h (.idle h n) s →
    exec (.idle h n) s = .next (issued h (.idle h n) (.idle n.toNat) s (waited h s))) ∧
  (∀ (i : Instr) (h : Hdr) (n : Nat) (s : State), (i = .nop h ∧ n = 0) ∨ (∃ k : B18, i = .idle h k ∧ n = k.toNat) →
    Unhindered h i s → ∃ t, exec i s = .next t ∧ Keeps s t ∧
      s.now s.actor + 1 + h.pad.toNat + n ≤ (t.seqr s.actor).nextAt ∧
      (Claims.noLevelEnds s.me 4 → (t.seqr s.actor).pc = s.me.pc + 4)) ∧
  ∀ (h : Hdr) (s : State), Unhindered h (.nop h) s → ∃ t u, exec (.idle h 0) s = .next t ∧ exec (.nop h) s = .next u ∧
    ∀ a, t.seqr a = u.seqr a

/-- DSYNC, DBG, BBMARK, ERET and SAFEPT that nothing keeps back issue: DSYNC with its number in DCSSTAT.SYNC; DBG in every
mode; BBMARK of a tile core; ERET while the handler runs; SAFEPT in timed code whose boundary lies at least 33 cycles ahead,
and in tokened code of a task without streams once engines, queues and results are done (11: R310; 07: R197 to R200; 02:
R61, R62). -/
def Sys2Proof.Claims.ControlIssues : Prop :=
  (∀ (h : Hdr) (n : B8) (s : State) (ch : Nat), s.actor = .dcs ch → Unhindered h (.dsync h n) s →
    exec (.dsync h n) s = .next (issued h (.dsync h n) .seq s ((waited h s).setField (offDcs ch 0x030) 7 0 n.toNat))) ∧
  (∀ (h : Hdr) (code : B15) (s : State), Unhindered h (.dbg h code) s →
    ∃ t, exec (.dbg h code) s = .next (issued h (.dbg h code) .seq s t) ∧ t.view0 = s.view0 ∧ t.view1 = s.view1) ∧
  (∀ (h : Hdr) (a : Code) (code : B12) (s : State) (g : Nat) (q : SeqId), s.actor = .core g q → Unhindered h (.bbmark h a code) s →
    ∃ t, exec (.bbmark h a code) s = .next (issued h (.bbmark h a code) .seq s t) ∧
      (t.core g).marks = (insertMark ⟨q, code, s.rd a, s.now s.actor, s.wcc⟩ (s.core g).marks).take 16) ∧
  (∀ (h : Hdr) (s : State) (g : Nat) (q : SeqId), s.actor = .core g q → Unhindered h (.eret h) s →
    (s.core g).trap.inHandler = true → ∃ t, exec (.eret h) s = .next (issued h (.eret h) .stay s t) ∧
      t.view0 = s.view0 ∧ t.view1 = s.view1) ∧
  ∀ (h : Hdr) (bnd : B16) (s : State) (g : Nat) (q : SeqId), s.actor = .core g q → Unhindered h (.safept h bnd) s →
    let w := waited h s
    (s.timedOf s.actor = true ∧ s.now s.actor + 33 ≤ (s.core g).tsb + 256 * bnd.toNat) ∨
      (s.timedOf s.actor = false ∧ (s.task ((s.core g).task.getD 0)).slen = 0 ∧ enginesIdle (w.core g) (w.now s.actor) = true ∧
        queuesEmpty (w.core g) = true ∧ resultsPending w g = false) →
    ∃ t, exec (.safept h bnd) s = .next (issued h (.safept h bnd) .seq s t) ∧ t.view0 = s.view0 ∧ t.view1 = s.view1

/-- SPST stores its register in the eight bytes of its sequencer's spill memory at 8 idx; HALT ends the stream; DSYNC, DBG,
BBMARK, ERET and SAFEPT issue (07: R191, R196 to R200; 11: R310; 02: R61, R62).
Completion of: spst, halt, dsync, dbg, bbmark, eret, safept. -/
def Obligations.SpillAndHalt : Prop :=
  Sys2Proof.Claims.ControlIssues ∧
  (∀ (h : Hdr) (d : Code) (idx : B10) (s : State), Unhindered h (.spst h d idx) s →
    ∃ t, exec (.spst h d idx) s = .next (issued h (.spst h d idx) .seq s t) ∧
      ∀ k, t.me.spill.byte k = if 8 * idx.toNat ≤ k ∧ k < 8 * idx.toNat + 8
        then ((s.rd d) >>> (8 * (k - 8 * idx.toNat))).setWidth 8 else s.me.spill.byte k) ∧
  ∀ (h : Hdr) (s : State), Unhindered h (.halt h) s →
    ∃ t, exec (.halt h) s = .next t ∧ (t.seqr s.actor).run = false

namespace Sys2Proof.Claims

/-- Instructions whose own effect neither traps nor waits, whatever their operands: those of the scalar unit and those whose one
effect is on their stream. -/
def goesOn (i : Instr) (s : State) : Prop := (scalar i s).isSome = true ∨ (streamOnly i s).isSome = true

end Sys2Proof.Claims

/-- Tokens: where a token that the nibble waits for is missing, a tokened instruction does not issue in this cycle and
changes nothing; in timed code an instruction whose own effect goes on traps with SCHED, with DETAIL 1 where the token from
the predecessor is missing and else with 2, and any other one is refused or issues in no way; and where a queue that such an
instruction signals holds 15 tokens, and no owner of such a queue may still wait in this cycle, it traps with SCHED, 3 (02: R33,
R37; 17: R406). -/
def Obligations.TokensGateIssue : Prop :=
  (∀ (i : Instr) (s : State), i.isWord = true → s.canIssue s.actor = true → (s.seqr s.actor).qual ≠ some false →
    tokensThere (header i) (s.seqr s.actor) = false →
    (s.timedOf s.actor = false → exec i s = .next (s.block s.actor)) ∧
    (s.timedOf s.actor = true → Claims.goesOn i s → exec i s = .next (refuse s s.actor .sched
      (if (header i).wp = true ∧ s.me.tokP = [] then 1 else 2) (word0Val i))) ∧
    (s.timedOf s.actor = true → ∀ t, exec i s = .next t → (∃ c d v, t = refuse s s.actor c d v) ∨
      (∃ u, t = State.block u s.actor) ∨ t = s.keep s.actor none)) ∧
  ∀ (i : Instr) (s : State) (g : Nat) (q : SeqId), s.actor = .core g q → s.canIssue s.actor = true →
    s.me.qual ≠ some false → s.timedOf s.actor = true → s.me.turn ≠ .granted → Claims.goesOn i s →
    tokensThere (header i) s.me = true →
    ((header i).sp = true ∧ 15 ≤ ((s.core g).seqr (predOf q)).tokN.length ∧ mayStill s (.core g (predOf q)) = false ∨
      (header i).sn = true ∧ 15 ≤ ((s.core g).seqr (succOf q)).tokP.length ∧ mayStill s (.core g (succOf q)) = false) →
    exec i s = .next (refuse s s.actor .sched 3 (word0Val i))


namespace Sys2Proof.Claims

/-- The fields of a CSR that software writes (07: R194; 03: R71, R75; 08: R202; 16: R394), as bit positions. -/
def csrRw (n k : Nat) : Bool :=
  match n with
  | 0x008 | 0x009 | 0x024 | 0x044 => decide (k < 64)       -- DRAW0, DRAW1, MONCNT, TRAPVAL
  | 0x00A => decide (k < 8)                                 -- FTV
  | 0x020 => decide (k < 14)                                -- VL
  | 0x022 => decide (k < 9)                                 -- QMAP
  | 0x025 | 0x041 | 0x043 => decide (k < 32)                -- BBLOST, KEPC, TRAPPC
  | 0x040 => decide (2 ≤ k ∧ k < 32)                        -- TVEC
  | 0x042 => decide (62 ≤ k ∧ k < 64)                       -- TRAPCAUSE.ACT
  | 0x048 => decide (k = 0)                                 -- DBGCTL.EN
  | _ => false

/-- The values that the CSR instructions write (07: R193). -/
def csrWrite (i : Instr) (s : State) : Option (Hdr × Nat × DWord) :=
  match i with
  | .csrw h d num => some (h, num.toNat, s.rd d)
  | .csrs h d num => some (h, num.toNat, csrValue s s.actor num.toNat ||| s.rd d)
  | .csrc h d num => some (h, num.toNat, csrValue s s.actor num.toNat &&& ~~~s.rd d)
  | _ => none

/-- What a trap leaves in TRAPCAUSE (16: R394): a cause of core g in sequencer q with a detail. -/
structure CauseIs (v : Nat) (cause detail orig : Nat) (q : SeqId) (brk : Bool) : Prop where
  act : bits v 63 62 = 0
  brk : bits v 61 61 = if brk then 1 else 0
  remote : bits v 60 60 = 0
  orig : bits v 59 52 = orig
  seq : bits v 51 50 = seqNum q
  detail : bits v 47 32 = detail
  cause : bits v 15 0 = cause

end Sys2Proof.Claims

/-- CSRR puts the CSR, as it stands at the start of the cycle, in its register; RDCLK the schedule clock, the wall clock, or
the time since TSB, in an LBP and the management controller as log entry 92 says (the model's choice); CSRW, CSRS and CSRC
write their CSR with the register's value, with its bits set, and with its bits cleared (07: R192, R193). -/
def Sys2Proof.Claims.CsrInstructions : Prop :=
  (∀ (h : Hdr) (d : Code) (num : B10) (s : State), Unhindered h (.csrr h d num) s →
    exec (.csrr h d num) s = .next (issued h (.csrr h d num) .seq s
      ((waited h s).result (.csrr h d num) d 1 (csrValue s s.actor num.toNat)))) ∧
  (∀ (h : Hdr) (d : Code) (r : B2) (s : State), Unhindered h (.rdclk h d r) s →
    exec (.rdclk h d r) s = .next (issued h (.rdclk h d r) .seq s ((waited h s).result (.rdclk h d r) d 1
      (if r = 0 then BitVec.ofNat 64 (s.sccOf (s.partOf s.actor))
       else if r = 1 then BitVec.ofNat 64 s.wcc
       else BitVec.ofNat 64 (s.sccOf (s.partOf s.actor)) - BitVec.ofNat 64 (s.tsbOf s.actor))))) ∧
  ∀ (i : Instr) (s : State) (h : Hdr) (n : Nat) (v : DWord), Claims.csrWrite i s = some (h, n, v) → Unhindered h i s →
    exec i s = .next (issued h i .seq s
      ((waited h s).addEff s.actor (s.now s.actor) (s.origin s.actor i) (.csr (seqOf s.actor) n v)))

/-- What CSRs that hold no value of their own read as in a tile core: SEQID names the core, its kind, whether it checks, and
the sequencer; TASKID, ITER and PHNUM the task, the iteration and the phase; LTRIP and LACT the loop levels; every other
one reads as it was written, in K as it stood at the start of the cycle where hardware has changed it since; VRFPWR shows in
bits 17 to 12 besides which groups are waking (07: R194, R195; 03: R71). -/
def Sys2Proof.Claims.CsrReads : Prop :=
  ∀ (s : State) (g : Nat) (q : SeqId), g < 96 →
    let a : Actor := .core g q
    let v (n : Nat) : Nat := (csrValue s a n).toNat
    v 0x000 = g * 2 ^ 8 + (if s.checker g then 4 else 0) + seqNum q ∧
    csrValue s a 0x001 = BitVec.ofNat 64 (s.tidOf g) ∧
    csrValue s a 0x002 = BitVec.ofNat 64 (s.core g).iter ∧
    v 0x028 = (s.core g).phNum % 2 ^ 32 ∧
    (∀ l < 6, csrValue s a (0x030 + l) = BitVec.ofNat 64 (sget {} (s.seqr a).loops l).trip) ∧
    (∀ l < 6, (csrValue s a 0x036).getLsbD l = (sget {} (s.seqr a).loops l).act) ∧
    (∀ n, n ∉ [0x000, 0x001, 0x002, 0x021, 0x028, 0x030, 0x031, 0x032, 0x033, 0x034, 0x035, 0x036] →
      csrValue s a n = if q = .k then (look (s.core g).csrWas n).getD (getCsr (s.seqr a) n) else getCsr (s.seqr a) n) ∧
    (v 0x021 = (csrNat (s.seqr a) 0x021 + wakingBits (s.core g)) % 2 ^ 64 ∧
      ∀ j < 18, (wakingBits (s.core g)).testBit j = (decide (12 ≤ j) && (look (s.core g).wake (j - 12)).isSome))

/-- A CSR write lands by the access of each field: a read-write bit takes the value written, DBGCTL.HIT is cleared by a 1,
the bits of DIAGINJ take a value while diagnosis is on, and every other bit of the CSR, and every other CSR of the
sequencer, stays (07: R193, R194; 16: R399). -/
def Sys2Proof.Claims.CsrWriteLands : Prop :=
  ∀ (s : State) (g : Nat) (q : SeqId) (n : Nat) (v : DWord), n ≠ 0x021 →
    let a : Actor := .core g q
    let old := getCsr (s.seqr a) n
    let t := landCsr s (.core g .k) q n v
    let new := getCsr (t.seqr a) n
    (n ≠ 0x048 → n ≠ 0x3F0 → ∀ k < 64, new.getLsbD k = if Claims.csrRw n k then v.getLsbD k else old.getLsbD k) ∧
    (n = 0x048 → new.getLsbD 0 = v.getLsbD 0 ∧ new.getLsbD 1 = (old.getLsbD 1 && !v.getLsbD 1) ∧
      ∀ k, 1 < k → k < 64 → new.getLsbD k = old.getLsbD k) ∧
    (n = 0x3F0 → ∀ k < 64, new.getLsbD k =
      if s.fieldOf (offFctl (s.partOfCore g)) 8 8 = 1 ∧ (k < 8 ∨ (32 ≤ k ∧ k < 56) ∨ k = 63) then v.getLsbD k else old.getLsbD k) ∧
    ∀ m, m ≠ n → getCsr (t.seqr a) m = getCsr (s.seqr a) m

/-- CSR instructions, what the CSRs that hold no value of their own read as, and the fields that a write changes when it
lands in a tile core; what RDCLK reads outside a tile core is the model's choice (log entry 92) (07: R192 to R195; 16: R399).
Completion of: csrr, csrw, csrs, csrc, rdclk. -/
def Obligations.CsrAccess : Prop := Sys2Proof.Claims.CsrInstructions ∧ Sys2Proof.Claims.CsrReads ∧ Sys2Proof.Claims.CsrWriteLands

/-- A cause taken in core g in cycle c. In a core that has not stopped: the core stops after c, its handler is due at c + 2,
and TRAPCAUSE, TRAPPC and TRAPVAL say what happened, with BRK where the trapping sequencer or another one of the core is in
timed code. Of two causes of one cycle the lower code stays. In K while the handler runs, the handler ends and the core
asks for action 3 (16: R394 to R396). -/
def Sys2Proof.Claims.TrapTaken : Prop :=
  ∀ (s : State) (g c : Nat) (cause : Cause) (detail : Nat) (val : DWord) (q : SeqId) (pc : Nat) (timed : Bool),
    g < 96 → detail < 2 ^ 16 →
    let x := s.core g
    let t := takeTrap s g c cause detail val q pc timed
    let y := t.core g
    (x.trap.stopAfter = none →
      Claims.CauseIs (csrNat y.k csrTrapcause) (causeCode cause) detail g q (timed || coreTimed x || x.trap.brk) ∧
      getCsr y.k csrTrappc = BitVec.ofNat 64 (pc % 2 ^ 32) ∧ getCsr y.k csrTrapval = val ∧
      y.trap.stopAfter = some c ∧ y.trap.handlerAt = some (c + 2)) ∧
    (x.trap.stopAfter = some c → x.trap.inHandler = false → csrNat x.k csrTrapcause % 2 ^ 16 ≤ causeCode cause →
      getCsr y.k csrTrappc = getCsr x.k csrTrappc ∧ getCsr y.k csrTrapval = getCsr x.k csrTrapval ∧
      csrNat y.k csrTrapcause % 2 ^ 16 = csrNat x.k csrTrapcause % 2 ^ 16) ∧
    (x.trap.stopAfter = some c → x.trap.inHandler = false → causeCode cause < csrNat x.k csrTrapcause % 2 ^ 16 →
      Claims.CauseIs (csrNat y.k csrTrapcause) (causeCode cause) detail g q (timed || coreTimed x || x.trap.brk) ∧
      getCsr y.k csrTrappc = BitVec.ofNat 64 (pc % 2 ^ 32) ∧ getCsr y.k csrTrapval = val) ∧
    (x.trap.stopAfter ≠ none → x.trap.inHandler = true → x.trap.handlerDone = false → q = .k →
      y.trap.handlerDone = true ∧ ∀ n, x.task = some n → sget 0 (t.task n).dead g = 4)

/-- K enters the handler two cycles after the trap, or once the core's results have landed: KEPC takes its place, it goes on
at TVEC, and every other sequencer of the core keeps its place (16: R395; 07: R198). -/
def Sys2Proof.Claims.HandlerEntry : Prop :=
  ∀ (s : State) (g e : Nat), s.unit = g → s.held (s.partOfCore g) = false → (s.core g).trap.inHandler = false →
    (s.core g).frozen = false → (s.core g).trap.handlerAt = some e → e ≤ s.sccOf (s.partOfCore g) → resultsPending s g (s.core g).trap.before = false →
    ∃ t, exec .trapHandlerEntry s = .next t ∧
      (t.seqr (.core g .k)).pc = csrNat (s.core g).k csrTvec ∧ (t.seqr (.core g .k)).run = true ∧
      getCsr (t.seqr (.core g .k)) csrKepc = BitVec.ofNat 64 ((s.core g).k.pc % 2 ^ 32) ∧
      (t.core g).trap.inHandler = true ∧ t.timedOf (.core g .k) = false ∧
      ∀ q, q ≠ .k → t.seqr (.core g q) = s.seqr (.core g q)

/-- A failed compare of a lockstep pair traps both cores: the leading core, which has not stopped, takes LOCKSTEP with DETAIL 0 in
the sequencer that was compared, and its checking core, g + 1, shows the same TRAPCAUSE, TRAPPC and TRAPVAL. SAFE_WARN_N's bit of
the partition is set, unless the mismatch is a second one of an iteration that has been replayed, which sets FATAL's (01:
R27; 16: R391, R394, R397, R402; 02: R66). -/
def Sys2Proof.Claims.LockstepFails : Prop :=
  ∀ (s : State) (g : Nat) (org : Origin) (val : DWord), g < 96 → s.leads g = true → s.partOfCore g < 4 →
    (s.core g).trap.stopAfter = none →
    let x := s.core g
    let t := lockTrap s g org val
    let cause := csrNat (t.core g).k csrTrapcause
    Claims.CauseIs cause (causeCode .lockstep) 0 g org.q (org.timed || coreTimed x || x.trap.brk) ∧
      getCsr (t.core g).k csrTrappc = BitVec.ofNat 64 (org.pc % 2 ^ 32) ∧ getCsr (t.core g).k csrTrapval = val ∧
      csrNat (t.core (g + 1)).k csrTrapcause = cause ∧ getCsr (t.core (g + 1)).k csrTrapval = val ∧
      getCsr (t.core (g + 1)).k csrTrappc = BitVec.ofNat 64 (org.pc % 2 ^ 32) ∧
      (if x.misses = 0 ∨ x.replays = 0 then t.fieldOf offFpin (8 + s.partOfCore g) (8 + s.partOfCore g) = 1
        else t.fieldOf offFpin (20 + s.partOfCore g) (20 + s.partOfCore g) = 1)

/-- Taking an exception: what a cause records when it is taken, the entry of the handler, and the failed compare of a
lockstep pair (16: R391, R394 to R397, R402; 07: R198; 01: R27).
Completion of: trapHandlerEntry. -/
def Obligations.TrapEntry : Prop :=
  Sys2Proof.Claims.TrapTaken ∧ Sys2Proof.Claims.HandlerEntry ∧ Sys2Proof.Claims.LockstepFails

/-- TRAP stops its core in its cycle, with cause 0x0011, its code and its place recorded; ERET in a handler of a domain that
has not broken resumes the core with ACT 0, K at KEPC and the sequencer that trapped at TRAPPC, and otherwise ends the
handler and asks for an action; outside a handler it is refused (07: R198; 16: R394 to R396).
Completion of: trap, eret. -/
def Obligations.TrapsAndReturns : Prop :=
  (∀ (h : Hdr) (code : B15) (s : State) (g : Nat) (q : SeqId), s.actor = .core g q → g < 96 → Unhindered h (.trap h code) s →
    (s.core g).trap.stopAfter = none → s.checker g = false →
    ∃ t, exec (.trap h code) s = .next t ∧
      Claims.CauseIs (csrNat (t.core g).k csrTrapcause) 0x11 code.toNat g q
        (s.timedOf s.actor || coreTimed (t.core g) || (s.core g).trap.brk) ∧
      csrNat (t.core g).k csrTrappc = s.me.pc % 2 ^ 32 ∧ csrNat (t.core g).k csrTrapval = code.toNat ∧
      (t.core g).trap.stopAfter = some (s.now s.actor)) ∧
  ∀ (h : Hdr) (s : State) (g : Nat) (q : SeqId), s.actor = .core g q → Unhindered h (.eret h) s →
    let x := s.core g
    ((x.trap.inHandler = false → exec (.eret h) s = .next (refuse s s.actor .illegalOp 5 (word0Val (.eret h)))) ∧
    (x.trap.inHandler = true → x.trap.brk = false → bits (csrNat x.k csrTrapcause) 63 62 = 0 →
      ∃ t, exec (.eret h) s = .next t ∧ (t.core g).trap = {} ∧
        (let who := seqOfNum (bits (csrNat x.k csrTrapcause) 51 50)
         (who ≠ .k → ((t.core g).seqr who).pc = csrNat x.k csrTrappc ∧ (t.core g).k.pc = csrNat x.k csrKepc) ∧
         (who = .k → (t.core g).k.pc = csrNat x.k csrTrappc) ∧
         ∀ r, r ≠ .k → r ≠ who → ((t.core g).seqr r).pc = (x.seqr r).pc)) ∧
    (x.trap.inHandler = true → x.trap.brk = true ∨ bits (csrNat x.k csrTrapcause) 63 62 ≠ 0 →
      ∃ t, exec (.eret h) s = .next t ∧ (t.core g).trap.handlerDone = true ∧
        ∀ n, x.task = some n → sget 0 (t.task n).dead g = Nat.max 1 (bits (csrNat x.k csrTrapcause) 63 62) + 1))

/-- DBG with DBGCTL.EN in tokened code of a core none of whose sequencers is in timed code stops the core and sets HIT, and
does nothing otherwise; BBMARK appends its mark to the core's buffer, in the order K, L, C, S within a cycle, and a mark
that finds it full counts in BBLOST; the management controller's mark joins the cycle's events, with the part and source of log
entry 95; SAFEPT with no pre-emption has no effect but to note its boundary in timed code
(07: R197, R199, R200; 02: R61, R62).
Completion of: dbg, bbmark, safept. -/
def Obligations.DebugMarksSafepoints : Prop :=
  (∀ (h : Hdr) (code : B15) (s : State) (g : Nat) (q : SeqId), s.actor = .core g q → Unhindered h (.dbg h code) s →
    (s.timedOf s.actor = false → (getCsr (s.core g).k csrDbgctl).getLsbD 0 = true → coreTimed (s.core g) = false →
      ∃ t, exec (.dbg h code) s = .next (issued h (.dbg h code) .seq s t) ∧ (t.core g).trap.dbgStop = some (s.now s.actor) ∧
        bits (csrNat (t.core g).k csrDbgctl) 1 1 = 1) ∧
    (s.timedOf s.actor = true ∨ (getCsr (s.core g).k csrDbgctl).getLsbD 0 = false ∨ coreTimed (s.core g) = true →
      exec (.dbg h code) s = .next (issued h (.dbg h code) .seq s (waited h s)))) ∧
  (∀ (h : Hdr) (a : Code) (code : B12) (s : State) (g : Nat) (q : SeqId), s.actor = .core g q → Unhindered h (.bbmark h a code) s →
    ∃ t, exec (.bbmark h a code) s = .next (issued h (.bbmark h a code) .seq s t) ∧
      let l := insertMark ⟨q, code, s.rd a, s.now s.actor, s.wcc⟩ (s.core g).marks
      (t.core g).marks = l.take 16 ∧
      (16 < l.length → ∃ m ∈ (t.core g).pend, m.eff = .csrAdd .k 0x025)) ∧
  (∀ (h : Hdr) (a : Code) (code : B12) (s : State), s.actor = .mgmt → Unhindered h (.bbmark h a code) s →
    exec (.bbmark h a code) s = .next (issued h (.bbmark h a code) .seq s
      (csEvent (waited h s) 9 4 0 0 code.toNat (s.rd a).toNat))) ∧
  (∀ (h : Hdr) (bnd : B16) (s : State) (g : Nat), s.actor = .core g .k → Unhindered h (.safept h bnd) s →
    s.timedOf s.actor = true → s.now s.actor + 33 ≤ (s.core g).tsb + 256 * bnd.toNat →
    ∃ t, exec (.safept h bnd) s = .next (issued h (.safept h bnd) .seq s t) ∧
      (256 * bnd.toNat, s.me.pc) ∈ (t.core g).safepts ∧ (t.core g).safept = (s.core g).safept) ∧
  ∀ (h : Hdr) (s : State) (g n : Nat), s.actor = .core g .k → Unhindered h (.safept h 0) s → s.timedOf s.actor = false →
    let w := waited h s
    (w.core g).task = some n → (w.task n).slen = 0 → enginesIdle (w.core g) (w.now s.actor) = true →
    queuesEmpty (w.core g) = true → resultsPending w g = false →
    ∃ t, exec (.safept h 0) s = .next (issued h (.safept h 0) .seq s t) ∧
      (preemptible w n = true → (t.core g).safept = some 0 ∧ (t.core g).safeptPc = s.me.pc) ∧
      (preemptible w n = false → t = w)

namespace Sys2Proof.Claims

/-- The instructions that work in the vector engine, TAP aside (08: R212 to R236; 12: R337, R338). -/
def vector (i : Instr) : Option Hdr :=
  match i with
  | .vadd h _ _ | .vsub h _ _ | .vmul h _ _ | .vmulh h _ _ | .vfma h _ _ | .vfms h _ _ | .vfnma h _ _ | .vmin h _ _
  | .vmax h _ _ | .vabs h _ _ | .vneg h _ _ | .vnot h _ _ | .vmov h _ _ | .vclamp h _ _ | .vsat h _ _ | .vand h _ _
  | .vor h _ _ | .vxor h _ _ | .vshl h _ _ | .vshr h _ _ | .vsra h _ _ | .vsel h _ _ | .vbcast h _ _ | .vextr h _ _
  | .vins h _ _ | .vcvt h _ _ | .vsrnd h _ _ | .vqnt h _ _ | .vdqnt h _ _ | .vperm h _ _ | .vrot h _ _ | .vcomp h _ _
  | .vexpd h _ _ | .vdot h _ _ | .viota h _ _ | .mand h _ _ | .mor h _ _ | .mxor h _ _ | .mnot h _ _ | .mpop h _ _
  | .mfirst h _ _ | .vrand h _ _ | .vsamp h _ _ | .vexp2 h _ _ | .vlog2 h _ _ | .vrcp h _ _ | .vrsq h _ _
  | .vsin h _ _ | .vcos h _ _ | .vtanh h _ _ | .vsigm h _ _ | .verf h _ _ | .rowoutWr h _ _ => some h
  | .vcmp h _ _ _ | .vshuf h _ _ _ | .vred h _ _ _ | .vscan h _ _ _ | .defer h _ _ _ | .drain h _ _ _
  | .remap h _ _ _ => some h
  | _ => none

/-- The commands of the matrix engine (09: R249 to R262). -/
def matrix (i : Instr) : Option Hdr :=
  match i with
  | .mmul h _ _ | .mmuls h _ _ | .msacc h _ _ | .macc h _ _ | .mzero h _ _ | .mrd h _ _ | .mwbl h _ _ | .mwbd h _ _
  | .mscl h _ _ | .mchk h _ _ | .mfen h _ _ => some h
  | _ => none

/-- No register that i names lies in a power group of core g that is drowsy or gated (03: R71; 17: R415). -/
def allAwake (s : State) (g : Nat) (i : Instr) : Prop := ∀ r ∈ vregsOf i ++ moreRegs i, powerOf (s.core g) r.1.toNat = 0

/-- A vector instruction has entered the engine as v: the instruction, its cycle, its lanes and chunks, no operand read. -/
def entered (v : VOp) (i : Instr) (c n nch : Nat) : Prop :=
  v.i = i ∧ v.c = c ∧ v.n = n ∧ v.nch = nch ∧ v.snap = [] ∧ v.mask = 0 ∧ v.dead = none ∧ v.cut = none

/-- What vector and matrix instructions change in no issue cycle: all of a tile core but its sequencers, its trap state,
the results on their way and the commands that its engines hold. -/
def contents (x : Core) : Core :=
  { x with
    k := {}, l := {}, c := {}, s := {}, pend := [], vops := [], veFree := 0, dqOnWay := 0, onWay := [], mcmds := [],
    iterCmds := [], trap := {}, trail := [], hwCsr := [], csrWas := [] }

/-- The same of an LBP. -/
def lbpContents (l : Lbp) : Lbp := { l with seqr := {}, pend := [], vops := [], veFree := 0 }

/-- An element of an integer format as bits. -/
def intElem (w x : Nat) : BitVec w := BitVec.ofNat w x

/-- What an instruction computes of the integer elements of its operands, and its XV fields (08: R212 to R216). -/
def intLane (i : Instr) (w : Nat) (a b c : BitVec w) : Option (XV × BitVec w) :=
  match i with
  | .vadd _ _ x => some (x, a + b)
  | .vsub _ _ x => some (x, a - b)
  | .vmul _ _ x => some (x, a * b)
  | .vmulh _ _ x => some (x, ((a.signExtend (2 * w) * b.signExtend (2 * w)) >>> w).setWidth w)
  | .vfma _ _ x => some (x, a * b + c)
  | .vfms _ _ x => some (x, a * b - c)
  | .vfnma _ _ x => some (x, c - a * b)
  | .vmin _ _ x => some (x, if a.sle b then a else b)
  | .vmax _ _ x => some (x, if b.sle a then a else b)
  | .vabs _ _ x => some (x, if a.slt 0 then -a else a)
  | .vneg _ _ x => some (x, -a)
  | .vnot _ _ x => some (x, ~~~a)
  | .vmov _ _ x => some (x, a)
  | .vand _ _ x => some (x, a &&& b)
  | .vor _ _ x => some (x, a ||| b)
  | .vxor _ _ x => some (x, a ^^^ b)
  | .vshl _ _ x => some (x, a <<< (b.toNat % w))
  | .vshr _ _ x => some (x, a >>> (b.toNat % w))
  | .vsra _ _ x => some (x, a.sshiftRight (b.toNat % w))
  | _ => none

/-- The operands of a matrix command lie in its engine's stores: the numbers in s(a) and s(b) (09: R249, R251, R253,
R256 to R259; 18: R436). -/
def matrixFits (s : State) (g : Nat) (i : Instr) (a b : Nat) : Prop :=
  let source (n : Nat) : Prop := a % 64 = 0 ∧ badByte s g a n = none ∧ regionOf a = regionOf (a + n - 1)
  match i with
  | .mmul _ _ _ | .mmuls _ _ _ => b % 64 = 0 ∧ b < 524288 ∧ b + rawBytes i (pageMode (s.core g) b) ≤ 524288
  | .msacc _ _ _ => a ≤ 32640 ∧ b ≤ 32640
  | .mrd _ _ x => a + mrdRows x.ta.toNat ≤ 128
  | .mwbl _ _ _ => b % 64 = 0 ∧ b ≤ 520192 ∧ source 4096
  | .mwbd _ _ _ => a ≤ 127 ∧ b ≤ 2
  | .mscl _ _ x => b % 32 = 0 ∧ b ≤ 32256 ∧ source (if x.ta = 0 then 1024 else 512)
  | .mchk _ _ _ => a % 2 ^ 32 < 0x7F800000
  | _ => True

/-- What R436 answers to a matrix command whose operands, in s(a) and s(b), do not lie in its engine's stores: the trap, its
DETAIL and its TRAPVAL. -/
def matrixRefused (s : State) (g : Nat) (i : Instr) (a b : Nat) : Option (Cause × Nat × DWord) :=
  let operand (f : Nat) : Option (Cause × Nat × DWord) := some (.illegalOperand, 0x0600 + f, word0Val i)
  let source (n : Nat) : Option (Cause × Nat × DWord) :=
    if a % 64 ≠ 0 then some (.bounds, 2, BitVec.ofNat 64 a)
    else match badByte s g a n with
      | some x => some (.bounds, 1, BitVec.ofNat 64 x)
      | none => if regionOf a = regionOf (a + n - 1) then none else some (.bounds, 3, BitVec.ofNat 64 a)
  match i with
  | .mmul _ _ _ | .mmuls _ _ _ => if b % 64 ≠ 0 ∨ 524288 ≤ b ∨ 524288 < b + rawBytes i (pageMode (s.core g) b) then operand 2 else none
  | .msacc _ _ _ => if 32640 < a then operand 1 else if 32640 < b then operand 2 else none
  | .mrd _ _ x => if 128 < a + mrdRows x.ta.toNat then operand 1 else none
  | .mwbl _ _ _ => if b % 64 ≠ 0 ∨ 520192 < b then operand 2 else source 4096
  | .mwbd _ _ _ => if 127 < a then operand 1 else if 2 < b then operand 2 else none
  | .mscl _ _ x => if b % 32 ≠ 0 ∨ 32256 < b then operand 2 else source (if x.ta = 0 then 1024 else 512)
  | .mchk _ _ _ => if 0x7F800000 ≤ a % 2 ^ 32 then operand 1 else none
  | _ => none

/-- The stamp of a matrix command that issues in cycle c: STD cycles on, and none for an STD of 0 (06: R161). -/
def stampOf (i : Instr) (c : Nat) : Option Nat :=
  match i with
  | .mmul _ _ x | .mmuls _ _ x | .msacc _ _ x | .macc _ _ x | .mzero _ _ x | .mrd _ _ x | .mwbl _ _ x | .mwbd _ _ x
  | .mscl _ _ x | .mchk _ _ x | .mfen _ _ x => if x.std = 0 then none else some (c + x.std.toNat)
  | _ => none

/-- The stream of matrix command i may take it: it holds fewer than eight, and in tokened code no write is still to reach the
register that the command's A operand names when the command reads it (02: R37; 09: R241). -/
def streamTakes (s : State) (g : Nat) (i : Instr) : Prop :=
  meQueued (s.core g) (strOf i) < 8 ∧ (s.timedOf s.actor = true ∨ operandReady s i = true)

end Sys2Proof.Claims

/-- A vector instruction that nothing keeps back enters the engine with its lanes and chunks, and nothing of it has been
read yet: in a tile core, in tokened code once its registers, queues and the engine are ready, in timed code when no queue
that its first cycle pops is empty and the deferral queue has room, with every register awake and, for a transcendental, FTV
1 to 3; in an LBP once it is ready (08: R203, R205, R206, R209, R232; 17: R406, R415).
Completion of: vadd, vsub, vmul, vmulh, vfma, vfms, vfnma, vmin, vmax, vabs, vneg, vnot, vmov, vclamp, vsat, vand,
vor, vxor, vshl, vshr, vsra, vcmp, vsel, vbcast, vextr, vins, vcvt, vsrnd, vqnt, vdqnt, vperm, vshuf, vrot, vcomp,
vexpd, vred, vscan, vdot, viota, mand, mor, mxor, mnot, mpop, mfirst, vrand, vsamp, defer, drain, vexp2, vlog2, vrcp,
vrsq, vsin, vcos, vtanh, vsigm, verf, rowoutWr, remap. -/
def Obligations.VectorIssue : Prop :=
  ∀ (i : Instr) (h : Hdr) (s : State), Claims.vector i = some h → Unhindered h i s →
    let w := waited h s
    let lbp := isLbp s.actor
    let n := lanesOf w s.actor i
    let nch := chunksOf lbp i n
    let lane := namedLane lbp i (vecScalar w i 2)
    (∀ (g : Nat) (q : SeqId), s.actor = .core g q →
      (s.timedOf s.actor = false → vecReady w s.actor i n nch lane = true) →
      (s.timedOf s.actor = true → vecSched w g i n nch lane = none) →
      (isTrans i = true → 1 ≤ ftvOf w s.actor ∧ ftvOf w s.actor ≤ 3) → Claims.allAwake w g i →
      ∃ t v, exec i s = .next (issued h i .seq s t) ∧ (t.core g).vops = (s.core g).vops ++ [v] ∧
        Claims.entered v i (s.now s.actor) n nch ∧ v.org = s.origin s.actor i) ∧
    ∀ k, s.actor = .lbp k → vecReady w s.actor i n nch lane = true →
      ∃ t v, exec i s = .next (issued h i .seq s t) ∧ (t.lbp k).vops = (s.lbp k).vops ++ [v] ∧
        Claims.entered v i s.wcc n nch

/-- Whatever comes of the issue of a vector instruction or a matrix command, it changes in its issue cycle no vector
register, mask, queue, bank, weight, scale or directory entry of a tile core, no row or register of an LBP, no scalar register,
and no byte of memory in either view (08: R205; 09: R241). -/
def Obligations.VectorFrame : Prop :=
  ∀ (i : Instr) (h : Hdr) (s t : State), Claims.vector i = some h ∨ Claims.matrix i = some h → s.canIssue s.actor = true →
    exec i s = .next t →
    (∀ g, Claims.contents (t.core g) = Claims.contents (s.core g)) ∧
    (∀ n, Claims.lbpContents (t.lbp n) = Claims.lbpContents (s.lbp n)) ∧
    (∀ a c, readS (t.seqr a) c = readS (s.seqr a) c) ∧
    ∀ d a n, t.readView d a n = s.readView d a n

/-- Each lane of the integer instructions is computed on the bits of its elements, mod 2^W for W bits (08: R212 to R214,
R216). -/
def Sys2Proof.Claims.VectorIntegerLanes : Prop :=
  ∀ (a : Actor) (v : VOp) (j w : Nat) (x : XV) (r : BitVec w),
    (x.t = 8 ∧ w = 8) ∨ (x.t = 11 ∧ w = 16) ∨ (x.t = 12 ∧ w = 32) →
    Claims.intLane v.i w (Claims.intElem w (v.lane 1 j)) (Claims.intElem w (v.lane 2 j)) (Claims.intElem w (v.lane 3 j)) =
      some (x, r) →
    v.value a j = some r.toNat

/-- The masks of the elements: an active lane receives its result, an inactive one is left when MZ is 0 and takes zeros when
MZ is 1; lane j is active when its mask is not enabled or its bit is 1, the bit w j for elements of w bytes (08: R204). -/
def Sys2Proof.Claims.VectorMasking : Prop :=
  (∀ (a : Actor) (v : VOp) (j w : Nat) (x : XV) (r p q : BitVec w),
    Claims.intLane v.i w p q r ≠ none → xvOf v.i = some x →
    (v.mask.testBit j = true → v.laneOut a j = v.value a j) ∧
    (v.mask.testBit j = false → x.mz = false → v.laneOut a j = none) ∧
    (v.mask.testBit j = false → x.mz = true → v.laneOut a j = some 0)) ∧
  ∀ (s : State) (a : Actor) (i : Instr) (n j : Nat) (x : XV), xvOf i = some x → j < n →
    (x.men = false → (activeBits s a i n).testBit j = true) ∧
    (x.men = true → ((activeBits s a i n).testBit j = true ↔
      (s.maskOf a x.msk.toNat).testBit (if maskWidth i = 0 then j else maskWidth i * j) = true))

/-- Exact values: a sum and a product of finite numbers, each n / d with its sign, are the sum and the product of the fractions;
∞ - ∞ and 0 × ∞ are NaN (05: R134; 08: R212). -/
def Sys2Proof.Claims.ExactValues : Prop :=
  ∀ (m : Nat) (p q : Bool) (a b c d : Nat),
    let x : Val := .fin p a b
    let y : Val := .fin q c d
    (Val.add m x y).num * (b * d) = (x.num * d + y.num * b) * (Val.add m x y).den ∧
    (Val.mul x y).num * (b * d) = x.num * y.num * (Val.mul x y).den ∧
    Val.add m (.inf p) (.inf !p) = .nan ∧ Val.add m (.inf p) y = .inf p ∧ Val.mul (.inf p) (.fin q 0 d) = .nan

/-- The lanes of the arithmetic of a float format T, FP32, FP16 or BF16: the exact sum, difference, product or fused product of
the operands' values, rounded once to T in mode RM, with the draw word of the lane in mode 4; VABS and VNEG clear and invert the
sign, VMIN and VMAX of a NaN give the other operand, and a NaN that is left is the canonical one (08: R211, R212, R214). -/
def Sys2Proof.Claims.VectorFloatLanes : Prop :=
  ∀ (a : Actor) (v : VOp) (j : Nat) (x : XV), x.t.toNat ≤ 2 →
    let t := x.t.toNat
    let rm := x.rm.toNat
    let A := decode5 t (v.lane 1 j)
    let B := decode5 t (v.lane 2 j)
    let C := decode5 t (v.lane 3 j)
    let is (e : Val) : Prop := v.value a j = some (rnd t e rm (if rm = 4 then v.word a j else 0))
    ∀ h o,
    (v.i = .vadd h o x → is (Val.add rm A B)) ∧
    (v.i = .vsub h o x → is (Val.add rm A B.negate)) ∧
    (v.i = .vmul h o x → is (Val.mul A B)) ∧
    (v.i = .vfma h o x → is (Val.add rm (Val.mul A B) C)) ∧
    (v.i = .vfms h o x → is (Val.add rm (Val.mul A B) C.negate)) ∧
    (v.i = .vfnma h o x → is (Val.add rm (Val.mul A B).negate C)) ∧
    (v.i = .vabs h o x → A ≠ .nan → v.value a j = some (v.lane 1 j % signBit t)) ∧
    (v.i = .vneg h o x → A ≠ .nan → v.value a j = some (v.lane 1 j ^^^ signBit t)) ∧
    (v.i = .vabs h o x ∨ v.i = .vneg h o x → A = .nan → v.value a j = some (nanCode t)) ∧
    (v.i = .vmin h o x ∨ v.i = .vmax h o x →
      (A = .nan → B = .nan → v.value a j = some (nanCode t)) ∧ (A = .nan → B ≠ .nan → v.value a j = some (v.lane 2 j)) ∧
      (A ≠ .nan → B = .nan → v.value a j = some (v.lane 1 j)))

/-- The permutes: which lane each lane takes. VPERM takes the lane that its index names; VSHUF interleaves, gathers and
transposes; VROT shifts up by at most one chunk and carries in the top lanes of c; VCOMP packs the active lanes, VEXPD
spreads lanes over them (08: R226 to R229). -/
def Sys2Proof.Claims.VectorPermutes : Prop :=
  ∀ (g : Nat) (q : SeqId) (v : VOp) (x : XV) (h : Hdr) (o : A3),
    let a : Actor := .core g q
    let below (j : Nat) : Nat := (List.range j).countP fun k => v.mask.testBit k
    (v.i = .vperm h o x → ∀ j, v.value a j = some (v.lane 1 (v.lane 2 j % capOf false x.t.toNat))) ∧
    (∀ fn i, v.i = .vshuf h fn o x → i < v.n / 2 →
      (fn = 0 → v.value a (2 * i) = some (v.lane 1 i) ∧ v.value a (2 * i + 1) = some (v.lane 2 i)) ∧
      (fn = 1 → v.value a (2 * i) = some (v.lane 1 (v.n / 2 + i)) ∧ v.value a (2 * i + 1) = some (v.lane 2 (v.n / 2 + i))) ∧
      (fn = 2 → v.value a i = some (v.lane 1 (2 * i)) ∧ v.value a (v.n / 2 + i) = some (v.lane 2 (2 * i))) ∧
      (fn = 3 → v.value a i = some (v.lane 1 (2 * i + 1)) ∧ v.value a (v.n / 2 + i) = some (v.lane 2 (2 * i + 1)))) ∧
    (∀ c r, v.i = .vshuf h 4 o x → c < capOf false x.t.toNat / 64 → r < 64 →
      v.value a (c * 64 + r) = some (v.lane 1 (r * (capOf false x.t.toNat / 64) + c))) ∧
    (v.i = .vrot h o x → ∀ j,
      let k := min (min v.s2.toNat v.n) (1024 / (fmtBits x.t.toNat / 8))
      v.value a j = some (if k ≤ j then v.lane 1 (j - k) else v.lane 3 (v.n - k + j))) ∧
    (v.i = .vcomp h o x →
      (∀ i, i < v.n → v.mask.testBit i = true → v.value a (below i) = some (v.lane 1 i)) ∧
      ∀ i, below v.n ≤ i → v.value a i = some (v.lane 2 i)) ∧
    (v.i = .vexpd h o x → ∀ j,
      v.value a j = some (if v.mask.testBit j then v.lane 1 (below j) else v.lane 2 j))

/-- Reductions. The tree of R144: of one value, that value; of two halves of 2^k values, the two results combined; of any
other number of values, as with one identity more. VRED of a float format combines by additions rounded to it; VRED of an integer
format adds exactly; the lanes that the mask excludes take the identity (05: R144; 08: R230, R231). -/
def Sys2Proof.Claims.VectorReductions : Prop :=
  (∀ (op : Nat → Nat → Nat) (e : Nat),
    (∀ x, tree op e [x] = x) ∧
    (∀ (k : Nat) (l m : List Nat), k < 13 → l.length = 2 ^ k → m.length = 2 ^ k →
      tree op e (l ++ m) = op (tree op e l) (tree op e m)) ∧
    ∀ l : List Nat, l.length < 2 ^ 13 → (∀ k, l.length ≠ 2 ^ k) → tree op e l = tree op e (l ++ [e])) ∧
  ∀ (v : VOp) (t rm : Nat),
    let lanes (e : Nat) : List Nat := (List.range v.n).map fun j => if v.mask.testBit j then v.lane 1 j else e
    let on : List Nat := (List.range v.n).filter fun j => v.mask.testBit j
    let w := fmtBits t
    (t ≤ 2 → v.redResult 0 t rm = BitVec.ofNat 64
      (tree (fun x y => rnd t (Val.add rm (decode5 t x) (decode5 t y)) rm 0) (signBit t) (lanes (signBit t)))) ∧
    (t ≤ 2 → v.redResult 1 t rm = BitVec.ofNat 64 (tree (vmax2 t) (signBit t + infCode t) (lanes (signBit t + infCode t)))) ∧
    (t ≤ 2 → v.redResult 2 t rm = BitVec.ofNat 64 (tree (vmin2 t) (infCode t) (lanes (infCode t)))) ∧
    (¬ t ≤ 2 → v.redResult 0 t rm = BitVec.ofInt 64 (on.map fun j => sx (v.lane 1 j) w).sum) ∧
    (¬ t ≤ 2 → v.redResult 1 t rm = BitVec.ofInt 64 (sx (tree (vmax2 t) (signBit t) (lanes (signBit t))) w)) ∧
    (¬ t ≤ 2 → v.redResult 2 t rm = BitVec.ofInt 64 (sx (tree (vmin2 t) (signBit t - 1) (lanes (signBit t - 1))) w)) ∧
    (¬ t ≤ 2 → v.redResult 3 t rm = BitVec.ofNat 64 (tree (fun x y => x &&& y) (2 ^ w - 1) (lanes (2 ^ w - 1)))) ∧
    (¬ t ≤ 2 → v.redResult 4 t rm = BitVec.ofNat 64 (tree (fun x y => x ||| y) 0 (lanes 0))) ∧
    (¬ t ≤ 2 → v.redResult 5 t rm = BitVec.ofNat 64 (tree (fun x y => x ^^^ y) 0 (lanes 0))) ∧
    (¬ t ≤ 2 → v.dotResult t rm = BitVec.ofInt 64 (on.map fun j => sx (v.lane 1 j) w * sx (v.lane 2 j) w).sum)

/-- The special inputs of the transcendental functions, as codes of FP32, whatever the table version (05: R150). -/
def Sys2Proof.Claims.SpecialInputs : Prop :=
  ∀ (i : Instr) (ver c n d : Nat),
    (isNanCode 0 c = true → transOf i ver c = 0x7FC00000) ∧
    (tExp2 ver (f32 0xFF800000) = 0 ∧ tExp2 ver (f32 0x7F800000) = 0x7F800000 ∧
      (128 * d ≤ n → tExp2 ver (.fin false n d) = 0x7F800000) ∧ (150 * d < n → tExp2 ver (.fin true n d) = 0)) ∧
    (tLog2 ver (f32 0) = 0xFF800000 ∧ tLog2 ver (f32 0x80000000) = 0xFF800000 ∧ tLog2 ver (f32 0x7F800000) = 0x7F800000 ∧
      tLog2 ver (f32 0xFF800000) = 0x7FC00000 ∧ (0 < n → tLog2 ver (.fin true n d) = 0x7FC00000)) ∧
    (tRcp ver (f32 0) = 0x7F800000 ∧ tRcp ver (f32 0x80000000) = 0xFF800000 ∧ tRcp ver (f32 0x7F800000) = 0 ∧
      tRcp ver (f32 0xFF800000) = 0x80000000) ∧
    (tRsq ver (f32 0) = 0x7F800000 ∧ tRsq ver (f32 0x80000000) = 0xFF800000 ∧ tRsq ver (f32 0x7F800000) = 0 ∧
      tRsq ver (f32 0xFF800000) = 0x7FC00000 ∧ (0 < n → tRsq ver (.fin true n d) = 0x7FC00000)) ∧
    (∀ b : Bool, tSinCos ver b (f32 0x7F800000) = 0x7FC00000 ∧ tSinCos ver b (f32 0xFF800000) = 0x7FC00000) ∧
    tSinCos ver false (f32 0x80000000) = 0x80000000 ∧
    (∀ p : Bool, (16 * d ≤ n → 0 < n → tTanh ver (.fin p n d) = one32 p) ∧ (4 * d ≤ n → 0 < n → tErf ver (.fin p n d) = one32 p) ∧
      tTanh ver (.inf p) = one32 p ∧ tErf ver (.inf p) = one32 p ∧ tTanh ver (.fin p 0 1) = zero32 p ∧
      tErf ver (.fin p 0 1) = zero32 p) ∧
    (tSigm ver (f32 0x7F800000) = 0x3F800000 ∧ tSigm ver (f32 0xFF800000) = 0 ∧
      (128 * d ≤ n → tSigm ver (.fin false n d) = 0x3F800000 ∧ tSigm ver (.fin true n d) = 0))

/-- What vector instructions compute: the lanes of the integer and of the float arithmetic, the permutes, the reductions, the
special inputs of the transcendental functions; and the masks of the elements (05: R134, R144, R150; 08: R204, R211, R212 to R214,
R216, R226 to R231). -/
def Obligations.VectorLanes : Prop :=
  Sys2Proof.Claims.VectorIntegerLanes ∧ Sys2Proof.Claims.VectorMasking ∧ Sys2Proof.Claims.ExactValues ∧
    Sys2Proof.Claims.VectorFloatLanes ∧ Sys2Proof.Claims.VectorPermutes ∧ Sys2Proof.Claims.VectorReductions ∧ Sys2Proof.Claims.SpecialInputs

/-- The results of a lane-wise integer instruction that no trap has stopped: at the end of the cycle in which chunk k of its
destination register is written, the lane's element is among what the engine writes, if the lane is active, and is left if it
is inactive and MZ is 0; and what the engine writes to a register whose group is not gated replaces exactly the bits that it
names (08: R204, R205; 03: R71). -/
def Obligations.VectorResults : Prop :=
  (∀ (g : Nat) (q : SeqId) (v : VOp) (j w : Nat) (x : XV) (r : BitVec w) (d : Code),
    (x.t = 8 ∧ w = 8) ∨ (x.t = 11 ∧ w = 16) ∨ (x.t = 12 ∧ w = 32) →
    Claims.intLane v.i w (Claims.intElem w (v.lane 1 j)) (Claims.intElem w (v.lane 2 j)) (Claims.intElem w (v.lane 3 j)) =
      some (x, r) →
    vdest v.i = some d → d.toNat < 48 → v.dead = none → v.cut = none → v.drop.contains d.toNat = false → j < v.n →
    let k := w * j / 8192
    let off := w * j - 8192 * k
    ∃ cl st, (.vrfBits (8192 * d.toNat + 1024 * k) 1024 cl st : Eff) ∈
        v.effs (.core g q) (v.c + resultChunkAt false v.i v.n v.nch k) ∧
      (v.mask.testBit j = true → cl / 2 ^ off % 2 ^ w = 2 ^ w - 1 ∧ st / 2 ^ off % 2 ^ w = r.toNat) ∧
      (v.mask.testBit j = false → x.mz = false → cl / 2 ^ off % 2 ^ w = 0 ∧ st / 2 ^ off % 2 ^ w = 0)) ∧
  ∀ (s : State) (g : Nat) (q : SeqId) (lo n cl st : Nat), (s.core g).vrf.wf = true →
    lo < 48 * 8192 → powerOf (s.core g) (lo / 8192) ≠ 2 →
    let t := landResult s (.core g q) (.vrfBits lo n cl st)
    (∀ a b, b < 8 → ((t.core g).vrf.byte a).getLsbD b =
      if lo ≤ a ∧ a < lo + n then
        st.testBit (8 * (a - lo) + b) || (((s.core g).vrf.byte a).getLsbD b && !cl.testBit (8 * (a - lo) + b))
      else ((s.core g).vrf.byte a).getLsbD b) ∧
    ∀ h, h ≠ g → t.core h = s.core h

namespace Sys2Proof.Claims

/-- From s to u the sequencer that is to issue only waits: it stands where it stood, is noted as kept back in this cycle, and has
taken no token (02: R37). -/
def waits (s u : State) : Prop :=
  Keeps s u ∧ u.me.pc = s.me.pc ∧ u.me.blocked = true ∧ u.me.tokP = s.me.tokP ∧ u.me.tokN = s.me.tokN ∧ u.me.qual = s.me.qual ∧
    u.me.nextAt = s.me.nextAt

/-- The result of i for register d, of latency 1, would land after every one pending for d, or the code is timed (07: R176). -/
def landsInOrder (h : Hdr) (d : Code) (s : State) : Prop :=
  s.timedOf s.actor = true ∨ landsLast ((waited h s).pendingRegs s.actor) d (s.now s.actor) = true

end Sys2Proof.Claims

/-- VSETVL gives VL and its register the smaller of s(a) and the lanes of its format; DCOUNT gives the records that the
deferral queue holds; MSTAT gives the saturation of its bank, in bit 1 whether an element of it has its poison bit set, and in
bits 2 and 3 the work of arrays X and Y. In tokened code each waits while its result would not land after every one pending for
its register (08: R221, R237; 09: R261; 07: R176).
Completion of: vsetvl, dcount, mstat. -/
def Obligations.VectorScalars : Prop :=
  (∀ (h : Hdr) (o : A3) (x : XV) (s : State), Unhindered h (.vsetvl h o x) s →
    (∃ g q, s.actor = .core g q) ∨ (∃ n, s.actor = .lbp n) →
    let i : Instr := .vsetvl h o x
    let v := BitVec.ofNat 64 (min (s.rd o.a).toNat (capOf (isLbp s.actor) x.t.toNat))
    (Claims.landsInOrder h o.d s → exec i s = .next (issued h i .seq s
      (((waited h s).addEff s.actor (s.now s.actor) (s.origin s.actor i) (.csr (seqOf s.actor) 0x020 v)).result i o.d 1 v))) ∧
    (¬ Claims.landsInOrder h o.d s → ∃ u, exec i s = .next u ∧ Claims.waits s u)) ∧
  (∀ (h : Hdr) (o : A3) (x : XV) (s : State) (g : Nat) (q : SeqId), s.actor = .core g q → Unhindered h (.dcount h o x) s →
    (Claims.landsInOrder h o.d s → exec (.dcount h o x) s = .next (issued h (.dcount h o x) .seq s
      ((waited h s).result (.dcount h o x) o.d 1 (BitVec.ofNat 64 (s.core g).dq.length)))) ∧
    (¬ Claims.landsInOrder h o.d s → ∃ u, exec (.dcount h o x) s = .next u ∧ Claims.waits s u)) ∧
  ∀ (h : Hdr) (d : Code) (acc : B2) (s : State) (g : Nat) (q : SeqId), s.actor = .core g q → Unhindered h (.mstat h d acc) s →
    let n := 16384 * acc.toNat
    (Claims.landsInOrder h d s →
      ∃ v, exec (.mstat h d acc) s = .next (issued h (.mstat h d acc) .seq s ((waited h s).result (.mstat h d acc) d 1 v)) ∧
        v.getLsbD 0 = sget false (s.core g).sat acc.toNat ∧
        (v.getLsbD 1 = true ↔ ∃ e ∈ (s.core g).accP, n ≤ e.1 ∧ e.1 < n + 16384 ∧ e.2 = true) ∧
        v.getLsbD 2 = arrayBusy (s.core g) 0 (s.now s.actor) ∧ v.getLsbD 3 = arrayBusy (s.core g) 1 (s.now s.actor) ∧
        ∀ k, 4 ≤ k → v.getLsbD k = false) ∧
    (¬ Claims.landsInOrder h d s → ∃ u, exec (.mstat h d acc) s = .next u ∧ Claims.waits s u)

/-- A matrix command of a tile core that nothing keeps back, whose operands lie in its engine's stores and whose stream may take
it, issues and joins its stream (09: R241, R249, R251 to R253, R256 to R259, R262; 18: R436). -/
def Sys2Proof.Claims.MatrixEnters : Prop :=
  ∀ (i : Instr) (h : Hdr) (s : State) (g : Nat) (q : SeqId), Claims.matrix i = some h → s.actor = .core g q →
    Unhindered h i s →
    let w := waited h s
    Claims.streamTakes w g i → Claims.matrixFits w g i (vecScalar w i 1).toNat (vecScalar w i 2).toNat →
    Claims.allAwake w g i →
    exec i s = .next (issued h i .seq s (enterMe w g i (vecScalar w i 1) (vecScalar w i 2)))

/-- A matrix command whose operands lie in its stores joins the commands of its stream, not yet started, with its operands, and
with its stamp, STD cycles after its issue, where STD is not 0; the other streams keep theirs; an operand outside them is refused
with the field concerned, or with BOUNDS where a source cannot be read (09: R241, R249, R251, R253, R256 to R259; 06: R161; 18:
R436).
Completion of: mmul, mmuls, msacc, macc, mzero, mrd, mwbl, mwbd, mscl, mchk, mfen. -/
def Obligations.MatrixIssue : Prop :=
  Sys2Proof.Claims.MatrixEnters ∧ ∀ (i : Instr) (h : Hdr) (s : State) (g : Nat) (q : SeqId), Claims.matrix i = some h → s.actor = .core g q →
    Unhindered h i s →
    let w := waited h s
    let a := (vecScalar w i 1).toNat
    let b := (vecScalar w i 2).toNat
    Claims.streamTakes w g i →
    (Claims.matrixFits w g i a b → Claims.allAwake w g i →
      ∃ t m, exec i s = .next (issued h i .seq s t) ∧
        sget [] (t.core g).mcmds (strOf i) = sget [] (s.core g).mcmds (strOf i) ++ [m] ∧
        m.i = i ∧ m.c = s.now s.actor ∧ m.s = none ∧ m.doneAt = none ∧ m.s1.toNat = a ∧ m.s2.toNat = b ∧
        m.stamp = Claims.stampOf i (s.now s.actor) ∧
        ∀ str, str ≠ strOf i → sget [] (t.core g).mcmds str = sget [] (s.core g).mcmds str) ∧
    (∀ c d v, Claims.matrixRefused w g i a b = some (c, d, v) → exec i s = .next (refuse s s.actor c d v)) ∧
    (Claims.matrixRefused w g i a b = none ↔ Claims.matrixFits w g i a b)

/-- What single commands of the matrix engine write: an MZERO that no mismatch has stopped at s + 2 + i zeroes rows 16 i to
16 i + 15 of its bank, and at the end of s + 9 clears the bank's SAT after every latch of the cycle; MCHK at the end of s
sets its array's tolerance to the low 32 bits of s(a); MWBD in s sets the mode of its page (09: R252, R257, R259). -/
def Sys2Proof.Claims.MatrixWrites : Prop :=
  ∀ (s : State) (g : Nat) (m : MCmd) (s0 : Nat), m.s = some s0 →
    let x := s.core g
    let now := s.sccOf (s.partOfCore g)
    let y := (meWriteLast s g m).core g
    (∀ h o z, m.i = .mzero h o z → m.status = 0 → now = s0 + 9 → sget false y.sat z.acc.toNat = false ∧
      ∀ b, b ≠ z.acc.toNat → sget false y.sat b = sget false x.sat b) ∧
    (∀ h o z i, m.i = .mzero h o z → m.status = 0 → i < 8 → now = s0 + 2 + i → ∀ k, sget 0 ((meWrite s g m).core g).acc k =
      if 16384 * z.acc.toNat + 2048 * i ≤ k ∧ k < 16384 * z.acc.toNat + 2048 * (i + 1) then 0 else sget 0 x.acc k) ∧
    (∀ h o z, m.i = .mchk h o z → now = s0 → sget 0x37800000 y.chktol (if z.arr then 1 else 0) = m.s1.setWidth 32 ∧
      y.sat = x.sat) ∧
    ∀ h o z, m.i = .mwbd h o z → now = s0 → sget 0 ((meWrite s g m).core g).wbMode m.s1.toNat = m.s2.toNat % 4

/-- The products of MMUL and MMULS. A row of A is 32 elements, a column of B of MMUL 32 elements; of a row and a column that are
not poisoned the partial is their exact sum of products under sat32, and otherwise it is +0 and poison; the bank's SAT is to be
set when one saturates. A latch that its check passes puts them, for every element, in its array's partial register (05: R141; 09:
R246, R249). -/
def Sys2Proof.Claims.Products : Prop :=
  (∀ (t x poi i : Nat), i < 128 → ((aLines t x poi).map Line.v).getD i [] = (List.range 32).map fun k => elemInt t (elem t x (32 * i + k))) ∧
  (∀ (h : Hdr) (o : A3) (z : XM) (t x j : Nat), j < 128 →
    ((bLines (.mmul h o z) t x).map Line.v).getD j [] = (List.range 32).map fun k => elemInt t (elem t x (32 * j + k))) ∧
  (∀ (rows cols : List Line) (d i j : Nat), rows.length = 128 → cols.length = 128 → i < 128 → j < 128 →
    let r := rows.getD i ⟨[], false⟩
    let c := cols.getD j ⟨[], false⟩
    let p := productOf rows cols d
    let e : Int := ((r.v.zip c.v).map fun y => y.1 * y.2).sum
    sget false p.poi (128 * i + j) = (r.poi || c.poi) ∧
    sget 0 p.vals (128 * i + j) = (if r.poi || c.poi then 0 else BitVec.ofNat 32 (sat32 e d).1) ∧
    (r.poi = false → c.poi = false → (sat32 e d).2 = true → p.sat = true)) ∧
  (∀ (s : State) (g : Nat) (m : MCmd) (h : Hdr) (o : A3) (z : XM), m.i = .mmul h o z ∨ m.i = .mmuls h o z →
    bits (csrNat (s.core g).k csrDiaginj) 63 63 = 0 →
    let p := productOf (aLines z.ta.toNat m.abuf m.apoi) (bLines m.i z.tb.toNat m.bbuf) (2 ^ (scaleOf z.ta.toNat + scaleOf z.tb.toNat))
    (latchOf s g m).vals = p.vals ∧ (latchOf s g m).poi = p.poi ∧ (latchOf s g m).sat = p.sat) ∧
  ∀ (s : State) (g : Nat) (m : MCmd) (h : Hdr) (o : A3) (z : XM), m.i = .mmul h o z ∨ m.i = .mmuls h o z → m.ecc = false →
    let l := latchOf s g m
    let t := (meLatch s g m).1
    l.col = 0xFF → l.row = 0xFF →
    (∀ k < 16384, sget 0 (t.core g).part (16384 * (if z.arr then 1 else 0) + k) = sget 0 l.vals k ∧
      sget false (t.core g).partP (16384 * (if z.arr then 1 else 0) + k) = sget false l.poi k) ∧
    (l.sat = true → sget false (t.core g).sat z.acc.toNat = true) ∧ (t.core g).acc = (s.core g).acc

/-- What MACC and MSACC add at the end of s + 2 + i, in rows 16 i to 16 i + 15 of their bank: an element whose partial is
poison, or whose scale is, becomes poison and keeps its value; any other one becomes its value plus the partial, times both
scales for MSACC, under sat32, and keeps its poison bit; every other element is left (05: R142; 09: R244, R251). -/
def Sys2Proof.Claims.Accumulates : Prop :=
  ∀ (s : State) (g : Nat) (m : MCmd) (s0 i : Nat) (h : Hdr) (o : A3) (z : XM), m.s = some s0 → m.status = 0 → i < 8 →
    s.sccOf (s.partOfCore g) = s0 + 2 + i → m.i = .macc h o z ∨ m.i = .msacc h o z →
    let x := s.core g
    let y := (meWrite s g m).core g
    let scaled : Bool := decide (m.i = .msacc h o z)
    ∀ k, 2048 * i ≤ k → k < 2048 * (i + 1) →
      let ix := 16384 * z.acc.toNat + k
      let cr := elem 11 m.abuf (k / 128) % 512
      let cc := elem 11 m.bbuf (k % 128) % 512
      let f : Val := if scaled then Val.mul (scale9 cr) (scale9 cc) else .fin false 1 1
      let e := Val.add 0 (f32 (sget 0 x.acc ix).toNat) (Val.mul (f32 (sget 0 m.rows k).toNat) f)
      let lost : Prop := sget false m.rpoi k = true ∨ scaled = true ∧ (cr = 0x1FF ∨ cc = 0x1FF)
      (∀ n, n < 16384 * z.acc.toNat + 2048 * i ∨ 16384 * z.acc.toNat + 2048 * (i + 1) ≤ n → sget 0 y.acc n = sget 0 x.acc n) ∧
      (sget false x.accEcc ix = false →
        (lost → sget false y.accP ix = true ∧ sget 0 y.acc ix = sget 0 x.acc ix) ∧
        (¬ lost → sget false y.accP ix = sget false x.accP ix ∧ sget 0 y.acc ix = BitVec.ofNat 32 (sat32 e.num e.den).1 ∧
          ((sat32 e.num e.den).2 = true → sget false y.sat z.acc.toNat = true)))

/-- What MRD writes: 16, 32, 64 or 128 rows by the width of its format, element m of them at position m; a poisoned one as the
code of +0, any other one rounded from its FP32 value in mode RM with its draw word (05: R138; 09: R253). -/
def Sys2Proof.Claims.Readouts : Prop :=
  ∀ (t rm row bank : Nat) (acc : SMap W32) (accP : SMap Bool) (u : Nat → Nat),
    let rows := if bitsOf t = 32 then 16 else if bitsOf t = 16 then 32 else if bitsOf t = 4 then 128 else 64
    let code (m : Nat) : Nat :=
      let ix := 16384 * bank + 128 * row + m
      if sget false accP ix then rnd t (.fin false 0 1) 0 0 else rnd t (f32 (sget 0 acc ix).toNat) rm (u m)
    (readout t rm row bank acc accP u).1 = ((List.range (128 * rows)).map fun m => code m * 2 ^ (bitsOf t * m)).sum

/-- A command of the matrix engine that may start does so in this cycle: MZERO, MACC and MSACC are done nine cycles later,
and one that starts is no more the head of its stream; a command that has completed gives its word to cq, with VALID, the
engine, its stream, code, status, its iteration mod 2^24, its number and its count; MZERO, MCHK and MWBD write what they
name; MMUL and MMULS latch their products, MACC and MSACC add them, and MRD reads them out (05: R138, R141, R142; 09: R242,
R243, R249, R251 to R253, R257, R259; 10: R294).
Completion of: mmul, mmuls, msacc, macc, mzero, mrd, mwbl, mwbd, mscl, mchk, mfen, meCommandStart, meCommandComplete. -/
def Obligations.MatrixEvents : Prop :=
  Sys2Proof.Claims.MatrixEnters ∧ Sys2Proof.Claims.MatrixWrites ∧ Sys2Proof.Claims.Products ∧ Sys2Proof.Claims.Accumulates ∧
  Sys2Proof.Claims.Readouts ∧
  (∀ (s : State) (m : MCmd), meMayStart s s.unit s.sub = true → meHead (s.core s.unit) s.sub = some m →
    let now := s.sccOf (s.partOfCore s.unit)
    strOf m.i = s.sub →
    ∃ t m', exec .meCommandStart s = .next t ∧ m' ∈ sget [] (t.core s.unit).mcmds s.sub ∧ m'.id = m.id ∧ m'.i = m.i ∧
      m'.s = some now ∧
      (match m.i with
       | .msacc _ _ _ | .macc _ _ _ | .mzero _ _ _ => m'.doneAt = some (now + 9) ∧ ∃ arr, sget 0 (t.core s.unit).accFree arr = now + 8
       | .mwbd _ _ _ | .mchk _ _ _ => m'.doneAt = some now
       | .mmul _ _ _ | .mmuls _ _ _ => ∃ arr, sget 0 (t.core s.unit).mulFree arr = now + multiplyTime m.i
       | _ => True)) ∧
  ∀ (s : State) (m : MCmd), s.worked = true → meDone s s.unit s.sub = some m → (s.core s.unit).cq.length < 64 →
    ((s.core s.unit).cqWait.all fun e => e.1 ≠ s.sub) = true → s.sub < 4 →
    ∃ t w, exec .meCommandComplete s = .next t ∧ (t.core s.unit).cq = (s.core s.unit).cq ++ [({ word := w } : CqWord)] ∧
      w.getLsbD 0 = true ∧ w.getLsbD 1 = true ∧ (w.extractLsb' 2 2).toNat = s.sub ∧
      (w.extractLsb' 4 4).toNat = meCode m.i ∧ (w.extractLsb' 8 8).toNat = 0 ∧ (w.extractLsb' 56 8).toNat = m.seq % 256 ∧
      (w.extractLsb' 32 24).toNat = m.iter % 2 ^ 24 ∧ (w.extractLsb' 64 64).toNat = m.count % 2 ^ 64 ∧
      (m.status < 2 ^ 16 → (w.extractLsb' 16 16).toNat = if m.status = 0 ∧ m.ecc = true then 9 else m.status)

namespace Sys2Proof.Claims

/-- A result of register d with value v is on its way in an LBP, due at the end of its cycle. -/
def lbpResult (s : State) (n : Nat) (d : Code) (v : DWord) : Prop :=
  ∃ l ∈ (s.lbp n).pend, l.due = s.wcc ∧ l.eff = .reg .k d v

end Sys2Proof.Claims

/-- The samples of TAP and REMAP. A window row of TAP gives lane j the KW samples from x0 + STEP j on, their columns held
within the stage's width, of a work slot or of the row r0 + ky of the current frame, held within its height, which lies in
the ring; a lane of TAP is the exact sum of coefficients times samples, rounded once. A lane of REMAP weighs four samples by
its fractions, in 256ths, leaves out those of weight 0, and is rounded once (12: R334, R336, R337). -/
def Sys2Proof.Claims.Stencils : Prop :=
  (∀ (s : State) (n kw step ky row j kx : Nat) (v : VOp) (src : Bool), tapWindow s n v src kw step ky = .ok row → j < v.n → kx < kw →
    let l := s.lbp n
    let wid := lbpWid s n
    let r := sx (v.s1.toNat / 2 ^ 16) 16 + (ky : Int)
    let col := min (max (sx v.s1.toNat 16 + ((step * j + kx : Nat) : Int)) 0).toNat (wid - 1)
    let q := (v.draw + min (max r 0).toNat (lbpHgt s n - 1)) % 2 ^ 64
    elem 11 row (kw * j + kx) = l.sample (if src then r.toNat else q % lbpNin s n) col ∧ (src = false → l.rin ≤ q ∧ q < l.ain)) ∧
  (∀ (a : Actor) (v : VOp) (h : Hdr) (o : A3) (src : Bool) (inf : B2) (t : B4) (kh kw : B3) (step : B6) (j : Nat),
    v.i = .tap h o src inf t kh kw step →
    let term (ky kx : Nat) : Val := Val.mul (finite16 (decode5 1 (v.lane 2 (kw.toNat * ky + kx))))
      (sampleVal inf.toNat (elem 11 (v.opnd (16 + ky)) (kw.toNat * j + kx)))
    v.value a j = some (roundSum t.toNat (((List.range kh.toNat).flatMap fun ky => (List.range kw.toNat).map (term ky)).foldl
      (Val.add 0) Val.zero))) ∧
  ∀ (a : Actor) (v : VOp) (h : Hdr) (o : A3) (inf : B2) (t : B4) (j : Nat), v.i = .remap h o inf t →
    let y : Int := -((min (v.lane 4 j) 1536 : Nat) : Int)
    let fx := v.lane 1 j % 16
    let fy := (y % 16).toNat
    let term (k : Nat) : Val := Val.mul (.fin false ((if k % 2 = 0 then 16 - fx else fx) * (if k < 2 then 16 - fy else fy)) 256)
      (sampleVal inf.toNat (elem 11 (v.opnd 16) (4 * j + k)))
    v.value a j = some (roundSum t.toNat ((((List.range 4).filter fun k =>
      decide ((if k % 2 = 0 then 16 - fx else fx) * (if k < 2 then 16 - fy else fy) ≠ 0)).map term).foldl (Val.add 0) Val.zero)) ∧
    (v.remapOf j).2 = (v.lane 1 j / 16, y / 16)

/-- The row instructions of an LBP that read its input ring. ROWIN.WAIT on a row that has come gives its row index,
substitution bit and frame, and makes its frame the current one; on one that has not it waits and nothing but that is
noted. ROWIN.REL of no more rows than the ring holds releases them in this cycle, and of more is refused. ROWIN.CNT gives AIN.
TAP enters the vector engine, a TAP.W only when its slots are work slots that no row is on its way to; TAP and REMAP compute their
samples (12: R331, R334 to R337; 18: R447).
Completion of: tap, rowinWait, rowinRel, rowinCnt. -/
def Obligations.RowsIn : Prop :=
  Sys2Proof.Claims.Stencils ∧
  (∀ (h : Hdr) (d a : Code) (s : State) (n : Nat), s.actor = .lbp n → Unhindered h (.rowinWait h d a) s →
    let q := (s.rd a).toNat
    let rm := (s.lbp n).entry (q % lbpNin s n)
    (q < (s.lbp n).ain →
      ∃ t, exec (.rowinWait h d a) s = .next (issued h (.rowinWait h d a) .seq s t) ∧ (t.lbp n).fb = s.rd a - BitVec.ofNat 64 rm.row ∧
        (t.lbp n).cf = rm.frame ∧ (s.lbp n).ain ≤ (t.lbp n).claimed ∧
        Claims.lbpResult t n d (BitVec.ofNat 64 (rm.row % 2 ^ 16 + (if rm.sub then 2 ^ 16 else 0) + rm.frame % 2 ^ 32 * 2 ^ 32))) ∧
    ((s.lbp n).ain ≤ q → ∃ t, exec (.rowinWait h d a) s = .next t ∧ (t.lbp n).seqr.pc = (s.lbp n).seqr.pc ∧
      (t.lbp n).seqr.blocked = true ∧ (t.lbp n).rows = (s.lbp n).rows ∧ (t.lbp n).fb = (s.lbp n).fb)) ∧
  (∀ (h : Hdr) (a : Code) (s : State) (n : Nat), s.actor = .lbp n → Unhindered h (.rowinRel h a) s →
    let v := (s.rd a).toNat
    (v ≤ (s.lbp n).ain - (s.lbp n).rin → ∃ t, exec (.rowinRel h a) s = .next (issued h (.rowinRel h a) .seq s t) ∧
      (t.lbp n).relNow = v ∧ ∀ u : State, u.lbp n = t.lbp n → v ≠ 0 → ((releaseRows u n).lbp n).rin = (s.lbp n).rin + v) ∧
    ((s.lbp n).ain - (s.lbp n).rin < v →
      exec (.rowinRel h a) s = .next (refuse s s.actor .illegalOperand 0x0601 (word0Val (.rowinRel h a))))) ∧
  (∀ (h : Hdr) (d : Code) (s : State) (n : Nat), s.actor = .lbp n → Unhindered h (.rowinCnt h d) s →
    ∃ t, exec (.rowinCnt h d) s = .next (issued h (.rowinCnt h d) .seq s t) ∧ (s.lbp n).ain ≤ (t.lbp n).claimed ∧
      Claims.lbpResult t n d (BitVec.ofNat 64 (s.lbp n).ain)) ∧
  ∀ (h : Hdr) (o : A3) (src : Bool) (inf : B2) (t : B4) (kh kw : B3) (step : B6) (s : State) (n : Nat), s.actor = .lbp n →
    let i : Instr := .tap h o src inf t kh kw step
    Unhindered h i s →
    let w := waited h s
    let lanes := lanesOf w s.actor i
    let nch := chunksOf true i lanes
    vecReady w s.actor i lanes nch (namedLane true i (vecScalar w i 2)) = true →
    (src = true → tapSlotsOk w n (vecScalar w i 1) kh.toNat = true ∧ slotComing w n (vecScalar w i 1) kh.toNat = false) →
    ∃ t v, exec i s = .next (issued h i .seq s t) ∧ (t.lbp n).vops = (s.lbp n).vops ++ [v] ∧ Claims.entered v i s.wcc lanes nch

/-- A stage's row leaves through its send port, which must be free. ROWOUT.NEXT, whose next stage has room, sends the first
W samples of the output row with the metadata of its row and the row index and width of s(b); ROWOUT.SLOT sends its samples
to a work slot; TILEOUT, whose ring reports a free unit (as log entry 51 has it) and may take the row, sends it to its ring.
An operand outside its range is refused; a NEXT field that names no LBP is refused as the model has it (log entry 52) (12:
R338 to R340; 18: R447). -/
def Sys2Proof.Claims.RowsOut : Prop :=
  (∀ (h : Hdr) (a b : Code) (s : State) (n : Nat), s.actor = .lbp n → Unhindered h (.rowoutNext h a b) s →
    let q := (s.rd a).toNat
    let x := (s.rd b).toNat
    let width := bits x 28 16
    let m := lbpNext s n
    let i : Instr := .rowoutNext h a b
    let w := waited h s
    s.sendBusy n = false →
    (m < 64 → nextFull w m = false → 1 ≤ width → width ≤ 4096 → (s.lbp n).holds q = true →
      ∃ t rm, exec i s = .next (issued h i .seq s t) ∧
        (t.lbp n).sends = (s.lbp n).sends ++
          [(s.wcc + 2 + ceilDiv (2 * width) 256, .next m rm ((s.lbp n).orb.read 0 (2 * width)))] ∧
        rm.row = bits x 15 0 ∧ rm.width = width ∧ rm.frame = ((s.lbp n).entry (q % lbpNin s n)).frame ∧
        rm.tcap = ((s.lbp n).entry (q % lbpNin s n)).tcap ∧ rm.tmid = ((s.lbp n).entry (q % lbpNin s n)).tmid ∧
        rm.sub = ((s.lbp n).entry (q % lbpNin s n)).sub) ∧
    (64 ≤ m → exec i s = .next (refuse s s.actor .illegalOperand 0x0608 (word0Val i))) ∧
    (m < 64 → nextFull w m = false → width = 0 ∨ 4096 < width →
      exec i s = .next (refuse s s.actor .illegalOperand 0x0602 (word0Val i))) ∧
    (m < 64 → nextFull w m = false → 1 ≤ width → width ≤ 4096 → (s.lbp n).holds q = false →
      exec i s = .next (refuse s s.actor .illegalOperand 0x0601 (word0Val i)))) ∧
  (∀ (h : Hdr) (a b : Code) (s : State) (n : Nat), s.actor = .lbp n → Unhindered h (.rowoutSlot h a b) s →
    let width := bits (s.rd a).toNat 12 0
    let k := bits (s.rd b).toNat 6 0
    let i : Instr := .rowoutSlot h a b
    s.sendBusy n = false →
    (lbpNin s n ≤ k → width ≤ 4096 → ∃ t, exec i s = .next (issued h i .seq s t) ∧
      (t.lbp n).sends = (s.lbp n).sends ++ [(s.wcc + 1 + ceilDiv (2 * width) 256, .slot k ((s.lbp n).orb.read 0 (2 * width)))]) ∧
    (k < lbpNin s n → exec i s = .next (refuse s s.actor .illegalOperand 0x0602 (word0Val i))) ∧
    (lbpNin s n ≤ k → 4096 < width → exec i s = .next (refuse s s.actor .illegalOperand 0x0601 (word0Val i)))) ∧
  ∀ (h : Hdr) (a b : Code) (t : B4) (ring : B8) (ch : B4) (s : State) (n p : Nat), s.actor = .lbp n →
    let i : Instr := .tileout h a b t ring ch
    Unhindered h i s → s.partOf (.lbp n) = p → p < 4 → s.sendBusy n = false →
    let w := waited h s
    let width := bits (s.rd b).toNat 28 16
    (reportFree w p ring.toNat).1 ≠ 0 →
    (tileBad (reportFree w p ring.toNat).2 n p ring.toNat width = none →
      ∃ t' claimAt pubAt rm, exec i s = .next (issued h i .seq s t') ∧ s.wcc < claimAt ∧ claimAt ≤ pubAt ∧
        (t'.lbp n).sends = (s.lbp n).sends ++ [(claimAt, .claim ring.toNat rm t.toNat ch.toNat (bits (s.rd b).toNat 15 0)
          ((s.lbp n).orb.read 0 (2 * width)) pubAt)]) ∧
    (∀ f, tileBad (reportFree w p ring.toNat).2 n p ring.toNat width = some f →
      exec i s = .next (refuse s s.actor .illegalOperand (0x0600 + f) (word0Val i)))

/-- A row that reaches the next stage takes the slot of its ordinal, its metadata and the next ordinal, and no other stage
changes; a row that reaches a work slot changes that slot's bytes alone (12: R331, R338). -/
def Sys2Proof.Claims.RowsArrive : Prop :=
  (∀ (s : State) (n : Nat) (rm : RowMeta) (data : Bytes),
    let l := s.lbp n
    let k := l.ain % lbpNin s n
    let t := appendRow s n rm data
    (t.lbp n).ain = l.ain + 1 ∧ (t.lbp n).rin = l.rin ∧ (t.lbp n).entry k = rm ∧
      (∀ j, j ≠ k → (t.lbp n).entry j = l.entry j) ∧
      (∀ x, (t.lbp n).buf.byte x =
        if 8192 * k ≤ x ∧ x < 8192 * k + data.length then data.getD (x - 8192 * k) 0 else l.buf.byte x) ∧
      ∀ m, m ≠ n → t.lbp m = s.lbp m) ∧
  ∀ (s : State) (n k : Nat) (data : Bytes),
    let t := sendOne s n (.slot k data)
    (t.lbp n).rows = (s.lbp n).rows ∧ (t.lbp n).ain = (s.lbp n).ain ∧
      ∀ x, (t.lbp n).buf.byte x =
        if 8192 * k ≤ x ∧ x < 8192 * k + data.length then data.getD (x - 8192 * k) 0 else (s.lbp n).buf.byte x

/-- Rows leave a stage through its send port, and reach the next stage or a work slot; the free count that TILEOUT's ring reports
is that of log entry 51, and the refusal of a NEXT field that names no LBP that of 52 (12: R331, R338 to R340).
Completion of: rowoutNext, rowoutSlot, tileout. -/
def Obligations.RowsLeave : Prop := Sys2Proof.Claims.RowsOut ∧ Sys2Proof.Claims.RowsArrive

namespace Sys2Proof.Claims

/-- The scalar loads (10: R264): destination, width in bytes, effective address. -/
def load (i : Instr) (s : State) : Option (Hdr × Code × Nat × Nat) :=
  let short (a : Code) (w : Nat) (off : B6) : Nat := (s.rd a + BitVec.ofInt 64 (w * off.toInt)).toNat
  let long (a : Code) (off : B28) : Nat := (s.rd a + off.signExtend 64).toNat
  match i with
  | .ldB h d a off => some (h, d, 1, short a 1 off)
  | .ldH h d a off => some (h, d, 2, short a 2 off)
  | .ldW h d a off => some (h, d, 4, short a 4 off)
  | .ldD h d a off => some (h, d, 8, short a 8 off)
  | .ldBX h d a off => some (h, d, 1, long a off)
  | .ldHX h d a off => some (h, d, 2, long a off)
  | .ldWX h d a off => some (h, d, 4, long a off)
  | .ldDX h d a off => some (h, d, 8, long a off)
  | _ => none

/-- The scalar stores (10: R264): the register stored, width in bytes, effective address. -/
def store (i : Instr) (s : State) : Option (Hdr × Code × Nat × Nat) :=
  let short (a : Code) (w : Nat) (off : B6) : Nat := (s.rd a + BitVec.ofInt 64 (w * off.toInt)).toNat
  let long (a : Code) (off : B28) : Nat := (s.rd a + off.signExtend 64).toNat
  match i with
  | .stB h d a off => some (h, d, 1, short a 1 off)
  | .stH h d a off => some (h, d, 2, short a 2 off)
  | .stW h d a off => some (h, d, 4, short a 4 off)
  | .stD h d a off => some (h, d, 8, short a 8 off)
  | .stBX h d a off => some (h, d, 1, long a off)
  | .stHX h d a off => some (h, d, 2, long a off)
  | .stWX h d a off => some (h, d, 4, long a off)
  | .stDX h d a off => some (h, d, 8, long a off)
  | _ => none

/-- Access op of the actor that issued it is on its way in t: in timed code it performs in cycle due, in tokened code it is a
request that reaches its bank in that cycle (04: R106). -/
def onWay (s t : State) (due : Nat) (op : MemOp) : Prop :=
  (s.timedOf s.actor = true → ∃ l ∈ t.pendOf s.actor, l.due = due ∧ l.eff = .perform op) ∧
  (s.timedOf s.actor = false → ∃ r ∈ t.reqs, r.own = s.actor ∧ r.arrive = due ∧ r.parts = op.sectors ∧ r.op = op)

/-- The instructions that reach memory, and those of queues, blocks and rings (10: R264 to R272, R278). -/
def memory (i : Instr) : Bool :=
  match i with
  | .ldB _ _ _ _ | .ldH _ _ _ _ | .ldW _ _ _ _ | .ldD _ _ _ _ | .ldBX _ _ _ _ | .ldHX _ _ _ _ | .ldWX _ _ _ _ | .ldDX _ _ _ _
  | .stB _ _ _ _ | .stH _ _ _ _ | .stW _ _ _ _ | .stD _ _ _ _ | .stBX _ _ _ _ | .stHX _ _ _ _ | .stWX _ _ _ _ | .stDX _ _ _ _
  | .vld _ _ _ | .vst _ _ _ | .vldx _ _ _ | .vstx _ _ _ | .rdq _ _ _ | .wrq _ _ _ _ _ | .lblk _ _ _ | .lbinv _ _ | .lbwb _ _
  | .lbst _ _ _ | .rclaim _ _ _ | .rpub _ _ _ | .rrel _ _ _ | .brmw _ _ _ => true
  | _ => false

/-- What no memory instruction changes in its issue cycle of a tile core: all but what `contents` leaves out and the cycles
from which its ports are free. -/
def stored (x : Core) : Core := { contents x with portFree := 0, ceFree := 0 }

end Sys2Proof.Claims

/-- A scalar load or store of a tile core that nothing keeps back, at an aligned address each byte of which its core may
touch, issues, and its access is on its way with the latency of its class: a load of w bytes for its register, or a store of
the low w bytes of its register. At a misaligned address it traps with BOUNDS, 2, also where it may not touch it (log entry 44),
and at another that it may not touch with BOUNDS, 1 (10: R264; 04: R106; 17: R417). -/
def Sys2Proof.Claims.LoadsAndStores : Prop :=
  ∀ (i : Instr) (s : State) (h : Hdr) (d : Code) (w ea g : Nat) (q : SeqId), s.actor = .core g q → Unhindered h i s →
    (Claims.load i s = some (h, d, w, ea) ∨ Claims.store i s = some (h, d, w, ea)) →
    let op : MemOp := if Claims.load i s = some (h, d, w, ea) then .load d ea w
      else .store (runCells ea (natLe w (s.rd d).toNat))
    (ea % w = 0 → badByte s g ea w = none →
      (Claims.load i s = some (h, d, w, ea) → destFree (waited h s) d (accLat s g ea w) = true) →
      exec i s = .next (issued h i .seq s (access (waited h s) i (accLat s g ea w) op)) ∧
      Claims.onWay s (access (waited h s) i (accLat s g ea w) op) (s.now s.actor + accLat s g ea w) op) ∧
    (ea % w ≠ 0 → exec i s = .next (refuse s s.actor .bounds 2 (BitVec.ofNat 64 ea))) ∧
    ∀ x, ea % w = 0 → badByte s g ea w = some x → exec i s = .next (refuse s s.actor .bounds 1 (BitVec.ofNat 64 x))

/-- The management controller's loads and stores reach its memory at once, below 4 MiB, and the registers above: a load is a
result of latency 2, a store to a register a register write of the next cycle (log entry 57); a misaligned one, or one past its
space, is refused, with DETAIL 2 where it is both (log entry 44). Behind a fence of its own it waits (log entry 100) (13: R346;
18: R429; 04: R115). -/
def Sys2Proof.Claims.ManagementAccesses : Prop :=
  ∀ (i : Instr) (s : State) (h : Hdr) (d : Code) (w ea : Nat), s.actor = .mgmt → Unhindered h i s →
    (Claims.load i s = some (h, d, w, ea) → ea % w = 0 → ea + w ≤ 0x800000 → s.me.fences = [] →
      destFree (waited h s) d 1 = true →
      let v := BitVec.ofNat 64 (leNat (mgmtRead s ea w))
      exec i s = .next (issued h i .seq s ((noteIssue (waited h s) .mgmt 0 ea (some v)).result i d 2 v))) ∧
    (Claims.store i s = some (h, d, w, ea) → ea % w = 0 → ea + w ≤ 0x400000 → s.me.fences = [] →
      ∃ t, exec i s = .next (issued h i .seq s t) ∧
        ∀ x, t.mgmtMem.byte x = if ea ≤ x ∧ x < ea + w then BitVec.ofNat 8 ((s.rd d).toNat / 256 ^ (x - ea)) else s.mgmtMem.byte x) ∧
    (Claims.store i s = some (h, d, w, ea) → ea % w = 0 → 0x400000 ≤ ea → ea + w ≤ 0x800000 → s.me.fences = [] →
      ∃ t, exec i s = .next (issued h i .seq s t) ∧ t.mgmtMem = s.mgmtMem ∧
        t.inputs = s.inputs ++ [(s.wcc + 1, .registerWrite (ea - 0x400000) w (BitVec.ofNat 64 (leNat (natLe w (s.rd d).toNat))))]) ∧
    ((Claims.load i s = some (h, d, w, ea) ∨ Claims.store i s = some (h, d, w, ea)) →
      (ea % w = 0 → ea + w ≤ 0x800000 → s.me.fences ≠ [] → ∃ t, exec i s = .next t ∧ t.mgmtMem = s.mgmtMem ∧
        (t.seqr .mgmt).pc = s.me.pc) ∧
      (ea % w ≠ 0 → exec i s = .next (refuse s s.actor .bounds 2 (BitVec.ofNat 64 ea))) ∧
      (ea % w = 0 → 0x800000 < ea + w → exec i s = .next (refuse s s.actor .bounds 1 (BitVec.ofNat 64 ea))))

/-- Scalar loads and stores of a tile core and of the management controller. An address that is both misaligned and not admitted
gives DETAIL 2 (log entry 44); the management controller's register stores act in the next cycle (57), and its fences keep
its own later accesses (100) (10: R264; 04: R106; 13: R346; 17: R417).
Completion of: ldB, ldH, ldW, ldD, stB, stH, stW, stD, ldBX, ldHX, ldWX, ldDX, stBX, stHX, stWX, stDX. -/
def Obligations.ScalarAccesses : Prop := Sys2Proof.Claims.LoadsAndStores ∧ Sys2Proof.Claims.ManagementAccesses

/-- Whatever comes of the issue of a memory instruction of a tile core, in its issue cycle no byte of memory in either view
changes, no scalar register, and nothing of a core but its sequencers, traps, ports and what is on its way (10: R263 to R272). -/
def Obligations.MemoryFrame : Prop :=
  ∀ (i : Instr) (s t : State) (g : Nat) (q : SeqId), s.actor = .core g q → Claims.memory i = true →
    s.canIssue s.actor = true → exec i s = .next t →
    (∀ j, Claims.stored (t.core j) = Claims.stored (s.core j)) ∧
    (∀ n, t.lbp n = s.lbp n) ∧
    (∀ a c, readS (t.seqr a) c = readS (s.seqr a) c) ∧
    ∀ d a n, t.readView d a n = s.readView d a n

/-- A load reads its bytes when it performs: those of the filled L1D block that contains all of them, else those of its
die's view, in timed code too (log entry 75); its register takes the number they hold, zero-extended, at the end of that
cycle, and no byte changes. Where a word is uncorrectable its core traps instead (10: R264; 03: R83; 04: R107, R113; 17:
R417). -/
def Sys2Proof.Claims.LoadPerforms : Prop :=
  ∀ (s : State) (g : Nat) (org : Origin) (id : Nat) (d : Code) (a w : Nat),
    let t := performRead s g org id (.load d a w)
    let lands (v : DWord) : Prop :=
      (t.core g).pend = (s.core g).pend ++ [⟨s.now (.core g org.q), id, org, .reg org.q d v, []⟩] ∧ t.view0 = s.view0 ∧ t.view1 = s.view1
    (coreEccAt s g a w = none → eccOf s a w ≠ 1 → l1Serves (s.core g) a w = none →
      lands (BitVec.ofNat 64 (leNat (s.readView (dieOf g) a w)))) ∧
    (∀ k, coreEccAt s g a w = none → eccOf s a w ≠ 1 → l1Serves (s.core g) a w = some k →
      let e := sget {} (s.core g).l1Dir k
      lands (BitVec.ofNat 64 (leNat ((s.core g).l1d.read (128 * e.line + (a - e.base)) w)))) ∧
    ∀ x, coreEccAt s g a w = some x → t = lateTrap s (.core g org.q) org .eccUncorr (eccDetail s x 1) (BitVec.ofNat 64 x)

/-- A store writes its bytes when it performs, and no others: to a filled L1D block that contains all of them and to nothing
else; otherwise, in timed code, to the memory as every view has it, and in tokened code to its own die's view, the other
view's turn coming later (03: R83, R84; 04: R107, R113). -/
def Sys2Proof.Claims.StorePerforms : Prop :=
  ∀ (s : State) (g : Nat) (q : SeqId) (timed : Bool) (a : Nat) (bs : Bytes),
    let t := coreStore s g q timed a bs
    let put (m m' : Mem) (lo : Nat) : Prop :=
      ∀ x, m'.byte x = if lo ≤ x ∧ x < lo + bs.length then bs.getD (x - lo) 0 else m.byte x
    (∀ k, l1Serves (s.core g) a bs.length = some k →
      let e := sget {} (s.core g).l1Dir k
      put (s.core g).l1d (t.core g).l1d (128 * e.line + (a - e.base)) ∧ t.view0 = s.view0 ∧ t.view1 = s.view1) ∧
    (l1Serves (s.core g) a bs.length = none → timed = true →
      put s.view0 t.view0 a ∧ put s.view1 t.view1 a) ∧
    (l1Serves (s.core g) a bs.length = none → timed = false →
      put (s.view (dieOf g)) (t.view (dieOf g)) a ∧ t.view (1 - dieOf g) = s.view (1 - dieOf g))

/-- The view of a die that applies an untimed write takes its bytes and no others, and the other view does not change; the
write is then applied there and no other write is (04: R112, R113). -/
def Sys2Proof.Claims.WritesApply : Prop :=
  ∀ (s : State) (w : VWrite) (die : Nat) (cs : List (Nat × Byte)), die < 2 → w.left die = some cs →
    let t := applyWrite s w die
    (∀ x, (∀ c ∈ cs, c.1 ≠ x) → (t.view die).byte x = (s.view die).byte x) ∧
    (∀ c ∈ cs, (∀ e ∈ cs, e.1 = c.1 → e.2 = c.2) → (t.view die).byte c.1 = c.2) ∧
    t.view (1 - die) = s.view (1 - die) ∧
    appliedCount t w.part die w.origin = appliedCount s w.part die w.origin + 1 ∧
    ∀ v ∈ t.vwrites, v.id = w.id → v.left die = none

namespace Sys2Proof.Claims

/-- The landing e is on its way in core g, due at the end of cycle due. -/
def coming (t : State) (g due : Nat) (e : Eff) : Prop := ∃ l ∈ (t.core g).pend, l.due = due ∧ l.eff = e

/-- What BRMW leaves where it found x (10: R278). -/
def rmwNew {n : Nat} (op : Nat) (u : Bool) (x y z : BitVec n) : BitVec n :=
  let lt : Bool := if u then x.ult y else x.slt y
  match op with
  | 0 => x + y
  | 1 => if lt then x else y
  | 2 => if lt then y else x
  | 3 => x &&& y
  | 4 => x ||| y
  | 5 => y
  | _ => if x = z then y else x

end Sys2Proof.Claims

/-- VLD, VST, VLDX, VSTX, RDQ and WRQ of a tile core issue when every byte of their accesses may be touched, their registers
are awake and, in tokened code, their port, registers, mask and queue are ready; chunk k of a load performs with the latency of
its class in cycle k from there, chunk k of a store is read in cycle k and written with that latency after it, and each takes
the vector memory port for its chunks (10: R263, R265 to R268; 17: R415, R417).
Completion of: vld, vst, vldx, vstx, rdq, wrq. -/
def Obligations.VectorMemory : Prop :=
  ∀ (i : Instr) (h : Hdr) (s : State) (g : Nat) (q : SeqId), s.actor = .core g q → Unhindered h i s →
    let w := waited h s
    let now := s.now s.actor
    let t := s.timedOf s.actor
    let took (u : State) (n : Nat) : Prop := (u.core g).portFree = now + n
    (∀ o x, i = .vld h o x →
      let lat := chunkLat w g (chunkRuns w o.a o.b x 0)
      (t = false → portReady w g [] ((List.range 8).map fun k => (o.d.toNat, k, now + lat + k)) = true) →
      boundsOf (runFaults w g 64 ((List.range 8).flatMap fun k => bare (chunkRuns w o.a o.b x k)) true ++ tagFaults w g x) = none →
      Claims.allAwake w g i →
      ∃ u, exec i s = .next (issued h i .seq s u) ∧ took u 8 ∧
        ∀ k < 8, Claims.onWay s u (now + lat + k) (.vload o.d.toNat k (chunkRuns w o.a o.b x k))) ∧
    (∀ o x, i = .vst h o x →
      let lat := chunkLat w g (chunkRuns w o.a o.b x 0)
      (t = false → portReady w g ((List.range 8).map fun k => (o.d.toNat, k, now + k)) [] = true) →
      checkRuns w g 64 ((List.range 8).flatMap fun k => bare (chunkRuns w o.a o.b x k)) true = none → Claims.allAwake w g i →
      ∃ u, exec i s = .next (issued h i .seq s u) ∧ took u 8 ∧
        ∀ k < 8, Claims.coming u g (now + k) (.vstChunk o.d.toNat k (chunkRuns w o.a o.b x k) (now + lat + k))) ∧
    (∀ o x, i = .vldx h o x →
      let b := fmtBits x.t.toNat / 8
      let n := lanesOf w (.core g .c) i
      let els := indexed w g n b o.a o.b x
      let lat := indexedLat w g b els
      let nch := max 1 (ceilDiv (b * n) 1024)
      (t = false → maskHeld w g n b x = true ∧
        portReady w g (indexReads o.b n now) ((List.range nch).map fun k => (o.d.toNat, k, now + lat + k)) = true) →
      indexHeld w g n now o.b x.pm = true → checkIndexed w g b t els = none → Claims.allAwake w g i →
      ∃ u, exec i s = .next (issued h i .seq s u) ∧ took u nch ∧
        ∀ e ∈ els, e.1 * b / 1024 < nch → ∃ mine zero, (e.2, e.1 * b % 1024, b) ∈ mine ∧
          Claims.onWay s u (now + (lat + e.1 * b / 1024)) (.vgather o.d.toNat (e.1 * b / 1024) mine zero)) ∧
    (∀ o x, i = .vstx h o x →
      let b := fmtBits x.t.toNat / 8
      let n := lanesOf w (.core g .c) i
      let els := indexed w g n b o.a o.b x
      let lat := indexedLat w g b els
      let nch := max 1 (ceilDiv (b * n) 1024)
      (t = false → maskHeld w g n b x = true ∧
        portReady w g (indexReads o.b n now ++ (List.range nch).map fun k => (o.d.toNat, k, now + k)) [] = true) →
      indexHeld w g n now o.b x.pm = true → checkIndexed w g b t els = none → Claims.allAwake w g i →
      ∃ u, exec i s = .next (issued h i .seq s u) ∧ took u nch ∧
        ∀ e ∈ lastAt els, e.1 * b / 1024 < nch → ∃ mine, (e.2, e.1 * b % 1024, b) ∈ mine ∧
          Claims.coming u g (now + e.1 * b / 1024) (.vscatter o.d.toNat (e.1 * b / 1024) mine (now + lat + e.1 * b / 1024))) ∧
    (∀ o x, i = .rdq h o x →
      let rs := chunkRuns w o.a o.b x 0
      let lat := chunkLat w g rs
      (t = false → portFree w g = true ∧ queueRoom w g (o.d.toNat - 48) 1 = true) →
      boundsOf (runFaults w g 64 (bare rs) true ++ tagFaults w g x) = none →
      ∃ u, exec i s = .next (issued h i .seq s u) ∧ took u 1 ∧ Claims.onWay s u (now + lat) (.qload (o.d.toNat - 48) rs)) ∧
    ∀ d a cnt first, i = .wrq h d a cnt first →
      let qn := d.toNat - 48
      let out : Bool := (queueMode w g qn).1 = 1
      let same : Bool := queueOfCode w g a = some qn
      (t = false → portReady w g ((List.range (cnt.toNat + 1)).map fun j => (a.toNat, first.toNat + j, now + j)) [] = true ∧
        wrqHeld w g (cnt.toNat + 1) now a = true ∧ queueRoom w g qn (if same && !out then 0 else cnt.toNat + 1) = true) →
      (t = true → wrqHeld w g 1 now a = true ∧
        (out = true ∨ same = true ∨ ((w.core g).queue qn).length - popsNow w g qn now < 16)) → Claims.allAwake w g i →
      ∃ u, exec i s = .next (issued h i .seq s u) ∧ took u (cnt.toNat + 1) ∧
        ∀ j ≤ cnt.toNat, Claims.coming u g (now + j) (wrqRead a a.toNat qn j (first.toNat + j))

/-- LBLK gives its entry the block at the end of its cycle and fills its lines two a cycle from the first free cycle of the
core's datapath, each with the latency of the tile store, after the checks of its operands; LBINV invalidates its entry;
LBWB writes a valid block's dirty lines back in the same way, and does nothing for an invalid entry; LBST gives the entry's
flags (10: R270, R271; 03: R81, R82). -/
def Sys2Proof.Claims.LoadBlocks : Prop :=
  ∀ (i : Instr) (h : Hdr) (s : State) (g : Nat) (q : SeqId), s.actor = .core g q → Unhindered h i s →
    let w := waited h s
    let now := s.now s.actor
    (∀ o x, i = .lblk h o x →
      let e := (s.rd o.d).toNat % 256
      let base := (s.rd o.a).toNat
      let line := (s.rd o.b).toNat % 8192
      let n := (s.rd o.b).toNat / 65536 % 64 + 1
      let f := datapathFrom w g
      let lat := if dieOfAddr base = dieOf g then 6 else 30
      ((s.rd o.b).toNat = line + (n - 1) * 65536 → line + n ≤ 6144 →
        boundsOf (runFaults w g 128 [(base, 128 * n)] true ++ tagFaults w g x) = none → (∃ d, regionOf base = .tile d) →
        ∃ u ent, exec i s = .next (issued h i .seq s u) ∧ Claims.coming u g now (.l1Set e ent) ∧ ent.valid = true ∧
          ent.flag = false ∧ ent.nm1 = n - 1 ∧ ent.line = line ∧ ent.base = base ∧ (u.core g).ceFree = f + ceilDiv n 2 ∧
          ∀ j < ceilDiv n 2, Claims.coming u g (f + j + lat)
            (.l1Fill ent.no e (line + 2 * j) (base + 256 * j) (min 2 (n - 2 * j)) (decide (j + 1 = ceilDiv n 2)))) ∧
      ((s.rd o.b).toNat ≠ line + (n - 1) * 65536 ∨ 6144 < line + n →
        exec i s = .next (refuse s s.actor .illegalOperand 0x0602 (word0Val i)))) ∧
    (∀ a, i = .lbinv h a → ∃ u, exec i s = .next (issued h i .seq s u) ∧
      Claims.coming u g now (.l1Inv ((s.rd a).toNat % 256))) ∧
    (∀ a, i = .lbwb h a →
      let e := (s.rd a).toNat % 256
      let x := sget {} (s.core g).l1Dir e
      (x.valid = false → exec i s = .next (issued h i .seq s w)) ∧
      (x.valid = true → ∃ u, exec i s = .next (issued h i .seq s u) ∧
        ∀ j < ceilDiv (x.nm1 + 1) 2, ∃ last, Claims.coming u g (datapathFrom w g + j + if dieOfAddr x.base = dieOf g then 6 else 30)
          (.l1Back e (x.line + 2 * j) (x.base + 256 * j) (min 2 (x.nm1 + 1 - 2 * j)) last))) ∧
    ∀ d a, i = .lbst h d a →
      let x := sget {} (s.core g).l1Dir ((s.rd a).toNat % 256)
      ∃ v, exec i s = .next (issued h i .seq s (w.result i d 1 v)) ∧ v.getLsbD 63 = x.valid ∧ v.getLsbD 62 = x.flag ∧
        v.getLsbD 61 = x.anyd ∧ (v.extractLsb' 55 6).toNat = x.nm1 % 64 ∧ (v.extractLsb' 42 13).toNat = x.line % 8192

/-- LBLK's entry becomes valid with its block, every other entry whose block shares a line with it invalid; LBINV makes its
entry invalid and its lines clean (03: R82; 10: R271). -/
def Sys2Proof.Claims.BlockEntries : Prop :=
  (∀ (x : Core) (e : Nat) (ent : L1Ent), ent.valid = true →
    let y := setBlock x e ent
    sget {} y.l1Dir e = ent ∧
    (∀ k, k ≠ e → ent.line + ent.nm1 < (sget {} x.l1Dir k).line ∨
      (sget {} x.l1Dir k).line + (sget {} x.l1Dir k).nm1 < ent.line → sget {} y.l1Dir k = sget {} x.l1Dir k) ∧
    (∀ k old, k ≠ e → look x.l1Dir k = some old → old.line ≤ ent.line + ent.nm1 → ent.line ≤ old.line + old.nm1 →
      (sget {} y.l1Dir k).valid = false) ∧
    ∀ j ≤ ent.nm1, sget false y.l1Dirty (ent.line + j) = false) ∧
  ∀ (x : Core) (e : Nat), let ent := sget {} x.l1Dir e
    (sget {} (invBlock x e).l1Dir e).valid = false ∧
    (∀ k, k ≠ e → sget {} (invBlock x e).l1Dir k = sget {} x.l1Dir k) ∧
    (ent.valid = true → ∀ j ≤ ent.nm1, sget false (invBlock x e).l1Dirty (ent.line + j) = false)

/-- The block instructions of L1D, and the entries and lines that they leave (03: R81, R82; 10: R270, R271).
Completion of: lblk, lbinv, lbwb, lbst. -/
def Obligations.BlockInstructions : Prop := Sys2Proof.Claims.LoadBlocks ∧ Sys2Proof.Claims.BlockEntries

/-- RCLAIM, RPUB and RREL send their operation of n units to the ring's home, 4 cycles away on its own die and 28 on the
other; a count of 2^48 or more is refused (10: R272; 04: R106; 18: R440). -/
def Sys2Proof.Claims.RingInstructions : Prop :=
  ∀ (i : Instr) (fn : Nat) (h : Hdr) (o : A3) (x : XS) (d : Code) (s : State) (g : Nat) (q : SeqId), s.actor = .core g q →
    Unhindered h i s →
    (i = .rclaim h o x ∧ fn = 0 ∧ d = o.d) ∨ (i = .rpub h o x ∧ fn = 1 ∧ d = 39) ∨ (i = .rrel h o x ∧ fn = 2 ∧ d = 39) →
    let n := (s.rd o.a).toNat
    let near : Bool := (s.ring (s.partOfCore g) x.ring.toNat).home = dieOf g
    let lat := if near then 4 else 28
    (n < 2 ^ 48 → destFree (waited h s) d (if near then 4 else 52) = true → ∃ u, exec i s = .next (issued h i .seq s u) ∧
      Claims.onWay s u (s.now s.actor + lat) (.ring fn x.ring.toNat n d)) ∧
    (2 ^ 48 ≤ n → exec i s = .next (refuse s s.actor .illegalOperand 0x0601 (word0Val i)))

/-- What a ring operation does at its ring: RCLAIM takes units when that many are free and gives the first one's ordinal, and
gives all ones and takes none when they are not; RPUB advances PUB and RREL advances REL; no other ring changes; an operation
that R440 refuses traps. The unit's own state holds no error: one that it holds is recorded first (03: R95; 10: R272; 16: R391;
18: R440). -/
def Sys2Proof.Claims.RingOperations : Prop :=
  ∀ (s : State) (g : Nat) (org : Origin) (id fn n c : Nat) (d : Code),
    let p := s.partOfCore g
    let r := s.ring p n
    let t := ringPerform s g org id fn n c d
    sget 0 s.ctlEcc (ctlRing p n) = 0 →
    (ringBad s p n fn c = none →
      (fn = 0 → c ≤ r.cap - (r.claim - r.rel) → t.ring p n = { r with claim := (r.claim + c) % 2 ^ 48 } ∧
        ∃ due, Claims.coming t g due (.reg org.q d (BitVec.ofNat 64 r.claim))) ∧
      (fn = 0 → r.cap - (r.claim - r.rel) < c → t.ring p n = r ∧
        ∃ due, Claims.coming t g due (.reg org.q d (BitVec.allOnes 64))) ∧
      (fn = 1 → t.ring p n = { r with pub := (r.pub + c) % 2 ^ 48 }) ∧
      (fn = 2 → t.ring p n = { r with rel := (r.rel + c) % 2 ^ 48 }) ∧
      ∀ m, m ≠ n → t.ring p m = s.ring p m) ∧
    ∀ x, ringBad s p n fn c = some x → t = lateTrap s (.core g org.q) org .illegalOperand x (org.w0.setWidth 64)

/-- RCLAIM, RPUB and RREL, and what their operations do at the ring (03: R95; 10: R272; 18: R440).
Completion of: rclaim, rpub, rrel. -/
def Obligations.Rings : Prop := Sys2Proof.Claims.RingInstructions ∧ Sys2Proof.Claims.RingOperations

/-- An await of timed code whose boundary lies at least 33 cycles ahead, in a core with fewer than 8, is registered with its
boundary, condition and ring, and one that lies nearer is refused; an await of tokened code whose ring it may name, and whose
doubleword is not uncorrectable, goes on when its condition holds, and waits where it is while it does not, or while a FENCE of
its sequencer stands; an uncorrectable doubleword traps it (10: R273, R274, R277; 02: R40; 04: R115; 16: R391; 18: R440).
Completion of: awfill, awfree, awrow, awwin, awcmp. -/
def Obligations.Awaits : Prop :=
  ∀ (i : Instr) (kind : Nat) (h : Hdr) (o : A3) (x : XS) (s : State) (g : Nat) (q : SeqId), s.actor = .core g q →
    Unhindered h i s →
    (i = .awfill h o x ∧ kind = 0) ∨ (i = .awfree h o x ∧ kind = 1) ∨ (i = .awrow h o x ∧ kind = 2) ∨
      (i = .awwin h o x ∧ kind = 3) ∨ (i = .awcmp h .eq o x ∧ kind = 4) ∨ (i = .awcmp h .ne o x ∧ kind = 5) ∨
      (i = .awcmp h .ge o x ∧ kind = 6) →
    let w := waited h s
    let addr := if kind < 4 then 0 else (s.rd o.b).toNat
    let rn := x.ring.toNat
    let b := 256 * x.bnd.toNat
    let near := (s.core g).tsb + b < s.now s.actor + 33 ∨ 8 ≤ (s.core g).awaits.length
    (s.timedOf s.actor = true → ¬ near → (4 ≤ kind → checkRuns w g 8 [(addr, 8)] false = none) →
      ∃ u a, exec i s = .next (issued h i .seq s u) ∧ (u.core g).awaits = (s.core g).awaits ++ [a] ∧ a.b = b ∧
        a.at_ = (s.core g).tsb + b ∧
        a.kind = kind ∧ a.ring = rn ∧ a.x = s.rd o.a ∧ a.addr = addr) ∧
    (s.timedOf s.actor = true → near → exec i s = .next (refuse s s.actor .illegalOperand 0x0609 (word0Val i))) ∧
    (s.timedOf s.actor = false → s.me.fences ≠ [] → (4 ≤ kind → checkRuns w g 8 [(addr, 8)] false = none) →
      ∃ u, exec i s = .next u ∧ (u.seqr s.actor).pc = s.me.pc ∧ (u.seqr s.actor).blocked = true) ∧
    (s.timedOf s.actor = false → s.me.fences = [] → (4 ≤ kind → checkRuns w g 8 [(addr, 8)] false = none) →
      (awaitBad w g kind rn = true → exec i s = .next (refuse s s.actor .illegalOperand 0x0801 (word0Val i))) ∧
      let whole : Prop := 4 ≤ kind → eccAt w addr 8 = none
      (∀ x, awaitBad w g kind rn = false → 4 ≤ kind → eccAt w addr 8 = some x →
        exec i s = .next (refuse s s.actor .eccUncorr (eccDetail w addr 8) (BitVec.ofNat 64 x))) ∧
      (awaitBad w g kind rn = false → whole → awaitTrue w g q kind rn (s.rd o.a) addr = true →
        ∃ u, exec i s = .next (issued h i .seq s u)) ∧
      (awaitBad w g kind rn = false → whole → awaitTrue w g q kind rn (s.rd o.a) addr = false →
        ∃ u, exec i s = .next u ∧ (u.seqr s.actor).pc = s.me.pc ∧ (u.seqr s.actor).blocked = true ∧
          (u.seqr s.actor).tokP = s.me.tokP ∧ (u.seqr s.actor).tokN = s.me.tokN))

/-- PHASE makes its core wait at its level, and K of tokened code with it; PSET declares its range, and a length of 0
withdraws it; FENCE in tokened code stands before the accesses that follow it, and has no effect in timed code; MONWAIT
parks its sequencer on its sector for at most 4,096 cycles, and has no effect in timed code; a parked sequencer goes on when
its wait has ended; BRMW sends its operation to its bank, and traps with BOUNDS, 2 at a misaligned address, also one that it
may not touch (log entry 44). PHASE, PSET, FENCE, MONWAIT and BRMW are those of a tile core (10: R275 to R279; 02: R68; 04:
R115).
Completion of: phase, pset, fence, monwait, brmw, monitorResume. -/
def Obligations.PhasesFencesMonitors : Prop :=
  (∀ (i : Instr) (h : Hdr) (s : State) (g : Nat) (q : SeqId), s.actor = .core g q → Unhindered h i s →
    let w := waited h s
    let now := s.now s.actor
    (∀ lev, i = .phase h lev → ∃ u, exec i s = .next (issued h i .seq s u) ∧ (u.core g).phWait = some lev.toNat ∧
      (u.core g).phAt = now ∧ (u.core g).phHold = !s.timedOf s.actor) ∧
    (∀ eng wr idx a b, i = .pset h eng wr idx a b → ∃ u, exec i s = .next (issued h i .seq s u) ∧
      look (u.core g).psets (32 * eng.toNat + 8 * (if wr then 1 else 0) + idx.toNat) =
        if (s.rd b).toNat = 0 then none else some ((s.rd a).toNat, (s.rd b).toNat)) ∧
    (∀ scope v, i = .fence h scope v →
      (s.timedOf s.actor = true → exec i s = .next (issued h i .seq s w)) ∧
      (s.timedOf s.actor = false → ∃ u f, exec i s = .next (issued h i .seq s u) ∧
        (u.seqr s.actor).fences = s.me.fences ++ [f] ∧ f.scope = scope.toNat ∧ f.v = v.toNat ∧ f.id = s.effNo)) ∧
    (∀ a, i = .monwait h a →
      (s.timedOf s.actor = true → exec i s = .next (issued h i .seq s w)) ∧
      (s.timedOf s.actor = false → ∃ u, exec i s = .next (issued h i .seq s u) ∧
        (u.seqr s.actor).park = some ⟨(s.rd a).toNat / 64 * 64, now + 4096⟩ ∧ Claims.coming u g now (.csrAdd q 0x024))) ∧
    ∀ o x, i = .brmw h o x →
      let b := if x.w = 3 then 8 else 4
      let a := (s.rd o.a).toNat
      (a % b = 0 → badByte s g a b = none →
        destFree w o.d (rmwLat g a + (if regionOf a ≠ .spad g ∧ dieOfAddr a ≠ dieOf g then 26 else 2)) = true → ∃ u, exec i s = .next (issued h i .seq s u) ∧
        Claims.onWay s u (now + rmwLat g a) (.rmw o.d a b x.op.toNat x.u (s.rd o.b) (s.rd x.c))) ∧
      (a % b ≠ 0 → exec i s = .next (refuse s s.actor .bounds 2 (BitVec.ofNat 64 a)))) ∧
  ∀ (s : State) (p : Park), s.me.park = some p → p.upTo ≤ s.now s.actor → s.unitRuns s.actor = true →
    ∃ t, exec .monitorResume s = .next t ∧ t.me.park = none ∧ t.me.pc = s.me.pc ∧ t.me.regs = s.me.regs

/-- A BRMW reads its w bytes in the order of the writes to them, gives the old number to its register, on the other die 24
cycles later, and writes the new one two cycles after it has read (10: R278). -/
def Sys2Proof.Claims.AtomicPerforms : Prop :=
  ∀ (s : State) (g : Nat) (org : Origin) (id : Nat) (d : Code) (a w op : Nat) (u : Bool) (y z : DWord),
    w = 4 ∨ w = 8 → eccAt s a w = none →
    let t := rmwPerform s g org id d a w op u y z
    let x := leNat (latestRead s a w)
    let new := Claims.rmwNew op u (BitVec.ofNat (8 * w) x) (y.setWidth (8 * w)) (z.setWidth (8 * w))
    let p := s.now (.core g org.q)
    let late := if regionOf a ≠ .spad g ∧ dieOfAddr a ≠ dieOf g then 24 else 0
    (t.core g).pend = (s.core g).pend ++ [⟨p + 2 + late, id, org, .reg org.q d (BitVec.ofNat 64 x), []⟩,
      ⟨p + 2, id, org, .perform (.rmwWrite (runCells a (natLe w new.toNat))), []⟩] ∧
    t.view0 = s.view0 ∧ t.view1 = s.view1

/-- What a load reads, a store writes and a BRMW does when it performs; that a timed load reads the view of its own die is log
entry 75 (10: R264, R278; 03: R83, R84; 04: R107, R113). -/
def Obligations.AccessesPerform : Prop := Sys2Proof.Claims.LoadPerforms ∧ Sys2Proof.Claims.StorePerforms ∧ Sys2Proof.Claims.AtomicPerforms

/-- PUSH puts the eight registers of its descriptor in the copy engine's stream when fewer than 8 commands of it wait, and
gives 0; in tokened code it gives 1 when 8 do, and puts nothing. POP takes cq's oldest word at the end of its cycle; its
halves land in two registers in that cycle, low half first, and cq is one word shorter; a popped empty cq gives zeros and
sets QSTAT.NR (10: R280, R281).
Completion of: push, pop. -/
def Obligations.PushAndPop : Prop :=
  (∀ (h : Hdr) (o : A3) (x : XM) (s : State) (g : Nat) (q : SeqId), s.actor = .core g q → Unhindered h (.push h o x) s →
    let i : Instr := .push h o x
    (ceQueued (s.core g) x.str.toNat < 8 → ∃ u c, exec i s = .next (issued h i .seq s u) ∧
      Claims.coming u g (s.now s.actor) (.reg q o.d 0) ∧
      sget [] (u.core g).ccmds x.str.toNat = sget [] (s.core g).ccmds x.str.toNat ++ [c] ∧
      c.d = (List.range 8).map (fun j => s.rd (o.a + BitVec.ofNat 6 j)) ∧ c.c = s.now s.actor) ∧
    (s.timedOf s.actor = false → 8 ≤ ceQueued (s.core g) x.str.toNat → ∃ u, exec i s = .next (issued h i .seq s u) ∧
      Claims.coming u g (s.now s.actor) (.reg q o.d 1) ∧ (u.core g).ccmds = (s.core g).ccmds)) ∧
  (∀ (h : Hdr) (d : Code) (nr : Bool) (s : State) (g : Nat) (q : SeqId), s.actor = .core g q → Unhindered h (.pop h d nr) s →
    let w := waited h s
    (nr = true ∨ popsBefore w g q < (s.core g).cq.length - popsMade (s.core g) q) →
    ∃ u, exec (.pop h d nr) s = .next (issued h (.pop h d nr) .seq s u) ∧ Claims.coming u g (s.now s.actor) (.cqPop q d nr)) ∧
  ∀ (s : State) (g : Nat) (q : SeqId) (d : Code) (nr : Bool) (l : Landing), (s.core g).pend = [l] →
    l.due = s.sccOf (s.partOfCore g) → l.eff = .cqPop q d nr →
    let t := popWords s g
    let now := s.sccOf (s.partOfCore g)
    let w : BitVec 128 := ((s.core g).cq.head?.map CqWord.word).getD 0
    Claims.coming t g now (.reg q d (w.setWidth 64)) ∧ Claims.coming t g now (.reg q (d + 1) ((w >>> 64).setWidth 64)) ∧
      (t.core g).cq = (s.core g).cq.tail ∧
      (getCsr (t.seqr (.core g q)) 0x023).getLsbD 0 = (s.core g).cq.isEmpty

namespace Sys2Proof.Claims

/-- The DRAM commands that go to the pins (11: R303 to R309; 06: R162): kind in the history, quarter-slot, sub-channel and
bank. -/
def pins (i : Instr) : Option (Hdr × Nat × Nat × Nat × Nat) :=
  let sub (b : Bool) : Nat := if b then 1 else 0
  match i with
  | .dact h q _ => some (h, 0, q.qs.toNat, sub q.sc, q.bank.toNat)
  | .drd h q _ _ => some (h, 1, q.qs.toNat, sub q.sc, q.bank.toNat)
  | .drdWb h q _ _ _ => some (h, 1, q.qs.toNat, sub q.sc, q.bank.toNat)
  | .dwr h q _ _ _ => some (h, 2, q.qs.toNat, sub q.sc, q.bank.toNat)
  | .dpre h q => some (h, 3, q.qs.toNat, sub q.sc, q.bank.toNat)
  | .dprea h qs sc => some (h, 4, qs.toNat, sub sc, 0)
  | .dref h q => some (h, 5, q.qs.toNat, sub q.sc, q.bank.toNat)
  | .dmrw h qs sc _ _ => some (h, 6, qs.toNat, sub sc, 0)
  | .dmrr h qs sc _ => some (h, 7, qs.toNat, sub sc, 0)
  | .dzq h qs sc op => some (h, if op = 0 then 8 else 9, qs.toNat, sub sc, 0)
  | _ => none

/-- The operands of a DRAM command may be used by channel ch: a slice of its partition for a sector, a core of it for a weight
buffer, a run-time mode register of the profile (11: R306, R308; 18: R446). -/
def pinsMay (s : State) (ch : Nat) (i : Instr) : Prop :=
  match i with
  | .drd _ _ _ addr | .dwr _ _ _ _ addr => ownsTile s (s.partOf (.dcs ch)) (32 * addr.toNat) = true
  | .drdWb _ _ _ core _ => s.partOfCore (48 * (ch / 8) + core.toNat) = s.partOf (.dcs ch)
  | .dmrw _ _ _ mr _ => sget false s.runMrs mr.toNat = true
  | _ => True

/-- What a DRAM command does to its channel in its cycle, from d to e, at quarter-slot qs of schedule time and qw of wall time
(11: R298, R303 to R309). -/
def pinsDo (s : State) (ch : Nat) (i : Instr) (x n qs qw : Nat) (d e : Dcs) : Prop :=
  let bank (f : Dcs) : BankSt := sget .idle f.banks (16 * x + n)
  let now := s.now (.dcs ch)
  let row : Nat := match bank d with
    | .active r => r
    | _ => 0
  match i with
  | .dact _ _ r => bank e = .active (physRow s ch x n r.toNat)
  | .drd _ _ col addr => ∃ o, e.lands = d.lands ++ [o] ∧ o.wr = false ∧ o.wb = none ∧ o.addr = 32 * addr.toNat ∧
      o.due = now + rdlat s ch ∧ o.burst = burstOf x n row col.toNat
  | .drdWb _ _ col core off => ∃ o, e.lands = d.lands ++ [o] ∧ o.wr = false ∧ o.wb = some (48 * (ch / 8) + core.toNat) ∧
      o.addr = 32 * off.toNat ∧ o.due = now + rdlat s ch ∧ o.burst = burstOf x n row col.toNat
  | .dwr _ _ col _ addr => ∃ o, e.lands = d.lands ++ [o] ∧ o.wr = true ∧ o.addr = 32 * addr.toNat ∧ o.due = now + 1 ∧
      o.burst = burstOf x n row col.toNat
  | .dpre _ _ => bank e = if (bank d).isActive then .precharging (qs + tRP s ch) false else bank d
  | .dprea _ _ _ => ∀ m < 16, sget .idle e.banks (16 * x + m) =
      if (sget .idle d.banks (16 * x + m)).isActive then .precharging (qs + tRP s ch) false else sget .idle d.banks (16 * x + m)
  | .dref _ _ => bank e = .refreshing (qs + tRFC s ch) false ∧ sget 0 e.rp x = (n + 1) % 16 ∧
      sget 0 e.owed x = max (-8) (sget 0 d.owed x - 1)
  | .dmrw _ _ _ mr val => look e.mrs (256 * x + mr.toNat) = some val
  | .dmrr _ _ _ mr => ∃ v, e.mrr = d.mrr ++ [(qw + tMRR s ch, x, mr.toNat, v)] ∧
      ∀ b, look d.mrs (256 * x + mr.toNat) = some b → v = b
  | _ => e.banks = d.banks

end Sys2Proof.Claims

/-- A DRAM command that its operands and every test of the timing checker admit goes to the pins in its quarter-slot, joins
the history, and acts on its bank or its data; one that a test does not admit is refused with DRAM_TIMING and the code of a
test that it fails, the lowest where there are several (the model's choice, log entry 27) (11: R298, R300, R303 to R309,
R313; 19: R448).
Completion of: dact, drd, drdWb, dwr, dpre, dprea, dref, dmrw, dmrr, dzq. -/
def Obligations.DramCommands : Prop :=
  ∀ (i : Instr) (h : Hdr) (s : State) (ch kind qs x n : Nat), s.actor = .dcs ch →
    Claims.pins i = some (h, kind, qs, x, n) → Unhindered h i s →
    let w := waited h s
    let c : PinCmd := ⟨kind, x, n, 4 * s.now s.actor + qs, 4 * s.wcc + qs, false⟩
    Claims.pinsMay w ch i →
    (violations w ch (w.dcsAt ch) c = [] →
      ∃ t, exec i s = .next (issued h i .seq s t) ∧
        Claims.pinsDo w ch i x n c.qs c.qw (w.dcsAt ch) (t.dcsAt ch) ∧
        (kind ≠ 3 → kind ≠ 4 → (t.dcsAt ch).hist.getLast? = some c) ∧
        (kind = 3 ∨ kind = 4 → c ∈ (t.dcsAt ch).hist)) ∧
    ∀ p l, violations w ch (w.dcsAt ch) c = p :: l → exec i s = .next (refuse s s.actor .dramTiming p (word0Val i))

/-- DACT opens the row that its extension word names in bits 17 to 0: its bank becomes active with the physical row of that
logical row. DPRE starts the precharge of its bank, and DPREA of every bank of its sub-channel; a bank that is not active is
left as it is, and so is every other bank (11: R304, R305).
Completion of: dact, dpre, dprea. -/
def Obligations.RowsOpenAndClose : Prop :=
  (∀ (h : Hdr) (q : DQ) (row : B18), (fld ((encode (.dact h q row)).getD 1 0) 0 18 : B18) = row) ∧
  ∀ (i : Instr) (h : Hdr) (s : State) (ch kind qs x n : Nat), s.actor = .dcs ch →
    Claims.pins i = some (h, kind, qs, x, n) → Unhindered h i s →
    let w := waited h s
    let c : PinCmd := ⟨kind, x, n, 4 * s.now s.actor + qs, 4 * s.wcc + qs, false⟩
    let old (m : Nat) : BankSt := sget .idle (w.dcsAt ch).banks m
    violations w ch (w.dcsAt ch) c = [] →
    (∀ q row, i = .dact h q row → ∃ t, exec i s = .next t ∧
      sget .idle (t.dcsAt ch).banks (16 * x + n) = .active (physRow w ch x n row.toNat) ∧
      ∀ m, m ≠ 16 * x + n → sget .idle (t.dcsAt ch).banks m = old m) ∧
    (∀ q, i = .dpre h q → ∃ t, exec i s = .next t ∧
      sget .idle (t.dcsAt ch).banks (16 * x + n) =
        (if (old (16 * x + n)).isActive then .precharging (c.qs + tRP w ch) false else old (16 * x + n)) ∧
      ∀ m, m ≠ 16 * x + n → sget .idle (t.dcsAt ch).banks m = old m) ∧
    ∀ a b, i = .dprea h a b → ∃ t, exec i s = .next t ∧ ∀ m, sget .idle (t.dcsAt ch).banks m =
      if m / 16 = x ∧ (old m).isActive = true then .precharging (c.qs + tRP w ch) false else old m

/-- DIDLE issues nothing to the pins and delays the next instruction by its count. DSYNC issues nothing to the pins and sets
DCSSTAT.SYNC to its number, and no other bit of DCSSTAT (11: R310).
Completion of: didle, dsync. -/
def Obligations.IdleAndSync : Prop :=
  (∀ (h : Hdr) (n : B18) (s : State) (ch : Nat), s.actor = .dcs ch → Unhindered h (.didle h n) s →
    ∃ t, exec (.didle h n) s = .next t ∧ ({ t.dcsAt ch with seqr := {} } : Dcs) = { s.dcsAt ch with seqr := {} } ∧
      t.bar0 = s.bar0 ∧ s.now s.actor + 1 + h.pad.toNat + n.toNat ≤ (t.seqr s.actor).nextAt) ∧
  ∀ (h : Hdr) (n : B8) (s : State) (ch : Nat), s.actor = .dcs ch → Unhindered h (.dsync h n) s →
    ∃ t, exec (.dsync h n) s = .next t ∧ ({ t.dcsAt ch with seqr := {} } : Dcs) = { s.dcsAt ch with seqr := {} } ∧
      t.fieldOf (offDcs ch 0x030) 7 0 = n.toNat ∧ t.fieldOf (offDcs ch 0x030) 63 8 = s.fieldOf (offDcs ch 0x030) 63 8

/-- The timing checker: the tests of a DACT against earlier ones of its bank and against the bank's state, of a column command
against its DACT, and of a DRD against earlier DWRs (11: R313; 19: R448). -/
def Sys2Proof.Claims.TimingChecker : Prop :=
  ∀ (s : State) (h : Nat) (d : Dcs) (c : PinCmd), c.own = false → (∀ p ∈ d.hist, p.own = false) →
    let near (kind gap : Nat) (sameBank : Bool) : Prop :=
      ∃ p ∈ d.hist, p.sub = c.sub ∧ p.kind = kind ∧ (sameBank = true → p.bank = c.bank) ∧ c.qs - p.qs < gap
    (0x01 ∈ violations s h d c ↔ c.kind = 0 ∧ near 0 (tRC s h) true) ∧
    (0x04 ∈ violations s h d c ↔ (c.kind = 1 ∨ c.kind = 2) ∧ near 0 (tRCD s h) true) ∧
    (0x0A ∈ violations s h d c ↔ c.kind = 1 ∧ near 2 (tWTR s h) false) ∧
    (c.kind = 0 → d.bank c.sub c.bank c.qs c.qw ≠ .idle → 0x12 ∈ violations s h d c) ∧
    (c.kind = 1 ∨ c.kind = 2 → (d.bank c.sub c.bank c.qs c.qw).isActive = false → 0x12 ∈ violations s h d c)

/-- The data of column commands: a DWR's burst takes the 32 bytes at its sector one cycle after its command, a DRD's goes to
its sector in every view, or to the weight buffer of its core, when it lands (11: R306). -/
def Sys2Proof.Claims.ColumnData : Prop :=
  (∀ (s : State) (h : Nat) (o : ColOp), o.wr = true → o.due = s.now (.dcs h) →
    ∀ x, ((colStep s h o).1.dcsAt h).mem.byte x =
      if 32 * o.burst ≤ x ∧ x < 32 * o.burst + 32 then (s.readView (h / 8) o.addr 32).getD (x - 32 * o.burst) 0
      else (s.dcsAt h).mem.byte x) ∧
  (∀ (s : State) (h : Nat) (o : ColOp), o.wr = false → o.data = none → o.c < s.now (.dcs h) →
    (colStep s h o).2.data = some ((s.dcsAt h).mem.read (32 * o.burst) 32)) ∧
  (∀ (s : State) (h : Nat) (o : ColOp) (bs : Bytes), o.data = some bs → o.wb = none → o.bad = false → ∀ d a,
    ((landCol s h o).view d).byte a =
      if o.addr ≤ a ∧ a < o.addr + bs.length then bs.getD (a - o.addr) 0 else (s.view d).byte a) ∧
  ∀ (s : State) (h : Nat) (o : ColOp) (g : Nat) (bs : Bytes), o.data = some bs → o.wb = some g → o.bad = false →
    (landCol s h o).view0 = s.view0 ∧ (landCol s h o).view1 = s.view1 ∧
    ∀ a, ((landCol s h o).core g).wb.byte a =
      if o.addr ≤ a ∧ a < o.addr + bs.length then bs.getD (a - o.addr) 0 else (s.core g).wb.byte a

/-- The timing checker of a DCS and the data of column commands (11: R306, R313; 19: R448). -/
def Obligations.DramTimingAndData : Prop := Sys2Proof.Claims.TimingChecker ∧ Sys2Proof.Claims.ColumnData

/-- The DRAM channels' own work. A refresh that falls due raises its sub-channel's debt by one; a refresh in a hold, or of a
channel that runs no stream, is of the bank that the pointer names, pays one, and moves the pointer on; a poll of mode
register 4 takes for each sub-channel the code that RRMAP gives the rate field of that register's value, at the field's
place POS; a pass of a migration, which is one step (log entry 28), copies the dirty columns to the spare row and leaves
none dirty; an entry that has been copied is switched, and MIGCTL is no longer busy (11: R316, R318 to R320; 19: R452, R453;
17: R425).
Completion of: refreshDue, holdRefresh, idleRefresh, mr4Poll, migrationPass. -/
def Obligations.DramEvents : Prop :=
  (∀ (s : State), refreshDue s s.unit s.sub = true →
    ∃ t, exec .refreshDue s = .next t ∧ sget 0 (t.dcsAt s.unit).owed s.sub = sget 0 (s.dcsAt s.unit).owed s.sub + 1) ∧
  (∀ (s : State) (i : Instr) (c : PinCmd),
    (i = .holdRefresh ∧ holdRefreshDue s s.unit s.sub = some c) ∨ (i = .idleRefresh ∧ idleRefreshDue s s.unit s.sub = some c) →
    ∃ t, exec i s = .next t ∧ c.kind = 5 ∧ c.bank = sget 0 (s.dcsAt s.unit).rp s.sub ∧
      violations s s.unit (s.dcsAt s.unit) c = [] ∧
      sget .idle (t.dcsAt s.unit).banks (16 * s.sub + c.bank) = .refreshing (c.qw + tRFC s s.unit) true ∧
      sget 0 (t.dcsAt s.unit).rp s.sub = (c.bank + 1) % 16 ∧
      sget 0 (t.dcsAt s.unit).owed s.sub = max (-8) (sget 0 (s.dcsAt s.unit).owed s.sub - 1)) ∧
  (∀ (s : State), pollDue s s.unit = true →
    ∃ t, exec .mr4Poll s = .next t ∧ (t.dcsAt s.unit).poll = s.wcc + 25600 ∧
      ∀ x < 2, ∃ v : Byte, (∀ b, look (s.dcsAt s.unit).mrs (256 * x + 4) = some b → v = b) ∧
        let f := v.toNat / 2 ^ s.fieldOf (offDcs s.unit 0x028) 34 32 % 8
        look (t.dcsAt s.unit).mult x = some (s.fieldOf (offDcs s.unit 0x028) (3 * f + 2) (3 * f))) ∧
  (∀ (s : State) (x n j : Nat), switchDue s s.unit = some (x, n, j) →
    ∃ t, exec .migrationPass s = .next t ∧ bits (remapAt t s.unit x n j) 19 18 = 0 ∧
      bits (remapAt t s.unit x n j) 16 0 = bits (remapAt s s.unit x n j) 16 0 ∧
      t.fieldOf (offDcs s.unit 0x040) 9 9 = 0) ∧
  ∀ (s : State) (c : PinCmd) (x n j : Nat), switchDue s s.unit = none → passDue s s.unit = some c →
    migEntry s s.unit = some (x, n, j) → (s.dcsAt s.unit).mem.wf = true →
    let row := bits (remapAt s s.unit x n j) 16 0
    ∃ t, exec .migrationPass s = .next t ∧ dirtyOf t s.unit x n j = 0 ∧
      ∀ col ∈ dirtyCols (dirtyOf s s.unit x n j), ∀ b < 32,
        (t.dcsAt s.unit).mem.byte (32 * burstOf x n (131056 + j) col + b) =
          (s.dcsAt s.unit).mem.byte (32 * burstOf x n row col + b)

namespace Sys2Proof.Claims

/-- The steps that start a copy-engine command, by its code (10: R284). -/
def starts (i : Instr) : Option Nat :=
  match i with
  | .copy1d => some 0
  | .copynd => some 1
  | .gather => some 2
  | .scatter => some 3
  | .shape => some 4
  | .scopy => some 5
  | .batom => some 6
  | .coll => some 7
  | _ => none

/-- A completion word: VALID, the engine, its stream, code and tag, status, iteration, number and count (10: R294). -/
structure WordIs (w : BitVec 128) (eng str code utag status iter seq count : Nat) : Prop where
  valid : w.getLsbD 0 = true
  eng : w.getLsbD 1 = decide (eng = 1)
  str : (w.extractLsb' 2 2).toNat = str
  code : (w.extractLsb' 4 4).toNat = code
  utag : (w.extractLsb' 8 8).toNat = utag
  status : (w.extractLsb' 16 16).toNat = status
  iter : (w.extractLsb' 32 24).toNat = iter
  seq : (w.extractLsb' 56 8).toNat = seq
  count : (w.extractLsb' 64 64).toNat = count

end Sys2Proof.Claims

/-- The copy engine's command at the head of a stream that may start does so in this cycle, as the step of its code says;
one that a check at acceptance refused is over at once with its status; a command that has completed gives its word to cq; a
word that waited enters cq as soon as it has room, those of the matrix engine first and then by stream; a COLL that has
found no match in AWAIT_LIMIT cycles ends as cancelled, with no count (10: R282, R284, R293 to R295; 18: R441, R444).
Completion of: copy1d, copynd, gather, scatter, shape, scopy, batom, coll, ceCommandComplete, cqWordEnter, collMatchTimeout. -/
def Obligations.CopyCommands : Prop :=
  (∀ (s : State) (i : Instr) (k : Nat) (c : CCmd), Claims.starts i = some k → ceMayStart s s.unit s.sub = some c → c.code = k →
    c.str = s.sub →
    let now := s.sccOf (s.partOfCore s.unit)
    ∃ t c', exec i s = .next t ∧ c' ∈ sget [] (t.core s.unit).ccmds s.sub ∧ c'.id = c.id ∧ c'.d = c.d ∧ c'.s = some now ∧
      (c.bad ≠ 0 → c'.doneAt = some now ∧ c'.status = c.bad) ∧
      (c.bad = 0 → c.remote = true → c.peer = false → c'.doneAt = c.doneAt ∧ c'.status = c.status)) ∧
  (∀ (s : State) (c : CCmd), s.worked = true → ceDone s s.unit s.sub = some c → c.doneAt ≠ none → c.str = s.sub → s.sub < 4 →
    c.status < 2 ^ 16 → (s.core s.unit).cq.length < 64 →
    ((s.core s.unit).cqWait.all fun e => e.1 ≠ 4 + s.sub) = true →
    ∃ t w, exec .ceCommandComplete s = .next t ∧ (t.core s.unit).cq = (s.core s.unit).cq ++ [w] ∧
      Claims.WordIs w.word 0 s.sub c.code c.utag c.status (c.iter % 2 ^ 24) (c.seq % 256) (c.count % 2 ^ 64)) ∧
  (∀ s : State, wordDue s s.unit = true → (∀ f ∈ (s.core s.unit).cqWait, f.1 < 8) →
    ∃ t, ∃ e ∈ (s.core s.unit).cqWait, exec .cqWordEnter s = .next t ∧ (∀ f ∈ (s.core s.unit).cqWait, e.1 ≤ f.1) ∧
      (t.core s.unit).cq = (s.core s.unit).cq ++ [e.2] ∧ (t.core s.unit).cqWait = (s.core s.unit).cqWait.erase e) ∧
  ∀ (s : State) (c : CCmd), collLate s s.unit s.sub = some c → c.str = s.sub →
    ∃ t c', exec .collMatchTimeout s = .next t ∧ c' ∈ sget [] (t.core s.unit).ccmds s.sub ∧ c'.id = c.id ∧
      c'.status = 1 ∧ c'.count = 0 ∧ c'.doneAt = some (s.sccOf (s.partOfCore s.unit))

/-- The groups of a COPY1D of n bytes: byte k is in group k / 256, is read at SRC + k and goes to DST + k, and the groups hold
n bytes in all; GATHER and SCATTER take element i, of E bytes, between the dense address of E i and the address of E times
its index (10: R285, R286, R289). -/
def Sys2Proof.Claims.CopyPlans : Prop :=
  (∀ (c : CCmd) (k : Nat), c.code = 0 →
    let n := bits (c.dn 0) 63 32
    let x := c.group (k / 256)
    c.dn 1 + n ≤ 2 ^ 64 → c.dn 2 + n ≤ 2 ^ 64 → k < n →
    k / 256 < c.groupCount ∧ k % 256 < x.n ∧ x.len = x.n ∧ x.src + k % 256 = c.dn 1 + k ∧ x.dst + k % 256 = c.dn 2 + k) ∧
  (∀ (c : CCmd), c.code = 0 → ((c.plan.map Grp.len).foldl (· + ·) 0) = bits (c.dn 0) 63 32) ∧
  ∀ (c : CCmd) (i : Nat), c.code = 2 ∨ c.code = 3 → i < bits (c.dn 0) 63 32 →
    let size := bits (c.dn 0) 27 16 + 1
    let x := c.group (ceilDiv (4 * bits (c.dn 0) 63 32) 256 + c.li + i * ceilDiv size 256)
    x.n = min 256 size ∧ x.len = x.n ∧
    (c.code = 2 → x.src = wrap 64 ((c.dn 1 : Int) + size * c.index i) ∧ x.dst = (c.dn 2 + size * i) % 2 ^ 64) ∧
    (c.code = 3 → x.src = (c.dn 1 + size * i) % 2 ^ 64 ∧ x.dst = wrap 64 ((c.dn 2 : Int) + size * c.index i))

/-- A group of whole bytes that a local command writes. A stamped command, the one of its engine, puts them in every view in
its cycle and changes no other byte; an unstamped one asks its banks for them, with its die's origin, and when a bank has
served such an access its sectors' bytes are in its own die's view at once and in no other yet. Noting that a group has been
written changes no view (10: R282, R286; 04: R106, R112, R113). -/
def Sys2Proof.Claims.CopyGroups : Prop :=
  (∀ (s : State) (g v : Nat) (c : CCmd),
    let now := s.sccOf (s.partOfCore g)
    let x := c.group v
    let put (m m' : Mem) : Prop :=
      ∀ a, m'.byte a = if x.dst ≤ a ∧ a < x.dst + x.n then (c.data v).getD (a - x.dst) 0 else m.byte a
    x.kind = .bytes → x.last = 8 → x.len = x.n → (c.data v).length = x.n → 0 < x.n → c.writeNow now = some v →
    c.moving = true →
    (c.stamp.isSome = true → c.stall = false → c.lost = [] → allCe (s.core g) = [c] →
      put s.view0 (ceWrites s g).view0 ∧ put s.view1 (ceWrites s g).view1) ∧
    (c.rcdAt = none → ceBadNow s g c now = none → ereqOf s c.id = none →
      ∃ e, (ceAskOne s g c).ereqs = s.ereqs ++ [e] ∧ e.wr = runCells x.dst (c.data v) ∧ e.g = g ∧ e.org = none ∧
        e.orig = origCd (dieOf g) ∧ e.arrive = now ∧ (ceAskOne s g c).view0 = s.view0 ∧ (ceAskOne s g c).view1 = s.view1) ∧
    (ceWrote s g c now).view0 = s.view0 ∧ (ceWrote s g c now).view1 = s.view1) ∧
  ∀ (s : State) (e : EReq) (a : Nat) (bs : Bytes), e.org = none → dieOf e.g < 2 → e.orig = origCd (dieOf e.g) → bs ≠ [] →
    let t := ereqWrite s e (runCells a bs)
    (∀ x, (t.view (dieOf e.g)).byte x = if a ≤ x ∧ x < a + bs.length then bs.getD (x - a) 0 else (s.view (dieOf e.g)).byte x) ∧
      t.view (1 - dieOf e.g) = s.view (1 - dieOf e.g)

/-- What SHAPE, SCOPY, BATOM and COLL move. Byte k of tile row i of a SHAPE to a dense destination, of a format of whole
bytes, comes from the tensor where it lies in it; elsewhere it is written as zero with PADZ and not written without. SCOPY
gives its slots bits 8 to 0 of 16-bit scales, or its widened bytes. BATOM writes at each target what BRMW would, and keeps
the old value. COLL gives every destination the tree of the sources' elements, the sources one after another, or the root's
(10: R290 to R293; 05: R132, R144). -/
def Sys2Proof.Claims.OtherCopies : Prop :=
  (∀ (c : CCmd) (b i k : Nat), c.code = 4 → bits (c.dn 0) 16 16 = 0 →
    let x := shpOf c.rcdNat
    let ti := bits (c.dn 4) 31 0
    let tj := bits (c.dn 4) 63 32
    fmtBits x.fmt = 8 * b → b = 1 ∨ b = 2 ∨ b = 4 → k < x.tc * b →
    let y := c.group (i * ceilDiv (x.tc * b) 256 + k / 256)
    y.dst + k % 256 = c.dn 2 + i * (x.tc * b) + k ∧
    (ti * x.tr + i < x.rows ∧ k < (x.cols - tj * x.tc) * b → k % 256 < y.n ∧ k % 256 < y.len ∧
      y.src + k % 256 = x.base + (ti * x.tr + i) * x.rstr + tj * x.tc * b + k) ∧
    (¬ (ti * x.tr + i < x.rows ∧ k < (x.cols - tj * x.tc) * b) → y.n ≤ k % 256 ∧
      (x.padz = true → k % 256 < y.len) ∧ (x.padz = false → y.len ≤ k % 256))) ∧
  (∀ (x : Grp) (data : Bytes) (old : Byte) (j : Nat), x.last = 8 →
    (x.out data old).getD j 0 = if j < x.n then data.getD j 0 else 0) ∧
  (∀ (s : State) (g : Nat) (c : CCmd) (slot k : Nat) (bs : Bytes),
    let sm := ((slotWrite s g c slot bs).core g).sm
    let got : Nat := (sm.byte (2 * (slot + k))).toNat + 256 * (sm.byte (2 * (slot + k) + 1)).toNat
    (bits (c.dn 0) 16 16 = 0 → 2 * k + 1 < bs.length → got = ((bs.getD (2 * k) 0).toNat + 256 * (bs.getD (2 * k + 1) 0).toNat) % 512) ∧
    (bits (c.dn 0) 16 16 = 1 → k < bs.length →
      got = if bs.getD k 0 = 0xFF then 0x1FF else 2 * (bs.getD k 0).toNat)) ∧
  (∀ (s : State) (e : EReq) (a op w y z : Nat) (u : Bool) (secs : List Nat), w = 4 ∨ w = 8 →
    e.atom = some (a, op, u, y, z) → e.rd = [(a, 0, w)] → eccBad s a w = false →
    let x := leNat (latestRead s a w)
    let new := Claims.rmwNew op u (BitVec.ofNat (8 * w) x) (BitVec.ofNat (8 * w) y) (BitVec.ofNat (8 * w) z)
    (ereqCells s e secs).1 = runCells a (natLe w new.toNat) ∧ ∀ j < w, (ereqCells s e secs).2.byte j = (natLe w x).getD j 0) ∧
  ∀ (c : CCmd) (xs : List Bytes),
    let t := collFmt c
    let w := fmtBits t / 8
    (collOp c = 3 → collResult c xs = xs.flatten) ∧
    (collOp c = 4 → collResult c xs = xs.getD (collRoot c) []) ∧
    (collOp c ≤ 2 → collResult c xs = ((List.range (collCount c)).map fun e =>
      natLe w (tree (redOp (collOp c) t 0) (redIdent (collOp c) t) (xs.map fun x => leNat ((x.drop (w * e)).take w)))).flatten)

/-- The groups of copy commands, and what their writes do, at once or when their banks serve them; what SHAPE, SCOPY, BATOM and
COLL move (10: R282, R285, R286, R289 to R293; 04: R106, R112, R113). -/
def Obligations.CopyData : Prop := Sys2Proof.Claims.CopyPlans ∧ Sys2Proof.Claims.CopyGroups ∧ Sys2Proof.Claims.OtherCopies

/-- The course of a partition's time. At the horizon of a boundary for which no await is registered that names an unfit ring
or an uncorrectable doubleword, its registrations are evaluated and the slot of the frame that follows is looked up; the
boundary then goes by once, and a throttle level written in time takes effect at it with a new frame. A hold begins in the
cycle that it is due, for the reasons seen at the horizon: from the boundary where an await is false or the slot is idle
(02: R40, R41, R24, R60).
Completion of: awaitHorizon, periodBoundary, throttleLevelEffect, holdBegin. -/
def Obligations.HorizonsAndHolds : Prop :=
  (∀ s : State, horizonDue s s.unit = true →
    let p := s.unit
    let b := (s.part p).scc + 32
    (∀ e ∈ awaitsFor s p b, awaitStop s e.1 e.2.kind e.2.ring e.2.addr (e.2.org.w0.setWidth 64) = none) →
    ∃ t, exec .awaitHorizon s = .next t ∧ (t.part p).horizonDone = b ∧ (t.part p).hold.b = b ∧
      (t.part p).hold.horizon = s.wcc ∧ (t.part p).hold.decided = none ∧
      ((t.part p).awHit = true ↔ ∃ e ∈ awaitsFor s p b, awaitTrue s e.1 e.2.org.q e.2.kind e.2.ring e.2.x e.2.addr = false) ∧
      (t.part p).hold.awaitOpen = (t.part p).awHit ∧ (t.part p).slotHit = idleNext (s.part p) b ∧
      (t.part p).scc = (s.part p).scc ∧ t.cores = s.cores) ∧
  (∀ s : State, boundaryDue s s.unit = true → ∃ t, exec .periodBoundary s = .next t ∧
    (t.part s.unit).boundDone = (s.part s.unit).scc ∧ (t.part s.unit).pos = ((s.part s.unit).pos + 1) % 16 ∧
      (t.part s.unit).scc = (s.part s.unit).scc ∧ (t.part s.unit).level = (s.part s.unit).level) ∧
  (∀ (s : State) (n : Nat), levelDue s s.unit = some n → ∃ t, exec .throttleLevelEffect s = .next t ∧
    (t.part s.unit).level = n ∧ (t.part s.unit).pos = 0 ∧ t.cores = s.cores) ∧
  ∀ s : State, holdDue s s.unit = true →
    let x := s.part s.unit
    ∃ t, exec .holdBegin s = .next t ∧ t.held s.unit = true ∧ (t.part s.unit).hold.first = s.wcc ∧
      ((t.part s.unit).hold.aw = true ↔ mustHold s s.unit = true ∧ x.awHit = true) ∧
      ((t.part s.unit).hold.th = true ↔ mustHold s s.unit = true ∧ x.slotHit = true) ∧
      (t.part s.unit).hold.slotEnd = (if mustHold s s.unit = true ∧ x.slotHit = true then some (s.wcc + 256) else none) ∧
      (t.part s.unit).scc = x.scc ∧ t.cores = s.cores

/-- A hold's end. Release is decided in the cycle in which every registration of the boundary is found true, and in no other; an
idle slot of 256 cycles is followed by the frame's next, idle or not; and the partition runs again when, and only when, no link
retry stands, no idle slot runs, and 32 cycles have gone by since the decision; a hold that began off a boundary ends when no
link retry stands. A registration whose budget has gone by lapses, and one that a
tokened sequencer waits for traps it; at the hold's budget every registration that is still false lapses, and release is
decided (02: R40, R41, R60; 17: R408, R409).
Completion of: holdReleaseDecided, throttleSlotEnd, holdRelease, awaitBudgetExhausted, holdBudgetExhausted. -/
def Obligations.HoldsEnd : Prop :=
  (∀ s : State, s.unit < 4 → s.held s.unit = true →
    let h := (s.part s.unit).hold
    h.off = false → h.awaitOpen = true → h.decided = none →
    (∀ e ∈ awaitsFor s s.unit h.b, awaitTrue s e.1 e.2.org.q e.2.kind e.2.ring e.2.x e.2.addr = true) →
    ∃ t, exec .holdReleaseDecided s = .next t ∧ (t.part s.unit).hold.decided = some s.wcc ∧
      (t.part s.unit).hold.awaitOpen = false ∧ t.held s.unit = true ∧ t.cores = s.cores) ∧
  (∀ (s : State) (p : Nat), decideDue s p = true → s.held p = true ∧
    ∀ e ∈ awaitsFor s p (s.part p).hold.b, awaitTrue s e.1 e.2.org.q e.2.kind e.2.ring e.2.x e.2.addr = true) ∧
  (∀ s : State, slotEndDue s s.unit = true →
    let j := ((s.part s.unit).pos + 1) % 16
    ∃ t, exec .throttleSlotEnd s = .next t ∧ (t.part s.unit).pos = j ∧ t.held s.unit = s.held s.unit ∧
      (t.part s.unit).hold.slotEnd = (if (j + 1) * (s.part s.unit).level / 16 - j * (s.part s.unit).level / 16 = 1 then some (s.wcc + 256) else none)) ∧
  (∀ s : State, s.unit < 4 → s.held s.unit = true →
    let h := (s.part s.unit).hold
    (s.part s.unit).retry = [] →
    (h.off = true ∨ h.slotEnd = none ∧ h.awaitOpen = false ∧ ∀ w, h.decided = some w → w + 32 ≤ s.wcc) →
    ∃ t, exec .holdRelease s = .next t ∧ t.held s.unit = false ∧
      (t.part s.unit).scc = (s.part s.unit).scc ∧ (t.part s.unit).hold.lr = false ∧
      (h.off = false → (t.part s.unit).awHit = false ∧ (t.part s.unit).slotHit = false)) ∧
  (∀ (s : State) (p : Nat), releaseDue s p = true →
    let h := (s.part p).hold
    s.held p = true ∧ (s.part p).retry = [] ∧
      (h.off = false → h.slotEnd = none ∧ h.awaitOpen = false ∧ ∀ w, h.decided = some w → w + 32 ≤ s.wcc)) ∧
  (∀ (s : State) (e : Nat × Await), awaitLapse s s.unit = some e → ∃ t, exec .awaitBudgetExhausted s = .next t ∧
    (t.part s.unit).hold.lapsedA = (s.part s.unit).hold.lapsedA ++ [e] ∧
      (t.core e.1).awaits = (s.core e.1).awaits.filter (fun y => y ≠ e.2) ∧ t.held s.unit = s.held s.unit) ∧
  (∀ (s : State) (a : Actor), awaitLapse s s.unit = none → tokenedLapse s s.unit = some a →
    exec .awaitBudgetExhausted s = .next (trapLapse s a)) ∧
  ∀ s : State, budgetDue s s.unit = true →
    let h := (s.part s.unit).hold
    ∃ t, exec .holdBudgetExhausted s = .next t ∧ (t.part s.unit).hold.budgetHit = true ∧ t.held s.unit = true ∧
      (t.part s.unit).hold.lapsed = h.lapsed ++ (if h.off = true then [] else falseAwaits s s.unit h.b) ∧
      (h.awaitOpen = true → h.off = false → (t.part s.unit).hold.decided = some s.wcc)


namespace Sys2Proof.Claims

/-- Core g holds iteration k of task t as a hand-off leaves it: in ENTRY, to begin at the first period boundary at least
32 cycles on. -/
def handed (s t' : State) (t g rank k : Nat) : Prop :=
  let x := t'.core g
  x.task = some t ∧ x.rank = rank ∧ x.iter = k ∧ x.st = .entry ∧
    ∃ n, x.tsb = 256 * n ∧ s.sccOf (s.task t).part + 32 ≤ x.tsb ∧ x.tsb < s.sccOf (s.task t).part + 32 + 256

end Sys2Proof.Claims

/-- Tasks. A record whose WCC compare meets the cycle becomes a pending task, in a later cycle or in that of a record which
the same compare has met, unless a task of it is active, and is no longer armed, even where it was active (log entry 17). A
launch that fails a check starts nothing; one that passes hands the first iterations to the members of its domain by rank; a
pre-empted task begins to load its contexts. A core that may retire takes the next iteration of its rank, or waits where
none is left. TSB begins the body, and an iteration over its latency budget is recorded once (02: R50 to R55, R58, R59, R65;
16: R400; 17: R405).
Completion of: wccCompareTrigger, launchStart, iterationRetire, tsbReached, latencyBudgetExceeded. -/
def Obligations.TasksRun : Prop :=
  (∀ s : State, wccDue s s.unit s.sub = true → ∃ t, exec .wccCompareTrigger s = .next t ∧
    recArm (launchRec t s.unit s.sub) = false ∧
      (activeTask s s.unit s.sub = false → ∃ k, look t.tasks s.taskNo = some k ∧ k.part = s.unit ∧ k.trig = some s.sub ∧
        k.st = .pending ∧ k.lnoff = recLnoff (launchRec s s.unit s.sub) ∧ (s.wcc < k.since ∨
          ∃ e ∈ s.tasks, e.2.part = s.unit ∧ e.2.st = .pending ∧ e.2.since = k.since))) ∧
  (∀ (s : State) (t : Nat), launchNext s s.unit = some t →
    let k := s.task t
    let r := nestOf s k
    (k.st = .preempted → k.restartMark = false → ∃ t', exec .launchStart s = .next t' ∧ (t'.task t).st = .restoring) ∧
    (k.st = .preempted → k.restartMark = true → ∃ t', exec .launchStart s = .next t') ∧
    (k.st ≠ .preempted → (launchBad s k r).isSome = true → ∃ t', exec .launchStart s = .next t' ∧
      look t'.tasks t = none ∧ t'.cores = s.cores) ∧
    (k.st ≠ .preempted → launchBad s k r = none → nestKt r = 0 → ∃ t', exec .launchStart s = .next t') ∧
    (k.st ≠ .preempted → launchBad s k r = none → nestKt r ≠ 0 → ∃ t', exec .launchStart s = .next t' ∧
      (t'.task t).st = .running ∧ (t'.task t).members = domainOf s r ∧
      ∀ i g, (domainOf s r)[i]? = some g → (t'.core g).task = some t ∧ (i < nestKt r → Claims.handed s t' t g i i))) ∧
  (∀ (s : State) (t : Nat), mayRetire s s.unit = true → (s.core s.unit).task = some t →
    let x := s.core s.unit
    let k := sget 0 (s.task t).nextK x.rank
    ∃ t', exec .iterationRetire s = .next t' ∧ (k < (s.task t).kt → Claims.handed s t' t s.unit x.rank k) ∧
      ((s.task t).kt ≤ k → (t'.core s.unit).st = .wait)) ∧
  (∀ s : State, tsbDue s s.unit = true → ∃ t, exec .tsbReached s = .next t ∧ (t.core s.unit).st = .body ∧
    (t.core s.unit).tsbWcc = s.wcc ∧ (t.core s.unit).iter = (s.core s.unit).iter) ∧
  ∀ s : State, lateIteration s s.unit = true → ∃ t, exec .latencyBudgetExceeded s = .next t ∧
    lateIteration t s.unit = false ∧ ∀ g, g ≠ s.unit → t.core g = s.core g

/-- Pre-emption. At its safe point a task whose engines and queues are empty stands still until its contexts are stored, at
least 16 cycles; otherwise it goes on. Once they are stored its cores are free; once they are loaded each member's TSB is the
first boundary at least 32 cycles on, less the offset of the safe point, and the task runs; an error in a context leaves
the task to begin again (02: R61 to R65; 17: R413, R414).
Completion of: safepointPreempt, contextSaveDone, contextRestoreDone. -/
def Obligations.Preemption : Prop :=
  (∀ s : State, preemptDue s s.unit = true →
    (notEmpty s s.unit = true → ∃ t', exec .safepointPreempt s = .next t' ∧ t'.tasks = s.tasks) ∧
    (notEmpty s s.unit = false → ∃ t', exec .safepointPreempt s = .next t' ∧ (t'.task s.unit).st = .saving ∧
      s.sccOf (s.task s.unit).part + 16 ≤ (t'.task s.unit).saveAt ∧ ∀ g ∈ (s.task s.unit).members, (t'.core g).frozen = true)) ∧
  (∀ s : State, saveDone s s.unit = true → ∃ t', exec .contextSaveDone s = .next t' ∧ (t'.task s.unit).st = .preempted ∧
    ∀ g ∈ (s.task s.unit).members, (t'.core g).task = none ∧ (t'.core g).st = .wait) ∧
  ∀ s : State, restoreDone s s.unit = true →
    let k := s.task s.unit
    (ctxBad s s.unit = true → ∃ t', exec .contextRestoreDone s = .next t' ∧ (t'.task s.unit).st = .preempted ∧
      (t'.task s.unit).restartMark = true) ∧
    (ctxBad s s.unit = false → ∃ t', exec .contextRestoreDone s = .next t' ∧ (t'.task s.unit).st = .running ∧
      ∀ g x, k.ctx = [(g, x)] → x.st ≠ .wait →
        (t'.core g).iter = x.iter ∧ (t'.core g).rank = x.rank ∧ (t'.core g).phNum = x.phNum ∧ (t'.core g).frozen = false ∧
        ∃ n, s.sccOf k.part + 32 ≤ 256 * n ∧ 256 * n < s.sccOf k.part + 32 + 256 ∧ (t'.core g).tsb = 256 * n - k.b)

/-- A broken domain and its recovery. When the break reaches the members each is marked, and one that had not stopped stops
with the cycle before and enters its handler in the cycle after. Once every member has asked, the walker replays the
iterations, restarts the task or abandons it. A barrier that all members have come to changes their phase, unless declared
sets overlap: then all of them trap. A timed segment that its sequencer has not reached traps with SCHED (16: R395, R396,
R402; 17: R406, R411; 02: R47).
Completion of: domainBreak, walkerRecovery, phaseChange, vrfWakeDone, schedSegmentDeadline, markDrain. -/
def Obligations.BreaksAndRecovery : Prop :=
  (∀ (s : State) (t b : Nat), breakDue s s.unit = some (t, b) → ∃ t', exec .domainBreak s = .next t' ∧
    ∀ h ∈ (s.task t).members, (s.core h).st ≠ .wait →
      (t'.core h).trap.brk = true ∧ (t'.core h).trap.breakAt = none ∧
        (t'.core h).trap.stopAfter = (match (s.core h).trap.stopAfter with
          | some c => some c
          | none => some (b - 1)) ∧
        ((s.core h).trap.stopAfter = none → (t'.core h).trap.handlerAt = some (b + 1))) ∧
  (∀ s : State, recoveryDue s s.unit = true →
    let a := actionOf s s.unit
    1 ≤ a ∧ (a = 1 → ∃ t', exec .walkerRecovery s = .next t' ∧ (t'.task s.unit).broken = false ∧
      ∀ g ∈ (s.task s.unit).members, (s.core g).st ≠ .wait →
        Claims.handed s t' s.unit g (s.core g).rank (s.core g).iter) ∧
    (a = 2 → ∃ t', exec .walkerRecovery s = .next t' ∧ (t'.task s.unit).broken = false ∧
      (t'.task s.unit).restarts = (s.task s.unit).restarts + 1 ∧ (t'.task s.unit).st = .running) ∧
    (3 ≤ a → ∃ t', exec .walkerRecovery s = .next t' ∧ look t'.tasks s.unit = none)) ∧
  (∀ (s : State) (lev : Nat) (ms : List Nat), phaseDue s s.unit = some (lev, ms) → ∃ t, exec .phaseChange s = .next t ∧
    ∀ h ∈ ms, (t.core h).phWait = none ∧
      (firstOverlap (overlaps (ms.flatMap (declared s))) = none → (t.core h).phNum = (s.core h).phNum + 1) ∧
      ((firstOverlap (overlaps (ms.flatMap (declared s)))).isSome = true →
        (t.core h).phNum = (s.core h).phNum ∧ (t.core h).trap.stopAfter.isSome = true)) ∧
  (∀ s : State, wakeDone s s.unit s.sub = true → ∃ t, exec .vrfWakeDone s = .next t ∧
    look (t.core s.unit).wake s.sub = none ∧
      (∀ a, (t.core s.unit).vrf.byte a =
        if powerOf (s.core s.unit) (8 * s.sub) = 2 ∧ a / 65536 = s.sub then 0 else (s.core s.unit).vrf.byte a) ∧
      ∀ g, g ≠ s.unit → t.core g = s.core g) ∧
  (∀ (s : State) (g : Nat) (q : SeqId) (seg : Seg), s.actor = .core g q → deadlineDue s s.actor = some seg →
    ∃ t, exec .schedSegmentDeadline s = .next t ∧ ((t.core g).seqr q).missed = some seg.start ∧
      (t.core g).trap.stopAfter.isSome = true ∧
      ((s.core g).trap.stopAfter = none → (t.core g).trap.stopAfter = some (s.now s.actor) ∧
        (t.core g).trap.handlerAt = some (s.now s.actor + 2) ∧ csrNat (t.core g).k csrTrapcause % 65536 = 18 ∧
        bits (csrNat (t.core g).k csrTrapcause) 47 32 = 8)) ∧
  ∀ (s : State) (m : Mark), markDue s s.unit = some m → ∃ t, exec .markDrain s = .next t ∧
    (t.core s.unit).marks = (s.core s.unit).marks.tail ∧ (t.core s.unit).drainAt = s.wcc + 1 ∧
      (s.csPend = [] → t.reg offCshead = (s.reg offCshead + 1) % 2 ^ 32 ∧
        bar0Read t (offCsheet + 32 * (s.reg offCshead % 4096)) 32 = markBytes s s.unit m)


/-- Sensor ports. A frame start of the port's channel opens a frame with the next number and row 0 due; a frame end closes
it. A camera row of the accepted channel and type is the frame's next, and where it is the one due, is whole, and the first
stage's ring has room, its masked samples take the slot of the next ordinal; a lidar datagram for the accepted port, in a
frame of 46 bytes more (log entry 50), opens a sweep where none is open, at its column index (log entry 48). A lost link
takes no rows until it returns. A row whose deadline has passed is given up, and a lost row's substitute is appended once
there is room. A publication advances PUB (12: R323, R324, R326, R328, R331, R339; 19: R454, R457).
Completion of: frameStart, frameEnd, cameraRow, lidarDatagram, sensorLinkLoss, sensorLinkReturn, rowDeadline,
overrunSubstitute, tileoutPublish. -/
def Obligations.SensorRows : Prop :=
  (∀ (p vc : Nat) (s : State), p < 16 →
    (portOn s p = true → vc = bits (portCfg s p) 23 20 → ∃ t, exec (.frameStart p vc) s = .next t ∧
      (t.port p).open_ = true ∧ (t.port p).ix = 0 ∧ (t.port p).na = 0 ∧ (t.port p).tfs = tbnow s ∧
        (t.port p).frame = if (s.port p).started = true then ((s.port p).frame + 1) % 2 ^ 32 else 0) ∧
    (portOn s p = false ∨ vc ≠ bits (portCfg s p) 23 20 → exec (.frameStart p vc) s = .next s)) ∧
  (∀ (p vc : Nat) (s : State), p < 16 →
    (portOn s p = true → vc = bits (portCfg s p) 23 20 → ∃ t, exec (.frameEnd p vc) s = .next t ∧
      (t.port p).open_ = false ∧ (t.port p).frame = (s.port p).frame) ∧
    (portOn s p = false ∨ vc ≠ bits (portCfg s p) 23 20 → exec (.frameEnd p vc) s = .next s)) ∧
  (∀ (p di k : Nat) (data : Bytes) (bad : Bool) (s : State), p < 16 → sampleBits (di % 64) = some k →
    let v := portCfg s p
    let x := s.port p
    (portOn s p = true → di % 64 = bits v 31 26 → di / 64 = bits v 23 20 → ∃ t, exec (.cameraRow p di data bad) s = .next t ∧
      (x.open_ = false ∨ portRows s p ≤ x.ix → t.ports = s.ports ∧ t.lbps = s.lbps) ∧
      (x.open_ = true → x.ix < portRows s p → (t.port p).ix = x.ix + 1) ∧
      (x.open_ = true → x.ix < portRows s p → x.na ≤ x.ix → x.lost = [] → bad = false → data.length = 2 * portWid s p →
        ∀ n, firstStage s p = some n → ringFull s n = false →
          (t.lbp n).ain = (s.lbp n).ain + 1 ∧ (t.port p).na = x.ix + 1 ∧
          ∀ j, j < data.length → (t.lbp n).buf.byte (8192 * ((s.lbp n).ain % lbpNin s n) + j) = (maskRow k data).getD j 0)) ∧
    (portOn s p = false ∨ di % 64 ≠ bits v 31 26 ∨ di / 64 ≠ bits v 23 20 → exec (.cameraRow p di data bad) s = .next s)) ∧
  (∀ (p udpp : Nat) (data : Bytes) (bad : Bool) (s : State), 16 ≤ p → p < 20 →
    let v := portCfg s p
    (portOn s p = true → udpp = bits v 63 48 → data.length + 46 ≤ 9216 → ∃ t, exec (.lidarDatagram p udpp data bad) s = .next t ∧
      (t.port p).open_ = true ∧
      (bits v 23 16 + 2 ≤ data.length → (t.port p).col = leNat ((data.drop (bits v 23 16)).take 2))) ∧
    (portOn s p = false ∨ udpp ≠ bits v 63 48 ∨ 9216 < data.length + 46 → exec (.lidarDatagram p udpp data bad) s = .next s)) ∧
  (∀ (p : Nat) (s : State), p < 20 →
    (∃ t, exec (.sensorLinkLoss p) s = .next t ∧ portOn t p = false ∧ t.lbps = s.lbps ∧ ∀ q, q ≠ p → t.port q = s.port q) ∧
    (∃ t, exec (.sensorLinkReturn p) s = .next t ∧ (t.port p).off = false ∧ t.lbps = s.lbps ∧ ∀ q, q ≠ p → t.port q = s.port q)) ∧
  (∀ s : State, s.worked = true → deadlinePassed s s.unit = true → ∃ t, exec .rowDeadline s = .next t ∧
    (t.port s.unit).na = (s.port s.unit).na + 1) ∧
  (∀ (s : State) (n f r : Nat), overrunDue s s.unit = some (n, f, r) → ∃ t, exec .overrunSubstitute s = .next t ∧
    (t.port s.unit).lost = (s.port s.unit).lost.tail ∧ (t.lbp n).ain = (s.lbp n).ain + 1) ∧
  ∀ (s : State) (at_ rn q row : Nat) (rm : RowMeta), publishDue s s.unit = some (at_, .publish rn q row rm) →
    let p := s.partOf (.lbp s.unit)
    p < 4 → ∃ t, exec .tileoutPublish s = .next t ∧ (t.ring p rn).pub = ((s.ring p rn).pub + 1) % 2 ^ 48 ∧
      (t.lbp s.unit).sends = (s.lbp s.unit).sends.erase (at_, .publish rn q row rm)

/-- The shutter. A complete oldest candidate is decided: its record, with the window number that it will have, waits to be
written within 64 cycles. When it is, WCNT advances. A dead candidate is dropped (12: R344; 19: R458).
Completion of: shutterDecide, shutterCandidateDead. -/
def Obligations.ShutterSteps : Prop :=
  (∀ (s : State) (c : Counted), decidable? s s.unit = some c →
    let x := s.fset s.unit
    ∃ t at_, exec .shutterDecide s = .next t ∧ (t.fset s.unit).cands = x.cands.tail ∧ s.wcc < at_ ∧ at_ ≤ s.wcc + 64 ∧
      (t.fset s.unit).due = x.due ++ [(at_, windowRecord x s.unit (s.reg (offFscfg s.unit)) (windowCount s s.unit + x.due.length) c)]) ∧
  (∀ (s : State) (rcd : Bytes), decidable? s s.unit = none → windowDue s s.unit = some rcd →
    ∃ t, exec .shutterDecide s = .next t ∧ (t.fset s.unit).due = (s.fset s.unit).due.tail ∧
      windowCount t s.unit = (windowCount s s.unit + 1) % 2 ^ 48) ∧
  ∀ (s : State) (c : Counted), deadDue s s.unit = some c → ∃ t, exec .shutterCandidateDead s = .next t ∧
    (t.fset s.unit).cands = (s.fset s.unit).cands.erase c ∧ t.lbps = s.lbps

/-- Host queues. A notification sets TAIL and is noted; binding takes note of it. A bound queue reads its next entry, walks
for it, or passes it over; the entry read becomes a pending launch and HEAD advances. A completion doubleword is written,
then read behind, and then its vector is sent, or pends while it is masked. A finished walk leaves its leaf in the cache. A
completion that answers no request changes nothing; one that times out answers with status 4, and a lost link every request of the
host's that is outstanding with 5: an entry that is not read passes its queue by, with that status in the record's DETAIL. How a
queue is told of an entry passed over, completions that are ignored and the vector that pends are log entries 59, 60 and 77
(13: R345, R352 to R354; 03: R102, R104; 17: R418, R419; 19: R460).
Completion of: queueNotify, queueBind, queueEntryRead, queueMsix, pageWalkComplete, hostCompletion,
hostCompletionTimeout, hostLinkDown, hostLinkUp. -/
def Obligations.HostQueues : Prop :=
  (∀ (off : Nat) (v : W32) (s : State),
    (off % 64 = 0 → off < 65536 → ∃ t, exec (.queueNotify off v) s = .next t ∧ qTail t (off / 64) = v.toNat ∧
      off / 64 ∈ t.notified ∧ qHead t (off / 64) = qHead s (off / 64)) ∧
    (off % 64 ≠ 0 ∨ 65536 ≤ off → exec (.queueNotify off v) s = .next s)) ∧
  (∀ s : State, bindDue s s.unit = true → ∃ t, exec .queueBind s = .next t ∧ t.bar0 = s.bar0 ∧
    t.notified = s.notified.filter fun q => qPart s q ≠ s.unit) ∧
  (∀ (s : State) (q : Nat), slotDue s s.unit s.sub = some q → q < 1024 →
    let a := entryAddr s q
    let x := translate s (queueDie s s.unit) s.unit a false
    let passed (t : State) : Prop := qHead t q = (qHead s q + 1) % 2 ^ 32 ∧
      t.cdaWait = s.cdaWait ++ [(q, (qHead s q + 1) % 2 ^ 32 + 2 ^ 63, 0)]
    ∃ t, exec .queueEntryRead s = .next t ∧
      (s.hostUp = false → passed t ∧ t = entryFailed s s.unit q 10 5 a) ∧
      (s.hostUp = true → match x with
        | .ok pa _ => t.host = .read s.effNo pa 64 :: s.host ∧ t.outst = s.outst ++ [⟨s.effNo, s.wcc, .entry s.unit s.sub⟩]
        | .miss => ∃ w, t.walks = s.walks ++ [w] ∧ w.va = a ∧ w.part = s.unit ∧ w.lev = 4
        | .refuse _ => passed t)) ∧
  (∀ (s : State) (v ph : Nat), cdaDue s s.unit = some (v, ph) →
    let vec := s.fieldOf (offQdesc s.unit + 32) 47 40
    ∃ t, exec .queueMsix s = .next t ∧
      (ph = 2 → s.fieldOf (offQdesc s.unit + 32) 39 39 = 1 → vec < 32 →
        (s.fieldOf (offMsix vec + 8) 32 32 = 0 → t.host = .msix vec :: s.host) ∧
        (s.fieldOf (offMsix vec + 8) 32 32 = 1 → t.host = s.host ∧ t.fieldOf offPba vec vec = 1)) ∧
      (ph ≠ 2 → s.hostUp = true → ∀ pa fl,
        translate s (queueDie s (qPart s s.unit)) (qPart s s.unit) (qCda s s.unit) true = .ok pa fl →
          t.host = .read s.effNo pa 0 :: .write pa (natLe 8 v) :: s.host)) ∧
  (∀ (s : State) (w : Walk), walkDone s s.unit = some w → ∃ t, exec .pageWalkComplete s = .next t ∧
    (∀ x ∈ t.walks, x.no ≠ w.no) ∧
      (w.refused = none → ∀ l, w.leaf = some l → cacheOf t w.die w.part = keepNew (cacheOf s w.die w.part ++ [l]))) ∧
  (∀ (tag st : Nat) (data : Bytes) (s : State),
    (outstTag s tag = none → exec (.hostCompletion tag st data) s = .next s) ∧
    (∀ o, outstTag s tag = some o → ∃ t, exec (.hostCompletion tag st data) s = .next t ∧
      ∀ p slot q, o.why = .entry p slot → sget 0 (s.part p).slots slot = q + 1 → q < 1024 → st = 0 →
        qHead t q = (qHead s q + 1) % 2 ^ 32 ∧ ∃ k, look t.tasks s.taskNo = some k ∧ k.part = p ∧ k.queue = some q ∧
          k.st = .pending ∧ k.lnoff = recLnoff (leNat (data.take 64)))) ∧
  (∀ (tag : Nat) (s : State) (o : Outstanding), timedOut s tag = some o →
    exec (.hostCompletionTimeout tag) s = .next (hostAnswer s o 4 [])) ∧
  (∀ s : State, exec .hostLinkDown s = .next
    ((s.outst.filter fun o => !isPeer o.why).foldl (fun u o => hostAnswer u o 5 []) { s with hostUp := false })) ∧
  (∀ (s : State) (tag since p slot q : Nat), s.outst = [⟨tag, since, .entry p slot⟩] → sget 0 (s.part p).slots slot = q + 1 →
    ∃ t, exec .hostLinkDown s = .next t ∧ t.hostUp = false ∧ t.outst = [] ∧
      t = entryFailed { s with hostUp := false, outst := [] } p q 10 5 (entryAddr s q)) ∧
  (∀ (s : State) (p q st detail a : Nat), q < 1024 →
    let t := entryFailed s p q st detail a
    qHead t q = (qHead s q + 1) % 2 ^ 32 ∧ t.cdaWait = s.cdaWait ++ [(q, (qHead s q + 1) % 2 ^ 32 + 2 ^ 63, 0)] ∧
      t.tasks = s.tasks ∧ t.outst = s.outst) ∧
  ∀ s : State, exec .hostLinkUp s = .next { s with hostUp := true }

/-- Requests from outside. A write, a read or an atomic through BAR2 that maps into its partition's slices waits for its
banks; one that does not leaves memory as it is, and a read or an atomic is then answered with zeros. An atomic that its
entry or HSLOT does not admit is answered with UR. A read of BAR0 or BAR4 is answered at once with the registers' bytes (the
model's choice, log entry 98); what a BAR2 access may name is log entry 58. The peer's requests that name a partition's
slices wait likewise, and others are refused. A message launches every armed record of its tag (13: R350, R351, R355, R356;
17: R423, R424; 19: R461).
Completion of: bar2Write, bar2Read, hostAtomic, peerWrite, peerMessage, peerCompletion, peerLinkChange, hostMessage. -/
def Obligations.OutsideRequests : Prop :=
  (∀ (off : Nat) (data : Bytes) (s : State), bar2Fits off data.length = true →
    ∃ t, exec (.bar2Write off data) s = .next t ∧ t.view0 = s.view0 ∧ t.view1 = s.view1 ∧
      (bar2Maps s off data.length = true → ∃ o, t.bar2 = s.bar2 ++ [o] ∧ o.kind = 0 ∧ o.addr = bar2Addr s off ∧
        o.p = bar2Part s off ∧ o.data = data ∧ o.len = data.length) ∧
      (bar2Maps s off data.length = false → t.bar2 = s.bar2)) ∧
  (∀ (off len : Nat) (s : State), barFits off len = true →
    exec (.bar2Read off len) s =
      .next (hostSend { s with effNo := s.effNo + 1 } (.cpl s.effNo (barRead s (off - 2 ^ 28) len)))) ∧
  (∀ (off len : Nat) (s : State), bar2Fits off len = true →
    ∃ t, exec (.bar2Read off len) s = .next t ∧ t.view0 = s.view0 ∧ t.view1 = s.view1 ∧
      (bar2Maps s off len = true → ∃ o, t.bar2 = s.bar2 ++ [o] ∧ o.kind = 1 ∧ o.addr = bar2Addr s off ∧
        o.p = bar2Part s off ∧ o.len = len) ∧
      (bar2Maps s off len = false → t.bar2 = s.bar2 ∧ t.host = .cpl s.effNo (List.replicate len 0) :: s.host)) ∧
  (∀ (off : Nat) (op : B4) (w : B2) (y z : DWord) (s : State),
    let n := if w = 3 then 8 else 4
    let fit := (op = 0 ∨ op = 5 ∨ op = 6) ∧ off % n = 0 ∧ s.fieldOf (offBar2map (bits off 27 21)) 62 62 = 1
      ∧ 2 ≤ s.fieldOf (offPart (bar2Part s off) rHslot) 15 8
    bar2Fits off n = true → ∃ t, exec (.hostAtomic off op w y z) s = .next t ∧ t.view0 = s.view0 ∧ t.view1 = s.view1 ∧
      (fit → bar2Maps s off n = true → ∃ o, t.bar2 = s.bar2 ++ [o] ∧ o.kind = 2 ∧ o.addr = bar2Addr s off ∧ o.op = op.toNat ∧ o.w = n ∧ o.y = y ∧ o.z = z) ∧
      (fit → bar2Maps s off n = false → t.bar2 = s.bar2 ∧ t.host = .cpl s.effNo (List.replicate n 0) :: s.host) ∧
      (¬fit → t.bar2 = s.bar2 ∧ t.host = .ur s.effNo :: s.host)) ∧
  (∀ (p tag addr op : Nat) (data : Bytes) (s : State), ∃ t, exec (.peerWrite p tag addr op data) s = .next t ∧
    t.view0 = s.view0 ∧ t.view1 = s.view1 ∧
    (op = 0 → p < 4 → data ≠ [] → s.peerUp = true → inSlices s p addr data.length = true →
      ∃ o, t.bar2 = s.bar2 ++ [o] ∧ o.kind = 0 ∧ o.addr = addr ∧ o.p = p ∧ o.data = data ∧ o.peer = some tag) ∧
    (op = 0 → 4 ≤ p ∨ inSlices s p addr data.length = false → t.bar2 = s.bar2 ∧ t.peer = .peerNak tag :: s.peer)) ∧
  (∀ (p tag : Nat) (data : Bytes) (s : State), ∃ t, exec (.peerMessage p tag data) s = .next t ∧
    t.view0 = s.view0 ∧ t.view1 = s.view1 ∧
    (p < 4 → s.peerUp = true → inSlices s p (s.fieldOf (offPart p rPmsga) 47 0) 16 = true →
      ∃ o, t.bar2 = s.bar2 ++ [o] ∧ o.kind = 0 ∧ o.addr = s.fieldOf (offPart p rPmsga) 47 0 ∧ o.len = 16)) ∧
  (∀ (tag : Nat) (ok : Bool) (data : Bytes) (s : State), ∃ t, exec (.peerCompletion tag ok data) s = .next t ∧
    ((∀ o ∈ s.outst, o.tag ≠ tag) → t = s)) ∧
  (∀ (up : Bool) (s : State), ∃ t, exec (.peerLinkChange up) s = .next t ∧
    (t.peerUp = true ↔ up = true ∧ s.fieldOf offPeercfg 0 0 = 1) ∧ t.fieldOf offStatus 3 3 = if t.peerUp = true then 1 else 0) ∧
  ∀ (p : Nat) (v : DWord) (s : State), p < 4 → ∃ t, exec (.hostMessage p v) s = .next t ∧
    ∀ i, i < 256 → recArm (launchRec s p i) = true → recSrc (launchRec s p i) = 4 →
      recTag (launchRec s p i) = (s.part p).msgTag → activeTask s p i = false →
        ∃ n k, look t.tasks n = some k ∧ k.part = p ∧ k.trig = some i ∧ k.arg0 = some (BitVec.ofNat 64 (v.toNat % 2 ^ 48)) ∧
          k.tid = recTid (launchRec s p i)


namespace Sys2Proof.Claims

/-- Memory m' is m with the bytes bs at address a. -/
def put (m m' : Mem) (a : Nat) (bs : Bytes) : Prop :=
  ∀ x, m'.byte x = if a ≤ x ∧ x < a + bs.length then bs.getD (x - a) 0 else m.byte x

end Sys2Proof.Claims

/-- Writes to registers, of 4 or 8 bytes (log entry 57). The budgets of a partition take what is written, after its lock too
(the model's choice, log entry 84); the slice mask, the host window, the channels and the ports of a locked partition do
not. XLINV with ALL empties the partition's caches at once (log entry 60); DBGRES lets a core go on; TBSTEP adds to the time
base, and a synchronisation message does where TBCTL names a port. GO starts an LBP that a partition owns (log entry 83
where several name it) and that has stopped, at its first word; the instruction-memory window takes writes while its LBP is
stopped, and the scratchpad window's go to the bank of a core of a locked partition without tasks. MIGCTL takes the entry
that is written, and GO starts its copy while none runs; REL does not pass PUB; FPIN.FATAL of a partition clears only after
its reset. The safety island reads the fault registers alone (13: R348, R357, R358, R365, R478, R479; 12: R327, R330; 16:
R393, R397; 19: R453).
Completion of: registerWrite, xlinvWrite, dbgresWrite, tbstepWrite, timeSyncMessage, lbpGo, lbpImemWrite,
scratchpadWindowWrite, migctlGo, fringRelWrite, fpinClear, spiRead. -/
def Obligations.RegisterWrites : Prop :=
  (∀ (off n : Nat) (v : DWord) (s : State),
    (n ≠ 4 → n ≠ 8 → exec (.registerWrite off n v) s = .next s) ∧
    (n = 4 ∨ n = 8 → ∃ t, exec (.registerWrite off n v) s = .next t) ∧
    (∀ p, p < 4 → n = 8 → off = offPart p rHoldLimit ∨ off = offPart p rAwaitLimit → ∃ t,
      exec (.registerWrite off n v) s = .next t ∧ t.fieldOf off 31 0 = v.toNat % 2 ^ 32) ∧
    ∀ p r, p < 4 → n = 8 → s.locked p = true → r ∈ [rPtsmask, rPhwin, rChown, rPport, rPlbp] → off = offPart p r →
      exec (.registerWrite off n v) s = .next (regWoken s off)) ∧
  (∀ (p : Nat) (v : DWord) (s : State), p < 4 → ∃ t, exec (.xlinvWrite p v) s = .next t ∧
    (v.getLsbD 1 = true → (t.part p).xl0 = [] ∧ (t.part p).xl1 = []) ∧ t.view0 = s.view0 ∧ t.view1 = s.view1) ∧
  (∀ (v : DWord) (s : State), ∃ t, exec (.dbgresWrite v) s = .next t ∧
    (v.toNat % 128 < 96 → (t.core (v.toNat % 128)).trap.dbgStop = none ∧
      (t.core (v.toNat % 128)).k = (s.core (v.toNat % 128)).k) ∧ (96 ≤ v.toNat % 128 → t = s)) ∧
  (∀ (v : DWord) (s : State), exec (.tbstepWrite v) s = .next { s with tbAdd := s.tbAdd + v }) ∧
  (∀ (inc st : DWord) (s : State),
    let src := s.fieldOf offTbctl 7 5
    (1 ≤ src → src ≤ 4 → ∃ t, exec (.timeSyncMessage inc st) s = .next t ∧ t.fieldOf offTbctl 63 32 = inc.toNat % 2 ^ 32 ∧
      t.fieldOf offTbctl 31 0 = s.fieldOf offTbctl 31 0 ∧ t.tbAdd = s.tbAdd + st) ∧
    (src = 0 ∨ 4 < src → exec (.timeSyncMessage inc st) s = .next s)) ∧
  (∀ (n : Nat) (s : State), n < 64 →
    ((s.lbpOwner n).isSome = true → (s.lbp n).seqr.run = false → ∃ t, exec (.lbpGo n) s = .next t ∧
      (t.lbp n).seqr.run = true ∧ (t.lbp n).seqr.pc = 0 ∧ (t.lbp n).seqr.nextAt = s.wcc + 1 ∧ (t.lbp n).ain = 0 ∧
        (t.lbp n).rin = 0 ∧ (t.lbp n).imem = (s.lbp n).imem ∧ (t.lbp n).buf = (s.lbp n).buf ∧ ∀ c, readS (t.lbp n).seqr c = 0) ∧
    ((s.lbpOwner n).isSome = false ∨ (s.lbp n).seqr.run = true → exec (.lbpGo n) s = .next s)) ∧
  (∀ (off : Nat) (v : DWord) (s : State), off % 8 = 0 → off < 16384 →
    let n := s.fieldOf offLbpimw 5 0
    ((s.lbp n).seqr.run = false → ∃ t, exec (.lbpImemWrite off v) s = .next t ∧
      Claims.put (s.lbp n).imem (t.lbp n).imem off (natLe 8 v.toNat) ∧ (t.lbp n).seqr = (s.lbp n).seqr) ∧
    ((s.lbp n).seqr.run = true → exec (.lbpImemWrite off v) s = .next s)) ∧
  (∀ (off : Nat) (v : DWord) (s : State), off % 8 = 0 → off < 0x80000 →
    (∀ g, windowCore s = some g → ∃ t e, exec (.scratchpadWindowWrite off v) s = .next t ∧
      t.ereqs = s.ereqs ++ [e] ∧ e.wr = runCells (spadBase g + off) (natLe 8 v.toNat) ∧ e.g = g ∧ e.sfd = true ∧
      s.sccOf (s.partOfCore g) ≤ e.arrive ∧ t.view0 = s.view0 ∧ t.view1 = s.view1) ∧
    (windowCore s = none → exec (.scratchpadWindowWrite off v) s = .next s)) ∧
  (∀ (ch : Nat) (v : DWord) (s : State), ch < 16 →
    let busy := s.fieldOf (offDcs ch rMigctl) 9 9
    let go := bits v.toNat 10 10
    ∃ t, exec (.migctlGo ch v) s = .next t ∧ t.fieldOf (offDcs ch rMigctl) 8 0 = v.toNat % 2 ^ 9 ∧
      t.fieldOf (offDcs ch rMigctl) 9 9 = (if busy = 1 then 1 else go) ∧
      (t.dcsAt ch).mig = if busy = 0 ∧ go = 1 then some (bits v.toNat 8 8, bits v.toNat 7 4, bits v.toNat 3 0)
        else (s.dcsAt ch).mig) ∧
  (∀ (x : Nat) (v : DWord) (s : State), x < 5 →
    let rel := bits v.toNat 31 16
    let pub := s.fieldOf (offFring x) 15 0
    let old := s.fieldOf (offFring x) 31 16
    ((rel + 2 ^ 16 - old) % 2 ^ 16 ≤ (pub + 2 ^ 16 - old) % 2 ^ 16 → ∃ t, exec (.fringRelWrite x v) s = .next t ∧
      t.fieldOf (offFring x) 31 16 = rel ∧ t.fieldOf (offFring x) 15 0 = pub) ∧
    ((pub + 2 ^ 16 - old) % 2 ^ 16 < (rel + 2 ^ 16 - old) % 2 ^ 16 → exec (.fringRelWrite x v) s = .next s)) ∧
  (∀ (v : DWord) (s : State), ∃ t, exec (.fpinClear v) s = .next t ∧ ∀ p, p < 4 → s.fieldOf offFpin (20 + p) (20 + p) = 1 →
    t.fieldOf offFpin (20 + p) (20 + p) = if bits v.toNat (20 + p) (20 + p) = 1 ∧ p ∈ s.seqReset then 0 else 1) ∧
  ∀ (off len : Nat) (s : State),
    (offFpin ≤ off → off + len ≤ 0x100000 → exec (.spiRead off len) s = .next { s with spi := regBytesAt s off len }) ∧
    (off < offFpin ∨ 0x100000 < off + len → exec (.spiRead off len) s = .next { s with spi := [] })

/-- Locks, resets and links. A lock is granted where no resource of the partition is another's; a reset of a partition ends
its tasks at once, and leaves its sequencers stopped, its schedule time at 0 and its lock open. A link's CRC retry holds every
partition with a slot on it until the retry has come through; after 16 that have failed the link retrains, and the third
retraining that fails withdraws it (13: R358, R359; 19: R459, R463; 02: R60).
Completion of: configLockRequest, partitionReset, partitionResetDone, linkCrcRetry, linkRetryComplete, linkRetrain,
linkRetrainEnd. -/
def Obligations.LocksResetsLinks : Prop :=
  (∀ (v : DWord) (s : State), ∃ t, exec (.configLockRequest v) s = .next t ∧ (ready s = false → t = s) ∧
    ∀ p, p < 4 → v = BitVec.ofNat 64 (2 ^ (8 + p)) → ready s = true →
      t.fieldOf offCfglock (4 + p) (4 + p) = (if lockOverlap s p = true then 1 else 0) ∧
      t.fieldOf offCfglock p p = (if lockOverlap s p = true then s.fieldOf offCfglock p p else 1)) ∧
  (∀ (v : DWord) (s : State), ∃ t, exec (.partitionReset v) s = .next t ∧ ∀ p, p < 4 → bits v.toNat p p = 1 →
    (t.part p).resetting = some (s.wcc + 400000) ∧ (∀ e ∈ t.tasks, e.2.part ≠ p) ∧
      ∀ g, s.partOfCore g = p → ∀ q, ((t.core g).seqr q).run = false) ∧
  (∀ s : State, resetEnds s s.unit = true → ∃ t, exec .partitionResetDone s = .next t ∧ (t.part s.unit).resetting = none ∧
    (t.part s.unit).scc = 0 ∧ s.unit ∈ t.seqReset ∧ t.locked s.unit = false ∧
      ∀ g, s.partOfCore g = s.unit → ∀ q, ((t.core g).seqr q).run = false ∧ ∀ c, readS ((t.core g).seqr q) c = 0) ∧
  (∀ (l : Nat) (s : State), l < 3 →
    (s.gone l = true → exec (.linkCrcRetry l) s = .next s) ∧
    (s.gone l = false → ∃ t, exec (.linkCrcRetry l) s = .next t ∧ ∀ p, p < 4 →
      s.fieldOf (offPart p rPslot) (16 * l + 15) (16 * l) ≠ 0 → ∃ e ∈ (t.part p).retry, e.1 = l)) ∧
  (∀ (l : Nat) (ok : Bool) (s : State), l < 3 →
    let n := sget 0 s.linkRetry l
    (s.gone l = true ∨ 16 ≤ n → exec (.linkRetryComplete l ok) s = .next s) ∧
    (s.gone l = false → n < 16 → ok = true → ∃ t, exec (.linkRetryComplete l ok) s = .next t ∧
      sget 0 t.linkRetry l = 0 ∧ ∀ p, ∀ e ∈ (t.part p).retry, e.1 ≠ l) ∧
    (s.gone l = false → n < 16 → ok = false → ∃ t, exec (.linkRetryComplete l ok) s = .next t ∧
      sget 0 t.linkRetry l = n + 1 ∧ t.parts = s.parts)) ∧
  (∀ (l : Nat) (s : State), trainDue s l = true → ∃ t, exec (.linkRetrain l) s = .next t ∧ trainDue t l = false ∧
    sget 0 t.linkRetry l = 17) ∧
  ∀ (l : Nat) (ok : Bool) (s : State), l < 3 →
    (sget 0 s.linkRetry l ≠ 17 → exec (.linkRetrainEnd l ok) s = .next s) ∧
    (sget 0 s.linkRetry l = 17 → ∃ t, exec (.linkRetrainEnd l ok) s = .next t ∧
      (ok = true → sget 0 t.linkRetry l = 0 ∧ t.gone l = s.gone l) ∧
      (ok = false → 2 ≤ sget 0 s.linkTrain l → t.gone l = true) ∧
      (ok = false → sget 0 s.linkTrain l < 2 → sget 0 t.linkRetry l = 16 ∧
        sget 0 t.linkTrain l = sget 0 s.linkTrain l + 1 ∧ t.gone l = s.gone l))

/-- Device reset and boot. A device reset stops every sequencer, drops every task and clears READY, but leaves the contact
sheet, and what the views hold (log entry 56); power-on leaves nothing. BOOTCTL.GO counts an attempt unless the device is
ready or booting (log entry 54), and a wrong magic number fails it with code 1; when a boot ends the memories are zero,
READY is set and the management controller starts at its first word. A report answers ATTCTL.GO once the device is ready
(13: R348, R361 to R363; 16: R401; 19: R462).
Completion of: deviceReset, powerOn, bootGo, bootReady, attestGo. -/
def Obligations.DeviceResetAndBoot : Prop :=
  (∀ s : State, ∃ t, exec .deviceReset s = .next t ∧ (∀ a, (t.seqr a).run = false) ∧ t.tasks = [] ∧ ready t = false ∧
    t.wcc = 0 ∧ t.view0 = s.view0 ∧ t.view1 = s.view1 ∧
      (s.csPend = [] → t.reg offCshead = s.reg offCshead ∧ ∀ n, n < 4096 →
        bar0Read t (offCsheet + 32 * n) 32 = bar0Read s (offCsheet + 32 * n) 32)) ∧
  (∀ s : State, ∃ t, exec .powerOn s = .next t ∧ (∀ a, (t.seqr a).run = false) ∧ t.tasks = [] ∧ ready t = false ∧ t.wcc = 0 ∧
    t.view0 = [] ∧ t.view1 = [] ∧ t.bar0 = []) ∧
  (∀ s : State,
    (ready s = true ∨ s.bootAt.isSome = true → exec .bootGo s = .next s) ∧
    (ready s = false → s.bootAt = none → ∃ t, exec .bootGo s = .next t ∧
      t.fieldOf offBootstat 31 24 = (s.fieldOf offBootstat 31 24 + 1) % 2 ^ 8 ∧ ready t = false ∧
      (s.reg32 offBootSram ≠ 0x4C424D39 → t.fieldOf offBootstat 7 0 = 1 ∧ t.bootAt = none) ∧
      (t.bootAt.isSome = true → t.fieldOf offBootstat 23 0 = 0))) ∧
  (∀ (s : State) (b : Nat), s.bootAt = some b → b ≤ s.wcc → ∃ t, exec .bootReady s = .next t ∧ ready t = true ∧
    t.bootAt = none ∧ t.view0 = [] ∧ t.view1 = [] ∧ t.cores = [] ∧ t.mgmt.run = true ∧ t.mgmt.pc = 0 ∧
      t.mgmt.nextAt = s.wcc + 1) ∧
  ∀ s : State, (ready s = false → exec .attestGo s = .next s) ∧
    (ready s = true → ∃ t, exec .attestGo s = .next t ∧ t.fieldOf offAttctl 1 0 = 2 ∧ t.view0 = s.view0 ∧ t.view1 = s.view1)

/-- Untimed accesses and views. An untimed access that may perform performs in those of its sectors that are served in this
cycle. A write that is due in a die's view is applied there: its bytes and no others change in that view, and the other
view does not (04: R106, R112, R113). -/
def Sys2Proof.Claims.AccessesAndViews : Prop :=
  (∀ (s : State) (r : UReq) (secs : List Nat),
    s.reqs.find? (fun r => r.id = s.unit && (reqNow s r).isSome) = some r →
    reqNow s r = some secs → exec .untimedAccessPerform s = .next (reqServe s r secs)) ∧
  ∀ (s : State) (w : VWrite) (cs : List (Nat × Byte)),
    s.vwrites.find? (fun w => w.id = s.unit && applyDue s w s.sub) = some w →
    w.left s.sub = some cs → ∃ t, exec .writeAppliedInView s = .next t ∧
      (∀ x, (∀ c ∈ cs, c.1 ≠ x) → (t.view s.sub).byte x = (s.view s.sub).byte x) ∧
      (∀ c ∈ cs, (∀ e ∈ cs, e.1 = c.1 → e.2 = c.2) → (t.view s.sub).byte c.1 = c.2) ∧
      t.view (1 - s.sub) = s.view (1 - s.sub) ∧ t.cores = s.cores


/-- Untimed accesses perform in the sectors that are served, and each view applies a write once (04: R106, R112, R113).
Completion of: untimedAccessPerform, writeAppliedInView. -/
def Obligations.UntimedAndViews : Prop := Sys2Proof.Claims.AccessesAndViews ∧ Sys2Proof.Claims.WritesApply

/-- Words written out by the tables of 06 decode to what they stand for: the spec's own words for BEXT s7, s3, 12, 8, for LOOP,
for a VFMA under a mask and for an ADD with dependencies and padding; then ADDI, LIM, BR, BLT, CSRR, VADD, MMUL, PUSH, LD.D, a
two-word ST.W, VLD, RPUB, BRMW, DACT, DRD to a weight buffer, TAP and HALT (06: R152, R156 to R164; 07: R181, R189). -/
def Sys2Proof.Claims.DecodeWords : Prop :=
  let ok (k : SeqKind) (timed : Bool) (w0 w1 : W32) (i : Instr) : Prop := decode k 0 timed w0 w1 = .ok i
  let z : Hdr := ⟨false, false, false, false, 0⟩
  ok (.tile .k) false 0x024470C0 0x05003070 (.bext z 7 3 12 7) ∧
  ok (.tile .k) false 0x02641042 0x00000003 (.loop z 0 1 1 2 3) ∧
  ok (.tile .c) false 0x02904001 0x00000982 (.vfma z ⟨4, 0, 1⟩ ⟨0, 0, 0, true, 1, true, false, 2⟩) ∧
  ok (.tile .s) false 0x98043042 0 (.add ⟨true, false, false, true, 2⟩ ⟨3, 1, 2⟩) ∧
  ok (.tile .l) true 0x84241FFF 0 (.addi ⟨true, false, false, false, 1⟩ 1 0xFFF) ∧
  ok .mgmt false 0x0238A123 0x0ABCDEF0 (.limX z 10 0x123 0xABCDEF0) ∧
  ok .lbp false 0x004BFFFE 0 (.br z 0x3FFFE) ∧
  ok (.tile .k) false 0x02541080 0x0FFFFFFE (.blt z 1 2 0xFFFFFFE) ∧
  ok (.tile .c) false 0x00785020 0 (.csrr z 5 0x020) ∧
  ok (.tile .c) false 0x02802105 0x00080B80 (.vadd z ⟨2, 4, 5⟩ ⟨1, 0, 0, true, 3, true, false, 0⟩) ∧
  ok (.tile .c) true 0x03400043 0x0005A998 (.mmul z ⟨0, 1, 3⟩ ⟨5, 2, true, 1, 3, 3, 0⟩) ∧
  ok (.tile .s) true 0x03E01200 0x00094000 (.push z ⟨1, 8, 0⟩ ⟨9, 1, false, 0, 0, 0, 0⟩) ∧
  ok (.tile .k) false 0x018C3142 0 (.ldD z 3 5 2) ∧
  ok (.tile .k) false 0x03981080 0x0FFFFFFC (.stWX z 1 2 0xFFFFFFC) ∧
  ok (.tile .l) false 0x03A03100 0x000FFFFF (.vld z ⟨3, 4, 0⟩ ⟨false, 0, false, 0xFFFFF⟩) ∧
  ok (.tile .k) false 0x03C00100 0x00000107 (.rpub z ⟨0, 4, 0⟩ ⟨0, 7⟩) ∧
  ok (.tile .k) false 0x03D461C8 0x06C90000 (.brmw z ⟨6, 7, 8⟩ ⟨6, 3, 9, false⟩) ∧
  ok .dcs true 0x03E81C80 0x00012345 (.dact z ⟨1, true, 9⟩ 0x12345) ∧
  ok .dcs true 0x03E8620B 0x0002C123 (.drdWb z ⟨2, false, 4⟩ 5 11 0x123) ∧
  ok .lbp false 0x031C1083 0x002DB001 (.tap z ⟨1, 2, 3⟩ false 0 11 3 3 1) ∧
  ok (.tile .k) false 0x01F10000 0 (.halt z)

/-- The first checks on any words, in their order: a reserved major; a major outside the profile of the sequencer; a word
count that the major does not have; a function that its table does not list; the upper bits of an extension word
(18: R428). -/
def Sys2Proof.Claims.ChecksInOrder : Prop :=
  ∀ (k : SeqKind) (die : Nat) (timed : Bool) (w0 w1 : W32),
    let op := (opOf w0).toNat
    let fn := (fld w0 15 3 : B3).toNat
    (reservedMajor op = true → decode k die timed w0 w1 = .error ⟨.illegalOp, 0x0001⟩) ∧
    (reservedMajor op = false → inProfile k op fn = false → decode k die timed w0 w1 = .error ⟨.illegalOp, 0x0003⟩) ∧
    (reservedMajor op = false → inProfile k op fn = true → wordsAgree op (w0.getLsbD 25) = false →
      decode k die timed w0 w1 = .error ⟨.illegalOp, 0x0004⟩) ∧
    (reservedMajor op = false → inProfile k op fn = true → wordsAgree op (w0.getLsbD 25) = true → build w0 w1 = none →
      decode k die timed w0 w1 = .error ⟨.illegalOp, 0x0002⟩) ∧
    (reservedMajor op = false → inProfile k op fn = true → wordsAgree op (w0.getLsbD 25) = true → (build w0 w1).isSome = true →
      w0.getLsbD 25 = true → (fld w1 28 4 : B4) ≠ 0 → decode k die timed w0 w1 = .error ⟨.illegalExt, 0x0001⟩)

/-- Written words decode to what they stand for, and the first checks refuse words in their order (06: R152 to R164; 18: R428). -/
def Obligations.DecodeChecks : Prop := Sys2Proof.Claims.DecodeWords ∧ Sys2Proof.Claims.ChecksInOrder

/-- Every instruction that is well-formed in a sequencer of its profile is what its words decode to: no operand at any value
is lost or changed (06: R152 to R164; 18: R428). -/
def Obligations.DecodeEncode : Prop :=
  ∀ (k : SeqKind) (die : Nat) (timed : Bool) (i : Instr) (w1 : W32), i.wf k die timed = true →
    let w0 := (encode i).headD 0
    inProfile k (opOf w0).toNat (fld w0 15 3 : B3).toNat = true →
    decode k die timed w0 ((encode i).getD 1 w1) = .ok i ∧ (encode i).length = wordCount w0

/-- Words that decode are the words of what they decode to, which is well-formed: each instruction has one encoding
(06: R152 to R164; 18: R428). -/
def Obligations.OneEncoding : Prop :=
  ∀ (k : SeqKind) (die : Nat) (timed : Bool) (w0 w1 : W32) (i : Instr), decode k die timed w0 w1 = .ok i →
    encode i = (if w0.getLsbD 25 = true then [w0, w1] else [w0]) ∧ i.wf k die timed = true

/-- While the cycle's reads have not performed: when no input has come, nothing of the device is due and sequencer a is the next
that issues, the words at its place are decoded: a step executes the instruction that they hold, as that sequencer's; an
instruction past the end of the stream, or words that fail a check, stop it with their cause, in tokened code once the tokens and
the room that their nibble names are there. A checking core's sequencer executes the
instruction at its own place, or is placed as its leading core's was. A due input or event is executed first; when nothing
is left, sequencers that wait for one another's room in their queues are looked at again, and then the scheduled reads perform.
Then untimed accesses take their banks' open cycles one after the other, views apply
what is due, and the cycle's work is done; then substitutes for lost rows that now have room, inputs of sensors and the events of
the end of the cycle are executed, and the cycle ends. The order of the parts of a cycle is that of log entries 14 and 76, and the
extension word of an instruction at the end of a stream that of 90 (02: R35, R38, R66; 03: R89; 06: R153; 18: R428, R429; 19:
R454). -/
def Obligations.StepRunsDecoded : Prop :=
  (∀ (s : State) (a : Actor), s.worked = false → s.readDone = false → takeInput s.wcc isInput s.inputs = none →
    dueEarly s = none → nextSeqr s = some a →
    let q := s.seqr a
    let at_ := (codeOf s a).2 + q.pc
    (checking s a = none → (q.len ≤ q.pc → step s = .next (refuse s a .bounds 5 0)) ∧
      ∀ w0 w1 : W32, (∀ j < 4, (codeOf s a).1.byte (at_ + j) = (wordBytes w0).getD j 0) →
        (∀ j < 4, (codeOf s a).1.byte (at_ + 4 + j) = (wordBytes w1).getD j 0) → q.pc < q.len →
        (∀ i, decode (kindOf a) (dieOfActor a) (s.timedOf a) w0 w1 = .ok i → step s = exec i { s with actor := a }) ∧
        (∀ r, decode (kindOf a) (dieOfActor a) (s.timedOf a) w0 w1 = .error r →
          let free : Prop := tokensThere (hdrOf w0) q = true ∧ signalsFit s (hdrOf w0) a = true
          (s.timedOf a = true ∨ q.qual = some false ∨ free →
            step s = .next (refuse s a r.cause r.detail.toNat ((if r.cause = .illegalExt then w1 else w0).setWidth 64))) ∧
          (s.timedOf a = false → q.qual ≠ some false → ¬ free → step s = .next (s.block a)))) ∧
    ∀ (g : Nat) (n : SeqId) (e : Trail), a = .core g n → checking s a = some e →
      (e.move ≠ [] → step s = .next (checkMove s (g - 1) e)) ∧
      ∀ i, e.move = [] → q.pc < q.len → fetch s a = .ok i → step s = exec i { s with actor := a }) ∧
  (∀ (s : State) (i : Instr) (rest : List (Nat × Instr)), s.worked = false → s.readDone = false →
    takeInput s.wcc isInput s.inputs = some (i, rest) → step s = exec i { s with inputs := rest }) ∧
  (∀ (s : State) (e : Due), s.worked = false → s.readDone = false → takeInput s.wcc isInput s.inputs = none →
    dueEarly s = some e → step s = exec e.i (s.place e)) ∧
  (∀ s : State, s.worked = false → s.readDone = false → takeInput s.wcc isInput s.inputs = none → dueEarly s = none →
    nextSeqr s = none → (keptCore s = none → step s = .next (reads s)) ∧
      ∀ g, keptCore s = some g → step s = .next (settleKept s g)) ∧
  (∀ s : State, s.worked = false → s.readDone = true →
    (∀ r secs, firstClaim s = some (.req r secs) → step s = exec .untimedAccessPerform { s with unit := r.id }) ∧
    (∀ e secs, firstClaim s = some (.ereq e secs) → step s = .next (ereqServe s e secs)) ∧
    (∀ o secs, firstClaim s = some (.bar2 o secs) → step s = .next (bar2Grant s o secs)) ∧
    (firstClaim s = none → (∀ e, dueMid s = some e → step s = exec e.i (s.place e)) ∧
      (dueMid s = none → step s = .next (work s)))) ∧
  (∀ (s : State) (e : Due), s.worked = true → overruns s = some e → step s = exec e.i (s.place e)) ∧
  (∀ (s : State) (i : Instr) (rest : List (Nat × Instr)), s.worked = true → overruns s = none →
    takeInput s.wcc isSensor s.inputs = some (i, rest) →
    step s = exec i { s with inputs := rest }) ∧
  (∀ (s : State) (e : Due), s.worked = true → overruns s = none → takeInput s.wcc isSensor s.inputs = none → dueLate s = some e →
    step s = exec e.i (s.place e)) ∧
  ∀ s : State, s.worked = true → overruns s = none → takeInput s.wcc isSensor s.inputs = none → dueLate s = none →
    step s = .next (advanceTime s)

/-- A wall cycle ends: WCC advances by one, the schedule time of a partition does so unless it is held, and the time base
advances by its increment and by a step written in the cycle; no scalar register, vector register, accumulator, weight or byte
of memory changes (02: R38, R39; 12: R327). -/
def Obligations.CycleEnds : Prop :=
  ∀ s : State,
    let t := advanceTime s
    t.wcc = s.wcc + 1 ∧ t.worked = false ∧
      (∀ p, p < 4 → (t.part p).scc = if s.held p = true then (s.part p).scc else (s.part p).scc + 1) ∧
      (∀ p, p < 4 → s.held p = true → (t.part p).hold = (s.part p).hold) ∧
      t.tb = (s.tb + s.fieldOf offTbctl 63 32 + (s.tbAdd.toInt * 2 ^ 28 % 2 ^ 92).toNat) % 2 ^ 92 ∧ t.tbAdd = 0 ∧
      t.view0 = s.view0 ∧ t.view1 = s.view1 ∧ t.mgmtMem = s.mgmtMem ∧
      (∀ a c, readS (t.seqr a) c = readS (s.seqr a) c) ∧ (∀ a, (t.seqr a).pc = (s.seqr a).pc) ∧
      ∀ g, (t.core g).vrf = (s.core g).vrf ∧ (t.core g).acc = (s.core g).acc ∧ (t.core g).wb = (s.core g).wb

/-- Every step of a device whose inputs name units that it has completes: no sequence of instructions, events and inputs
makes the machine stop, and none is refused (02: R35; 16: R390 to R395). -/
def Obligations.StepCompletes : Prop := ∀ s : State, InputsOk s → Steps s

/-- Memory. A write changes the bytes that it names and no others, and reading them back gives them; in the canonical form
two memories that read alike are the same, and every write keeps that form (03: R80, R88; 00: R3). -/
def Obligations.MemoryLaws : Prop :=
  (∀ (m : Mem) (a : Nat) (bs : Bytes), m.wf = true → (m.write a bs).wf = true ∧ (m.write a bs).read a bs.length = bs ∧
    ∀ b n, b + n ≤ a ∨ a + bs.length ≤ b → (m.write a bs).read b n = m.read b n) ∧
  (∀ (m : Mem) (cs : List (Nat × Byte)), m.wf = true → (m.writeCells cs).wf = true ∧
    ∀ a, (∀ c ∈ cs, c.1 ≠ a) → (m.writeCells cs).byte a = m.byte a) ∧
  (∀ (m : Mem) (a : Nat) (b : Byte), m.wf = true → (m.setByte a b).wf = true ∧ (m.setByte a b).byte a = b) ∧
  ∀ m n : Mem, m.wf = true → n.wf = true → (∀ a, m.byte a = n.byte a) → m = n

/-- Every step keeps the canonical form of both views and of the management controller's memory (03: R80, R88; 13: R346). -/
def Obligations.StepKeepsMemoryForm : Prop :=
  ∀ s t : State, MemoryWf s → step s = .next t → MemoryWf t

/-- The state after device reset: the counters are 0, nothing runs, no task exists and nothing is on its way; registers hold
the values of their reset columns; the memories are in canonical form. Scalar registers read 0: the model's choice, as log
entry 1 says (00: R8; 02: R38, R43, R57; 11: R319; 12: R327, R330; 13: R351, R361; 16: R397). -/
def Obligations.ResetState : Prop :=
  let s := State.reset
  s.wcc = 0 ∧ (∀ p, p < 4 → (s.part p).scc = 0 ∧ s.held p = false) ∧ (∀ a, (s.seqr a).run = false) ∧ s.tasks = [] ∧
  s.inputs = [] ∧ s.reqs = [] ∧ s.ereqs = [] ∧ s.vwrites = [] ∧ s.hostUp = true ∧ s.peerUp = false ∧ ready s = false ∧
  (∀ p, p < 4 → s.locked p = false ∧ s.fieldOf (offPart p rHoldLimit) 31 0 = 8000000 ∧
    s.fieldOf (offPart p rAwaitLimit) 31 0 = 800000 ∧ s.fieldOf (offPart p rHslot) 7 0 = 0xE0 ∧ s.fieldOf (offPart p rHslot) 15 8 = 4) ∧
  (∀ n, n < 64 → s.fieldOf (offLbpcfg n) 15 8 = 128) ∧ (∀ h, h < 16 → (s.dcsAt h).multOf = 2) ∧
  s.fieldOf offTbctl 63 32 = 0x28000000 ∧ s.fieldOf offFpin 0 0 = 1 ∧ s.fieldOf offFpin 1 1 = 1 ∧
  (∀ g, g < 96 → s.partOfCore g = 0) ∧ (∀ a c, readS (s.seqr a) c = 0) ∧ MemoryWf s
end

