-- ==== Sys2Proof/Laws/Store.lean ====
section
/-! SUPPORT. What the operations of sparse stores do: reading after writing, and the canonical form, which every
operation keeps. -/

namespace Sys2Proof.Machine

section
variable {β : Type}

/-! ### Reading after writing -/

@[simp] theorem look_nil (k : Nat) : look ([] : SMap β) k = none := rfl

@[simp] theorem sget_nil (d : β) (k : Nat) : sget d [] k = d := rfl

@[simp] theorem look_insert_same (m : SMap β) (k : Nat) (v : β) : look (insert m k v) k = some v := by
  induction m with
  | nil => simp [insert, look]
  | cons e m ih =>
    obtain ⟨j, u⟩ := e
    simp only [insert]
    split
    · simp [look]
    · split
      · simp [look]
      · simp [look, *]

theorem look_insert_other (m : SMap β) {k j : Nat} (v : β) (h : j ≠ k) : look (insert m k v) j = look m j := by
  induction m with
  | nil => simp [insert, look, Ne.symm h]
  | cons e m ih =>
    obtain ⟨l, u⟩ := e
    simp only [insert]
    split
    · simp [look, Ne.symm h]
    · split
      · next hl => subst hl; simp [look, Ne.symm h]
      · simp only [look, ih]

@[simp] theorem look_erase_same (m : SMap β) (k : Nat) : look (erase m k) k = none := by
  induction m with
  | nil => rfl
  | cons e m ih =>
    obtain ⟨j, u⟩ := e
    simp only [erase]
    split
    · exact ih
    · next h => simp [look, h, ih]

theorem look_erase_other (m : SMap β) {k j : Nat} (h : j ≠ k) : look (erase m k) j = look m j := by
  induction m with
  | nil => rfl
  | cons e m ih =>
    obtain ⟨l, u⟩ := e
    simp only [erase]
    split
    · next hl => subst hl; simp [look, Ne.symm h, ih]
    · simp only [look, ih]

@[simp] theorem sget_insert_same (d : β) (m : SMap β) (k : Nat) (v : β) : sget d (insert m k v) k = v := by
  simp [sget]

theorem sget_insert_other (d : β) (m : SMap β) {k j : Nat} (v : β) (h : j ≠ k) : sget d (insert m k v) j = sget d m j := by
  simp [sget, look_insert_other m v h]

theorem look_append (a b : SMap β) (k : Nat) : look (a ++ b) k = (look a k).or (look b k) := by
  induction a with
  | nil => simp
  | cons e a ih =>
    obtain ⟨j, u⟩ := e
    by_cases h : j = k <;> simp [look, h, ih]

theorem look_below (m : SMap β) (lo k : Nat) : look (below m lo) k = if k < lo then look m k else none := by
  induction m with
  | nil => simp [below]
  | cons e m ih =>
    obtain ⟨j, u⟩ := e
    simp only [below] at ih ⊢
    by_cases h : j < lo <;> by_cases hk : j = k
    · subst hk; simp [look, h]
    · simp [look, h, hk, ih]
    · subst hk; simp [h, ih]
    · simp [look, h, hk, ih]

theorem look_above (m : SMap β) (lo k : Nat) : look (above m lo) k = if lo ≤ k then look m k else none := by
  induction m with
  | nil => simp [above]
  | cons e m ih =>
    obtain ⟨j, u⟩ := e
    simp only [above] at ih ⊢
    by_cases h : lo ≤ j <;> by_cases hk : j = k
    · subst hk; simp [look, h]
    · simp [look, h, hk, ih]
    · subst hk; simp [h, ih]
    · simp [look, h, hk, ih]

variable [DecidableEq β]

/-- A read of the key last written gives the value written. -/
@[simp] theorem sget_sset_same (d : β) (m : SMap β) (k : Nat) (v : β) : sget d (sset d m k v) k = v := by
  unfold sset sget
  split
  · simp [*]
  · simp

/-- A write leaves every other key alone. -/
theorem sget_sset_other (d : β) (m : SMap β) {k j : Nat} (v : β) (h : j ≠ k) : sget d (sset d m k v) j = sget d m j := by
  unfold sset sget
  split
  · rw [look_erase_other m h]
  · rw [look_insert_other m v h]

theorem sget_sset (d : β) (m : SMap β) (k j : Nat) (v : β) :
    sget d (sset d m k v) j = if j = k then v else sget d m j := by
  split
  · next h => subst h; simp
  · next h => exact sget_sset_other d m v h

/-! ### Runs of values -/

theorem look_cells (d : β) (vs : List β) (lo k : Nat) :
    (look (cells d lo vs) k).getD d = if lo ≤ k then vs.getD (k - lo) d else d := by
  induction vs generalizing lo with
  | nil => simp [cells]
  | cons v vs ih =>
    rcases Nat.lt_trichotomy k lo with h | h | h
    · have h1 : ¬ lo ≤ k := by omega
      have h2 : ¬ lo + 1 ≤ k := by omega
      simp only [cells]
      split
      · rw [ih, if_neg h2]
      · have h3 : ¬ lo = k := by omega
        rw [look, if_neg h3, ih, if_neg h2]
    · subst h
      simp only [cells]
      split
      · next hv => rw [ih, if_neg (by omega)]; simp [hv]
      · simp [look]
    · have h1 : lo ≤ k := by omega
      have h2 : lo + 1 ≤ k := by omega
      have h4 : k - lo = (k - (lo + 1)) + 1 := by omega
      simp only [cells]
      split
      · rw [ih, if_pos h2]; simp [h4]
      · have h3 : ¬ lo = k := by omega
        rw [look, if_neg h3, ih, if_pos h2]; simp [h4]

theorem look_cells_none (d : β) (vs : List β) (lo k : Nat) (h : k < lo ∨ lo + vs.length ≤ k) : look (cells d lo vs) k = none := by
  induction vs generalizing lo with
  | nil => rfl
  | cons v vs ih =>
    have h' : k < lo + 1 ∨ lo + 1 + vs.length ≤ k := by simp only [List.length_cons] at h; omega
    simp only [cells]
    split
    · exact ih _ h'
    · have h3 : ¬ lo = k := by simp only [List.length_cons] at h; omega
      rw [look, if_neg h3]; exact ih _ h'

/-- A read after a run was written: in the run the value written there, elsewhere what stood there before. -/
theorem sget_splice (d : β) (m : SMap β) (lo k : Nat) (vs : List β) :
    sget d (splice d m lo vs) k = if lo ≤ k ∧ k < lo + vs.length then vs.getD (k - lo) d else sget d m k := by
  have hc := look_cells d vs lo k
  unfold sget splice
  rw [look_append, look_append, look_below, look_above]
  rcases Nat.lt_trichotomy k lo with h | h | h
  · have h1 : ¬ lo ≤ k := by omega
    have h2 : ¬ lo + vs.length ≤ k := by omega
    rw [look_cells_none d vs lo k (.inl h)]
    simp [h, h1, h2]
  · subst h
    by_cases h2 : vs.length = 0
    · have : vs = [] := List.length_eq_zero_iff.mp h2
      subst this; simp [cells]
    · have h3 : ¬ k + vs.length ≤ k := by omega
      have h4 : k < k + vs.length := by omega
      have hn : ¬ k < k := by omega
      rw [if_neg hn, if_neg h3, if_pos ⟨Nat.le_refl k, h4⟩, Option.none_or, Option.or_none]
      simpa using hc
  · have hn : ¬ k < lo := by omega
    have hl : lo ≤ k := by omega
    rw [if_neg hn, Option.none_or]
    by_cases h2 : k < lo + vs.length
    · have h3 : ¬ lo + vs.length ≤ k := by omega
      rw [if_neg h3, if_pos ⟨hl, h2⟩, Option.or_none]
      rw [if_pos hl] at hc; exact hc
    · have h3 : lo + vs.length ≤ k := by omega
      rw [look_cells_none d vs lo k (.inr h3), if_pos h3, Option.none_or, if_neg (by omega)]

/-! ### The canonical form -/

/-- Every key of the store lies above the bound. -/
def aboveBound : Option Nat → Nat → Prop
  | none, _ => True
  | some l, k => l < k

theorem wfFrom_cons (d : β) (lo : Option Nat) (j : Nat) (v : β) (m : SMap β) :
    wfFrom d lo ((j, v) :: m) = true ↔ aboveBound lo j ∧ v ≠ d ∧ wfFrom d (some j) m = true := by
  cases lo <;> simp [wfFrom, aboveBound, and_assoc]

theorem wfFrom_mono (d : β) {lo lo' : Option Nat} (m : SMap β) (h : ∀ k, aboveBound lo k → aboveBound lo' k)
    (hm : wfFrom d lo m = true) : wfFrom d lo' m = true := by
  cases m with
  | nil => rfl
  | cons e m =>
    rw [wfFrom_cons] at hm ⊢
    exact ⟨h _ hm.1, hm.2⟩

theorem wfFrom_erase (d : β) (lo : Option Nat) (m : SMap β) (k : Nat) (h : wfFrom d lo m = true) :
    wfFrom d lo (erase m k) = true := by
  induction m generalizing lo with
  | nil => rfl
  | cons e m ih =>
    obtain ⟨j, u⟩ := e
    rw [wfFrom_cons] at h
    simp only [erase]
    split
    · refine wfFrom_mono d _ ?_ (ih _ h.2.2)
      intro x hx
      cases lo with
      | none => trivial
      | some l => exact Nat.lt_trans h.1 hx
    · rw [wfFrom_cons]; exact ⟨h.1, h.2.1, ih _ h.2.2⟩

theorem wfFrom_insert (d : β) (lo : Option Nat) (m : SMap β) (k : Nat) (v : β) (hk : aboveBound lo k) (hv : v ≠ d)
    (h : wfFrom d lo m = true) : wfFrom d lo (insert m k v) = true := by
  induction m generalizing lo with
  | nil => rw [insert, wfFrom_cons]; exact ⟨hk, hv, rfl⟩
  | cons e m ih =>
    obtain ⟨j, u⟩ := e
    rw [wfFrom_cons] at h
    simp only [insert]
    split
    · next hlt =>
      rw [wfFrom_cons, wfFrom_cons]
      exact ⟨hk, hv, hlt, h.2.1, h.2.2⟩
    · next hnlt =>
      split
      · next he => subst he; rw [wfFrom_cons]; exact ⟨hk, hv, h.2.2⟩
      · next hne =>
        rw [wfFrom_cons]
        refine ⟨h.1, h.2.1, ih _ ?_ h.2.2⟩
        show j < k
        omega

/-- Writing one value keeps the canonical form. -/
theorem swf_sset (d : β) (m : SMap β) (k : Nat) (v : β) (h : swf d m = true) : swf d (sset d m k v) = true := by
  unfold sset swf at *
  split
  · exact wfFrom_erase d none m k h
  · next hv => exact wfFrom_insert d none m k v trivial hv h

theorem wfFrom_filter (d : β) (lo : Option Nat) (m : SMap β) (p : Nat × β → Bool) (h : wfFrom d lo m = true) :
    wfFrom d lo (m.filter p) = true := by
  induction m generalizing lo with
  | nil => rfl
  | cons e m ih =>
    obtain ⟨j, u⟩ := e
    rw [wfFrom_cons] at h
    simp only [List.filter_cons]
    split
    · rw [wfFrom_cons]; exact ⟨h.1, h.2.1, ih _ h.2.2⟩
    · refine wfFrom_mono d _ ?_ (ih _ h.2.2)
      intro x hx
      cases lo with
      | none => trivial
      | some l => exact Nat.lt_trans h.1 hx

theorem wfFrom_append (d : β) (lo : Option Nat) (a b : SMap β) (c : Nat) (ha : wfFrom d lo a = true)
    (hb : wfFrom d lo b = true) (hab : ∀ e ∈ a, e.1 < c) (hbc : ∀ e ∈ b, c ≤ e.1) : wfFrom d lo (a ++ b) = true := by
  induction a generalizing lo with
  | nil => exact hb
  | cons e a ih =>
    obtain ⟨j, u⟩ := e
    rw [wfFrom_cons] at ha
    rw [List.cons_append, wfFrom_cons]
    refine ⟨ha.1, ha.2.1, ih _ ha.2.2 ?_ (fun e he => hab e (List.mem_cons_of_mem _ he))⟩
    have hj : j < c := hab (j, u) List.mem_cons_self
    cases b with
    | nil => rfl
    | cons f b =>
      rw [wfFrom_cons] at hb ⊢
      exact ⟨Nat.lt_of_lt_of_le hj (hbc f List.mem_cons_self), hb.2⟩

theorem cells_range (d : β) (vs : List β) (lo : Nat) : ∀ e ∈ cells d lo vs, lo ≤ e.1 ∧ e.1 < lo + vs.length := by
  induction vs generalizing lo with
  | nil => simp [cells]
  | cons v vs ih =>
    intro e he
    simp only [cells] at he
    split at he
    · have := ih (lo + 1) e he
      simp only [List.length_cons]; omega
    · rcases List.mem_cons.mp he with h | h
      · subst h; simp
      · have := ih (lo + 1) e h
        simp only [List.length_cons]; omega

theorem wfFrom_cells (d : β) (vs : List β) (lo : Nat) (b : Option Nat) (hb : ∀ k, lo ≤ k → aboveBound b k) :
    wfFrom d b (cells d lo vs) = true := by
  induction vs generalizing lo b with
  | nil => rfl
  | cons v vs ih =>
    simp only [cells]
    split
    · exact ih _ _ (fun k hk => hb k (by omega))
    · next hv =>
      rw [wfFrom_cons]
      exact ⟨hb lo (Nat.le_refl _), hv, ih _ _ (fun k hk => (by show lo < k; omega))⟩

/-- Writing a run of values keeps the canonical form. -/
theorem swf_splice (d : β) (m : SMap β) (lo : Nat) (vs : List β) (h : swf d m = true) : swf d (splice d m lo vs) = true := by
  unfold splice swf at *
  refine wfFrom_append d none _ _ (lo + vs.length) ?_ (wfFrom_filter d none m _ h) ?_ ?_
  · refine wfFrom_append d none _ _ lo (wfFrom_filter d none m _ h) (wfFrom_cells d vs lo none (fun _ _ => trivial)) ?_ ?_
    · intro e he
      simpa [below] using (List.mem_filter.mp he).2
    · intro e he
      exact (cells_range d vs lo e he).1
  · intro e he
    rcases List.mem_append.mp he with h1 | h1
    · have : e.1 < lo := by simpa [below] using (List.mem_filter.mp h1).2
      omega
    · exact (cells_range d vs lo e h1).2
  · intro e he
    simpa [above] using (List.mem_filter.mp he).2

end

/-! ### Memories -/

/-- A byte written reads as written; every other byte reads as before. -/
theorem byte_setByte (m : Mem) (a x : Nat) (b : Byte) : (m.setByte a b).byte x = if x = a then b else m.byte x :=
  sget_sset 0 m a x b

/-- Bytes written from address a read as written; every other byte reads as before. -/
theorem byte_write (m : Mem) (a x : Nat) (bs : Bytes) :
    (m.write a bs).byte x = if a ≤ x ∧ x < a + bs.length then bs.getD (x - a) 0 else m.byte x :=
  sget_splice 0 m a x bs

theorem wf_setByte (m : Mem) (a : Nat) (b : Byte) (h : m.wf = true) : (m.setByte a b).wf = true := swf_sset 0 m a b h

theorem wf_write (m : Mem) (a : Nat) (bs : Bytes) (h : m.wf = true) : (m.write a bs).wf = true := swf_splice 0 m a bs h

theorem wf_writeCells (m : Mem) (cs : List (Nat × Byte)) (h : m.wf = true) : (m.writeCells cs).wf = true := by
  unfold Mem.writeCells
  induction cs generalizing m with
  | nil => exact h
  | cons c cs ih => exact ih _ (wf_setByte m c.1 c.2 h)

/-! ### Numbers of bytes -/

@[simp] theorem length_natLe (n x : Nat) : (natLe n x).length = n := by
  induction n generalizing x with
  | zero => rfl
  | succ n ih => simp [natLe, ih]

/-- The number that the bytes of a number hold. -/
theorem leNat_natLe (n x : Nat) : leNat (natLe n x) = x % 256 ^ n := by
  induction n generalizing x with
  | zero => simp [natLe, leNat, Nat.mod_one]
  | succ n ih =>
    have e : (256 : Nat) ^ (n + 1) = 256 * 256 ^ n := by rw [Nat.pow_succ, Nat.mul_comm]
    have h8 : (BitVec.ofNat 8 x).toNat = x % 256 := by simp
    simp only [natLe, leNat, ih, h8]
    rw [e, Nat.mod_mul]

/-- Byte i of a number's bytes. -/
theorem getD_natLe (n x i : Nat) (h : i < n) : (natLe n x).getD i 0 = BitVec.ofNat 8 (x / 256 ^ i) := by
  induction n generalizing x i with
  | zero => omega
  | succ n ih =>
    cases i with
    | zero => simp [natLe]
    | succ i =>
      have : x / 256 / 256 ^ i = x / 256 ^ (i + 1) := by rw [Nat.div_div_eq_div_mul, Nat.pow_succ, Nat.mul_comm]
      simp only [natLe, List.getD_cons_succ]
      rw [ih (x / 256) i (by omega), this]

/-! ### Runs of a store in canonical form -/

section
variable {β : Type} [DecidableEq β]

omit [DecidableEq β] in
theorem look_none_of_not_mem (m : SMap β) (k : Nat) (h : ∀ e ∈ m, e.1 ≠ k) : look m k = none := by
  induction m with
  | nil => rfl
  | cons e m ih =>
    obtain ⟨j, v⟩ := e
    have : j ≠ k := h (j, v) (by simp)
    simp only [look, this, if_false]
    exact ih fun x hx => h x (by simp [hx])

theorem runFrom_eq (d : β) (n : Nat) (m : SMap β) (lo : Nat) (h : swf d m = true) (hlo : ∀ e ∈ m, lo ≤ e.1) :
    runFrom d n m lo = (List.range n).map fun i => sget d m (lo + i) := by
  induction n generalizing m lo with
  | zero => rfl
  | succ n ih =>
    rw [List.range_succ_eq_map, List.map_cons, List.map_map]
    cases m with
    | nil =>
      rw [runFrom, ih [] (lo + 1) rfl (by simp)]
      rfl
    | cons e m =>
      obtain ⟨j, v⟩ := e
      have hj : lo ≤ j := hlo (j, v) (by simp)
      have hs : ∀ e ∈ m, j < e.1 := by
        have hm : wfFrom d (some j) m = true := by
          simp only [swf, wfFrom, Bool.and_eq_true] at h; exact h.2
        clear h hlo ih hj
        intro e he
        induction m generalizing j with
        | nil => simp at he
        | cons x m ihm =>
          obtain ⟨q, w⟩ := x
          simp only [wfFrom, Bool.and_eq_true, decide_eq_true_eq] at hm
          rcases List.mem_cons.mp he with rfl | he
          · exact hm.1.1
          · have := ihm q hm.2 he; omega
      have hm : swf d m = true := by
        simp only [swf, wfFrom, Bool.and_eq_true] at h
        exact wfFrom_mono d m (by intro k _; trivial) h.2
      rw [runFrom]
      by_cases e : j = lo
      · subst e
        simp only [if_true]
        rw [ih m (j + 1) hm (fun x hx => hs x hx)]
        congr 1
        · simp [sget, look]
        · apply List.map_congr_left
          intro i _
          have : j ≠ j + (i + 1) := by omega
          simp only [Function.comp, sget, look, Nat.add_assoc, Nat.add_comm 1 i, this, if_false]
      · simp only [e, if_false]
        rw [ih ((j, v) :: m) (lo + 1) h (fun x hx => by
          rcases List.mem_cons.mp hx with rfl | hx
          · simp only; omega
          · have := hs x hx; omega)]
        congr 1
        · simp only [sget, look, e, if_false, Nat.add_zero]
          rw [look_none_of_not_mem m lo fun x hx => by have := hs x hx; omega]
          rfl
        · apply List.map_congr_left
          intro i _
          simp only [Function.comp, Nat.add_assoc, Nat.add_comm 1 i]

/-- A run of a store in canonical form lists the values at its keys. -/
theorem srun_eq (d : β) (m : SMap β) (lo n : Nat) (h : swf d m = true) :
    srun d m lo n = (List.range n).map fun i => sget d m (lo + i) := by
  have ha : swf d (above m lo) = true := wfFrom_filter d none m _ h
  rw [srun, runFrom_eq d n (above m lo) lo ha (by intro e he; simpa [above] using (List.mem_filter.mp he).2)]
  apply List.map_congr_left
  intro i _
  simp [sget, look_above]

end

/-- Reading a run of a memory in canonical form reads its bytes. -/
theorem read_eq (m : Mem) (a n : Nat) (h : m.wf = true) : m.read a n = (List.range n).map fun i => m.byte (a + i) :=
  srun_eq 0 m a n h

end Sys2Proof.Machine
end

