-- ==== Sys2Proof/Laws/State.lean ====
section
/-! SUPPORT. What each update of the state leaves in each of its fields, and reading back what was written. -/

namespace Sys2Proof.Machine

/-! ### An update by a function is a write of its value -/

@[simp] theorem State.modCore_eq (s : State) (g : Nat) (f : Core → Core) : s.modCore g f = s.setCore g (f (s.core g)) := rfl
@[simp] theorem State.modPart_eq (s : State) (p : Nat) (f : Part → Part) : s.modPart p f = s.setPart p (f (s.part p)) := rfl
@[simp] theorem State.modTask_eq (s : State) (t : Nat) (f : Task → Task) : s.modTask t f = s.setTask t (f (s.task t)) := rfl
@[simp] theorem State.modSeqr_eq (s : State) (a : Actor) (f : Seqr → Seqr) : s.modSeqr a f = s.setSeqr a (f (s.seqr a)) := rfl

/-! ### State.setCore -/

@[simp] theorem State.setCore_wcc (s : State) (g : Nat) (x : Core) : (s.setCore g x).wcc = s.wcc := rfl
@[simp] theorem State.setCore_readDone (s : State) (g : Nat) (x : Core) : (s.setCore g x).readDone = s.readDone := rfl
@[simp] theorem State.setCore_worked (s : State) (g : Nat) (x : Core) : (s.setCore g x).worked = s.worked := rfl
@[simp] theorem State.setCore_actor (s : State) (g : Nat) (x : Core) : (s.setCore g x).actor = s.actor := rfl
@[simp] theorem State.setCore_unit (s : State) (g : Nat) (x : Core) : (s.setCore g x).unit = s.unit := rfl
@[simp] theorem State.setCore_sub (s : State) (g : Nat) (x : Core) : (s.setCore g x).sub = s.sub := rfl
@[simp] theorem State.setCore_parts (s : State) (g : Nat) (x : Core) : (s.setCore g x).parts = s.parts := rfl
@[simp] theorem State.setCore_tasks (s : State) (g : Nat) (x : Core) : (s.setCore g x).tasks = s.tasks := rfl
@[simp] theorem State.setCore_taskNo (s : State) (g : Nat) (x : Core) : (s.setCore g x).taskNo = s.taskNo := rfl
@[simp] theorem State.setCore_dcs (s : State) (g : Nat) (x : Core) : (s.setCore g x).dcs = s.dcs := rfl
@[simp] theorem State.setCore_lbps (s : State) (g : Nat) (x : Core) : (s.setCore g x).lbps = s.lbps := rfl
@[simp] theorem State.setCore_ports (s : State) (g : Nat) (x : Core) : (s.setCore g x).ports = s.ports := rfl
@[simp] theorem State.setCore_sets (s : State) (g : Nat) (x : Core) : (s.setCore g x).sets = s.sets := rfl
@[simp] theorem State.setCore_mgmt (s : State) (g : Nat) (x : Core) : (s.setCore g x).mgmt = s.mgmt := rfl
@[simp] theorem State.setCore_mgmtMem (s : State) (g : Nat) (x : Core) : (s.setCore g x).mgmtMem = s.mgmtMem := rfl
@[simp] theorem State.setCore_mgmtPend (s : State) (g : Nat) (x : Core) : (s.setCore g x).mgmtPend = s.mgmtPend := rfl
@[simp] theorem State.setCore_bar0 (s : State) (g : Nat) (x : Core) : (s.setCore g x).bar0 = s.bar0 := rfl
@[simp] theorem State.setCore_view0 (s : State) (g : Nat) (x : Core) : (s.setCore g x).view0 = s.view0 := rfl
@[simp] theorem State.setCore_view1 (s : State) (g : Nat) (x : Core) : (s.setCore g x).view1 = s.view1 := rfl
@[simp] theorem State.setCore_tsEcc (s : State) (g : Nat) (x : Core) : (s.setCore g x).tsEcc = s.tsEcc := rfl
@[simp] theorem State.setCore_wEcc (s : State) (g : Nat) (x : Core) : (s.setCore g x).wEcc = s.wEcc := rfl
@[simp] theorem State.setCore_mismatch (s : State) (g : Nat) (x : Core) : (s.setCore g x).mismatch = s.mismatch := rfl
@[simp] theorem State.setCore_ctlEcc (s : State) (g : Nat) (x : Core) : (s.setCore g x).ctlEcc = s.ctlEcc := rfl
@[simp] theorem State.setCore_advisory (s : State) (g : Nat) (x : Core) : (s.setCore g x).advisory = s.advisory := rfl
@[simp] theorem State.setCore_reqs (s : State) (g : Nat) (x : Core) : (s.setCore g x).reqs = s.reqs := rfl
@[simp] theorem State.setCore_ereqs (s : State) (g : Nat) (x : Core) : (s.setCore g x).ereqs = s.ereqs := rfl
@[simp] theorem State.setCore_reserved (s : State) (g : Nat) (x : Core) : (s.setCore g x).reserved = s.reserved := rfl
@[simp] theorem State.setCore_banksUsed (s : State) (g : Nat) (x : Core) : (s.setCore g x).banksUsed = s.banksUsed := rfl
@[simp] theorem State.setCore_vwrites (s : State) (g : Nat) (x : Core) : (s.setCore g x).vwrites = s.vwrites := rfl
@[simp] theorem State.setCore_applied (s : State) (g : Nat) (x : Core) : (s.setCore g x).applied = s.applied := rfl
@[simp] theorem State.setCore_sentNo (s : State) (g : Nat) (x : Core) : (s.setCore g x).sentNo = s.sentNo := rfl
@[simp] theorem State.setCore_know (s : State) (g : Nat) (x : Core) : (s.setCore g x).know = s.know := rfl
@[simp] theorem State.setCore_fresh (s : State) (g : Nat) (x : Core) : (s.setCore g x).fresh = s.fresh := rfl
@[simp] theorem State.setCore_effNo (s : State) (g : Nat) (x : Core) : (s.setCore g x).effNo = s.effNo := rfl
@[simp] theorem State.setCore_cycleNo (s : State) (g : Nat) (x : Core) : (s.setCore g x).cycleNo = s.cycleNo := rfl
@[simp] theorem State.setCore_race (s : State) (g : Nat) (x : Core) : (s.setCore g x).race = s.race := rfl
@[simp] theorem State.setCore_pubs (s : State) (g : Nat) (x : Core) : (s.setCore g x).pubs = s.pubs := rfl
@[simp] theorem State.setCore_tileW (s : State) (g : Nat) (x : Core) : (s.setCore g x).tileW = s.tileW := rfl
@[simp] theorem State.setCore_freeSeen (s : State) (g : Nat) (x : Core) : (s.setCore g x).freeSeen = s.freeSeen := rfl
@[simp] theorem State.setCore_tb (s : State) (g : Nat) (x : Core) : (s.setCore g x).tb = s.tb := rfl
@[simp] theorem State.setCore_tbAdd (s : State) (g : Nat) (x : Core) : (s.setCore g x).tbAdd = s.tbAdd := rfl
@[simp] theorem State.setCore_host (s : State) (g : Nat) (x : Core) : (s.setCore g x).host = s.host := rfl
@[simp] theorem State.setCore_peer (s : State) (g : Nat) (x : Core) : (s.setCore g x).peer = s.peer := rfl
@[simp] theorem State.setCore_outst (s : State) (g : Nat) (x : Core) : (s.setCore g x).outst = s.outst := rfl
@[simp] theorem State.setCore_walks (s : State) (g : Nat) (x : Core) : (s.setCore g x).walks = s.walks := rfl
@[simp] theorem State.setCore_bar2 (s : State) (g : Nat) (x : Core) : (s.setCore g x).bar2 = s.bar2 := rfl
@[simp] theorem State.setCore_hostUp (s : State) (g : Nat) (x : Core) : (s.setCore g x).hostUp = s.hostUp := rfl
@[simp] theorem State.setCore_peerUp (s : State) (g : Nat) (x : Core) : (s.setCore g x).peerUp = s.peerUp := rfl
@[simp] theorem State.setCore_linkRetry (s : State) (g : Nat) (x : Core) : (s.setCore g x).linkRetry = s.linkRetry := rfl
@[simp] theorem State.setCore_linkTrain (s : State) (g : Nat) (x : Core) : (s.setCore g x).linkTrain = s.linkTrain := rfl
@[simp] theorem State.setCore_linkGone (s : State) (g : Nat) (x : Core) : (s.setCore g x).linkGone = s.linkGone := rfl
@[simp] theorem State.setCore_csPend (s : State) (g : Nat) (x : Core) : (s.setCore g x).csPend = s.csPend := rfl
@[simp] theorem State.setCore_notified (s : State) (g : Nat) (x : Core) : (s.setCore g x).notified = s.notified := rfl
@[simp] theorem State.setCore_cdaWait (s : State) (g : Nat) (x : Core) : (s.setCore g x).cdaWait = s.cdaWait := rfl
@[simp] theorem State.setCore_bootAt (s : State) (g : Nat) (x : Core) : (s.setCore g x).bootAt = s.bootAt := rfl
@[simp] theorem State.setCore_bootPh (s : State) (g : Nat) (x : Core) : (s.setCore g x).bootPh = s.bootPh := rfl
@[simp] theorem State.setCore_imgReport (s : State) (g : Nat) (x : Core) : (s.setCore g x).imgReport = s.imgReport := rfl
@[simp] theorem State.setCore_pinNow (s : State) (g : Nat) (x : Core) : (s.setCore g x).pinNow = s.pinNow := rfl
@[simp] theorem State.setCore_spi (s : State) (g : Nat) (x : Core) : (s.setCore g x).spi = s.spi := rfl
@[simp] theorem State.setCore_runMrs (s : State) (g : Nat) (x : Core) : (s.setCore g x).runMrs = s.runMrs := rfl
@[simp] theorem State.setCore_warm (s : State) (g : Nat) (x : Core) : (s.setCore g x).warm = s.warm := rfl
@[simp] theorem State.setCore_seqReset (s : State) (g : Nat) (x : Core) : (s.setCore g x).seqReset = s.seqReset := rfl
@[simp] theorem State.setCore_inputs (s : State) (g : Nat) (x : Core) : (s.setCore g x).inputs = s.inputs := rfl

/-- What was written for a unit is read back. -/
@[simp] theorem State.core_setCore (s : State) (g : Nat) (x : Core) : (s.setCore g x).core g = x := sget_sset_same _ _ _ _
theorem State.core_setCore_other (s : State) {g j : Nat} (x : Core) (h : j ≠ g) : (s.setCore g x).core j = s.core j := sget_sset_other _ _ _ h
@[simp] theorem State.part_setCore (s : State) (g : Nat) (x : Core) (j : Nat) : (s.setCore g x).part j = s.part j := rfl
@[simp] theorem State.task_setCore (s : State) (g : Nat) (x : Core) (j : Nat) : (s.setCore g x).task j = s.task j := rfl
@[simp] theorem State.dcsAt_setCore (s : State) (g : Nat) (x : Core) (j : Nat) : (s.setCore g x).dcsAt j = s.dcsAt j := rfl
@[simp] theorem State.lbp_setCore (s : State) (g : Nat) (x : Core) (j : Nat) : (s.setCore g x).lbp j = s.lbp j := rfl
@[simp] theorem State.port_setCore (s : State) (g : Nat) (x : Core) (j : Nat) : (s.setCore g x).port j = s.port j := rfl
@[simp] theorem State.fset_setCore (s : State) (g : Nat) (x : Core) (j : Nat) : (s.setCore g x).fset j = s.fset j := rfl

/-! ### State.setPart -/

@[simp] theorem State.setPart_wcc (s : State) (p : Nat) (x : Part) : (s.setPart p x).wcc = s.wcc := rfl
@[simp] theorem State.setPart_readDone (s : State) (p : Nat) (x : Part) : (s.setPart p x).readDone = s.readDone := rfl
@[simp] theorem State.setPart_worked (s : State) (p : Nat) (x : Part) : (s.setPart p x).worked = s.worked := rfl
@[simp] theorem State.setPart_actor (s : State) (p : Nat) (x : Part) : (s.setPart p x).actor = s.actor := rfl
@[simp] theorem State.setPart_unit (s : State) (p : Nat) (x : Part) : (s.setPart p x).unit = s.unit := rfl
@[simp] theorem State.setPart_sub (s : State) (p : Nat) (x : Part) : (s.setPart p x).sub = s.sub := rfl
@[simp] theorem State.setPart_cores (s : State) (p : Nat) (x : Part) : (s.setPart p x).cores = s.cores := rfl
@[simp] theorem State.setPart_tasks (s : State) (p : Nat) (x : Part) : (s.setPart p x).tasks = s.tasks := rfl
@[simp] theorem State.setPart_taskNo (s : State) (p : Nat) (x : Part) : (s.setPart p x).taskNo = s.taskNo := rfl
@[simp] theorem State.setPart_dcs (s : State) (p : Nat) (x : Part) : (s.setPart p x).dcs = s.dcs := rfl
@[simp] theorem State.setPart_lbps (s : State) (p : Nat) (x : Part) : (s.setPart p x).lbps = s.lbps := rfl
@[simp] theorem State.setPart_ports (s : State) (p : Nat) (x : Part) : (s.setPart p x).ports = s.ports := rfl
@[simp] theorem State.setPart_sets (s : State) (p : Nat) (x : Part) : (s.setPart p x).sets = s.sets := rfl
@[simp] theorem State.setPart_mgmt (s : State) (p : Nat) (x : Part) : (s.setPart p x).mgmt = s.mgmt := rfl
@[simp] theorem State.setPart_mgmtMem (s : State) (p : Nat) (x : Part) : (s.setPart p x).mgmtMem = s.mgmtMem := rfl
@[simp] theorem State.setPart_mgmtPend (s : State) (p : Nat) (x : Part) : (s.setPart p x).mgmtPend = s.mgmtPend := rfl
@[simp] theorem State.setPart_bar0 (s : State) (p : Nat) (x : Part) : (s.setPart p x).bar0 = s.bar0 := rfl
@[simp] theorem State.setPart_view0 (s : State) (p : Nat) (x : Part) : (s.setPart p x).view0 = s.view0 := rfl
@[simp] theorem State.setPart_view1 (s : State) (p : Nat) (x : Part) : (s.setPart p x).view1 = s.view1 := rfl
@[simp] theorem State.setPart_tsEcc (s : State) (p : Nat) (x : Part) : (s.setPart p x).tsEcc = s.tsEcc := rfl
@[simp] theorem State.setPart_wEcc (s : State) (p : Nat) (x : Part) : (s.setPart p x).wEcc = s.wEcc := rfl
@[simp] theorem State.setPart_mismatch (s : State) (p : Nat) (x : Part) : (s.setPart p x).mismatch = s.mismatch := rfl
@[simp] theorem State.setPart_ctlEcc (s : State) (p : Nat) (x : Part) : (s.setPart p x).ctlEcc = s.ctlEcc := rfl
@[simp] theorem State.setPart_advisory (s : State) (p : Nat) (x : Part) : (s.setPart p x).advisory = s.advisory := rfl
@[simp] theorem State.setPart_reqs (s : State) (p : Nat) (x : Part) : (s.setPart p x).reqs = s.reqs := rfl
@[simp] theorem State.setPart_ereqs (s : State) (p : Nat) (x : Part) : (s.setPart p x).ereqs = s.ereqs := rfl
@[simp] theorem State.setPart_reserved (s : State) (p : Nat) (x : Part) : (s.setPart p x).reserved = s.reserved := rfl
@[simp] theorem State.setPart_banksUsed (s : State) (p : Nat) (x : Part) : (s.setPart p x).banksUsed = s.banksUsed := rfl
@[simp] theorem State.setPart_vwrites (s : State) (p : Nat) (x : Part) : (s.setPart p x).vwrites = s.vwrites := rfl
@[simp] theorem State.setPart_applied (s : State) (p : Nat) (x : Part) : (s.setPart p x).applied = s.applied := rfl
@[simp] theorem State.setPart_sentNo (s : State) (p : Nat) (x : Part) : (s.setPart p x).sentNo = s.sentNo := rfl
@[simp] theorem State.setPart_know (s : State) (p : Nat) (x : Part) : (s.setPart p x).know = s.know := rfl
@[simp] theorem State.setPart_fresh (s : State) (p : Nat) (x : Part) : (s.setPart p x).fresh = s.fresh := rfl
@[simp] theorem State.setPart_effNo (s : State) (p : Nat) (x : Part) : (s.setPart p x).effNo = s.effNo := rfl
@[simp] theorem State.setPart_cycleNo (s : State) (p : Nat) (x : Part) : (s.setPart p x).cycleNo = s.cycleNo := rfl
@[simp] theorem State.setPart_race (s : State) (p : Nat) (x : Part) : (s.setPart p x).race = s.race := rfl
@[simp] theorem State.setPart_pubs (s : State) (p : Nat) (x : Part) : (s.setPart p x).pubs = s.pubs := rfl
@[simp] theorem State.setPart_tileW (s : State) (p : Nat) (x : Part) : (s.setPart p x).tileW = s.tileW := rfl
@[simp] theorem State.setPart_freeSeen (s : State) (p : Nat) (x : Part) : (s.setPart p x).freeSeen = s.freeSeen := rfl
@[simp] theorem State.setPart_tb (s : State) (p : Nat) (x : Part) : (s.setPart p x).tb = s.tb := rfl
@[simp] theorem State.setPart_tbAdd (s : State) (p : Nat) (x : Part) : (s.setPart p x).tbAdd = s.tbAdd := rfl
@[simp] theorem State.setPart_host (s : State) (p : Nat) (x : Part) : (s.setPart p x).host = s.host := rfl
@[simp] theorem State.setPart_peer (s : State) (p : Nat) (x : Part) : (s.setPart p x).peer = s.peer := rfl
@[simp] theorem State.setPart_outst (s : State) (p : Nat) (x : Part) : (s.setPart p x).outst = s.outst := rfl
@[simp] theorem State.setPart_walks (s : State) (p : Nat) (x : Part) : (s.setPart p x).walks = s.walks := rfl
@[simp] theorem State.setPart_bar2 (s : State) (p : Nat) (x : Part) : (s.setPart p x).bar2 = s.bar2 := rfl
@[simp] theorem State.setPart_hostUp (s : State) (p : Nat) (x : Part) : (s.setPart p x).hostUp = s.hostUp := rfl
@[simp] theorem State.setPart_peerUp (s : State) (p : Nat) (x : Part) : (s.setPart p x).peerUp = s.peerUp := rfl
@[simp] theorem State.setPart_linkRetry (s : State) (p : Nat) (x : Part) : (s.setPart p x).linkRetry = s.linkRetry := rfl
@[simp] theorem State.setPart_linkTrain (s : State) (p : Nat) (x : Part) : (s.setPart p x).linkTrain = s.linkTrain := rfl
@[simp] theorem State.setPart_linkGone (s : State) (p : Nat) (x : Part) : (s.setPart p x).linkGone = s.linkGone := rfl
@[simp] theorem State.setPart_csPend (s : State) (p : Nat) (x : Part) : (s.setPart p x).csPend = s.csPend := rfl
@[simp] theorem State.setPart_notified (s : State) (p : Nat) (x : Part) : (s.setPart p x).notified = s.notified := rfl
@[simp] theorem State.setPart_cdaWait (s : State) (p : Nat) (x : Part) : (s.setPart p x).cdaWait = s.cdaWait := rfl
@[simp] theorem State.setPart_bootAt (s : State) (p : Nat) (x : Part) : (s.setPart p x).bootAt = s.bootAt := rfl
@[simp] theorem State.setPart_bootPh (s : State) (p : Nat) (x : Part) : (s.setPart p x).bootPh = s.bootPh := rfl
@[simp] theorem State.setPart_imgReport (s : State) (p : Nat) (x : Part) : (s.setPart p x).imgReport = s.imgReport := rfl
@[simp] theorem State.setPart_pinNow (s : State) (p : Nat) (x : Part) : (s.setPart p x).pinNow = s.pinNow := rfl
@[simp] theorem State.setPart_spi (s : State) (p : Nat) (x : Part) : (s.setPart p x).spi = s.spi := rfl
@[simp] theorem State.setPart_runMrs (s : State) (p : Nat) (x : Part) : (s.setPart p x).runMrs = s.runMrs := rfl
@[simp] theorem State.setPart_warm (s : State) (p : Nat) (x : Part) : (s.setPart p x).warm = s.warm := rfl
@[simp] theorem State.setPart_seqReset (s : State) (p : Nat) (x : Part) : (s.setPart p x).seqReset = s.seqReset := rfl
@[simp] theorem State.setPart_inputs (s : State) (p : Nat) (x : Part) : (s.setPart p x).inputs = s.inputs := rfl

/-- What was written for a unit is read back. -/
@[simp] theorem State.part_setPart (s : State) (p : Nat) (x : Part) : (s.setPart p x).part p = x := sget_sset_same _ _ _ _
theorem State.part_setPart_other (s : State) {p j : Nat} (x : Part) (h : j ≠ p) : (s.setPart p x).part j = s.part j := sget_sset_other _ _ _ h
@[simp] theorem State.core_setPart (s : State) (p : Nat) (x : Part) (j : Nat) : (s.setPart p x).core j = s.core j := rfl
@[simp] theorem State.task_setPart (s : State) (p : Nat) (x : Part) (j : Nat) : (s.setPart p x).task j = s.task j := rfl
@[simp] theorem State.dcsAt_setPart (s : State) (p : Nat) (x : Part) (j : Nat) : (s.setPart p x).dcsAt j = s.dcsAt j := rfl
@[simp] theorem State.lbp_setPart (s : State) (p : Nat) (x : Part) (j : Nat) : (s.setPart p x).lbp j = s.lbp j := rfl
@[simp] theorem State.port_setPart (s : State) (p : Nat) (x : Part) (j : Nat) : (s.setPart p x).port j = s.port j := rfl
@[simp] theorem State.fset_setPart (s : State) (p : Nat) (x : Part) (j : Nat) : (s.setPart p x).fset j = s.fset j := rfl

/-! ### State.setTask -/

@[simp] theorem State.setTask_wcc (s : State) (t : Nat) (x : Task) : (s.setTask t x).wcc = s.wcc := rfl
@[simp] theorem State.setTask_readDone (s : State) (t : Nat) (x : Task) : (s.setTask t x).readDone = s.readDone := rfl
@[simp] theorem State.setTask_worked (s : State) (t : Nat) (x : Task) : (s.setTask t x).worked = s.worked := rfl
@[simp] theorem State.setTask_actor (s : State) (t : Nat) (x : Task) : (s.setTask t x).actor = s.actor := rfl
@[simp] theorem State.setTask_unit (s : State) (t : Nat) (x : Task) : (s.setTask t x).unit = s.unit := rfl
@[simp] theorem State.setTask_sub (s : State) (t : Nat) (x : Task) : (s.setTask t x).sub = s.sub := rfl
@[simp] theorem State.setTask_cores (s : State) (t : Nat) (x : Task) : (s.setTask t x).cores = s.cores := rfl
@[simp] theorem State.setTask_parts (s : State) (t : Nat) (x : Task) : (s.setTask t x).parts = s.parts := rfl
@[simp] theorem State.setTask_taskNo (s : State) (t : Nat) (x : Task) : (s.setTask t x).taskNo = s.taskNo := rfl
@[simp] theorem State.setTask_dcs (s : State) (t : Nat) (x : Task) : (s.setTask t x).dcs = s.dcs := rfl
@[simp] theorem State.setTask_lbps (s : State) (t : Nat) (x : Task) : (s.setTask t x).lbps = s.lbps := rfl
@[simp] theorem State.setTask_ports (s : State) (t : Nat) (x : Task) : (s.setTask t x).ports = s.ports := rfl
@[simp] theorem State.setTask_sets (s : State) (t : Nat) (x : Task) : (s.setTask t x).sets = s.sets := rfl
@[simp] theorem State.setTask_mgmt (s : State) (t : Nat) (x : Task) : (s.setTask t x).mgmt = s.mgmt := rfl
@[simp] theorem State.setTask_mgmtMem (s : State) (t : Nat) (x : Task) : (s.setTask t x).mgmtMem = s.mgmtMem := rfl
@[simp] theorem State.setTask_mgmtPend (s : State) (t : Nat) (x : Task) : (s.setTask t x).mgmtPend = s.mgmtPend := rfl
@[simp] theorem State.setTask_bar0 (s : State) (t : Nat) (x : Task) : (s.setTask t x).bar0 = s.bar0 := rfl
@[simp] theorem State.setTask_view0 (s : State) (t : Nat) (x : Task) : (s.setTask t x).view0 = s.view0 := rfl
@[simp] theorem State.setTask_view1 (s : State) (t : Nat) (x : Task) : (s.setTask t x).view1 = s.view1 := rfl
@[simp] theorem State.setTask_tsEcc (s : State) (t : Nat) (x : Task) : (s.setTask t x).tsEcc = s.tsEcc := rfl
@[simp] theorem State.setTask_wEcc (s : State) (t : Nat) (x : Task) : (s.setTask t x).wEcc = s.wEcc := rfl
@[simp] theorem State.setTask_mismatch (s : State) (t : Nat) (x : Task) : (s.setTask t x).mismatch = s.mismatch := rfl
@[simp] theorem State.setTask_ctlEcc (s : State) (t : Nat) (x : Task) : (s.setTask t x).ctlEcc = s.ctlEcc := rfl
@[simp] theorem State.setTask_advisory (s : State) (t : Nat) (x : Task) : (s.setTask t x).advisory = s.advisory := rfl
@[simp] theorem State.setTask_reqs (s : State) (t : Nat) (x : Task) : (s.setTask t x).reqs = s.reqs := rfl
@[simp] theorem State.setTask_ereqs (s : State) (t : Nat) (x : Task) : (s.setTask t x).ereqs = s.ereqs := rfl
@[simp] theorem State.setTask_reserved (s : State) (t : Nat) (x : Task) : (s.setTask t x).reserved = s.reserved := rfl
@[simp] theorem State.setTask_banksUsed (s : State) (t : Nat) (x : Task) : (s.setTask t x).banksUsed = s.banksUsed := rfl
@[simp] theorem State.setTask_vwrites (s : State) (t : Nat) (x : Task) : (s.setTask t x).vwrites = s.vwrites := rfl
@[simp] theorem State.setTask_applied (s : State) (t : Nat) (x : Task) : (s.setTask t x).applied = s.applied := rfl
@[simp] theorem State.setTask_sentNo (s : State) (t : Nat) (x : Task) : (s.setTask t x).sentNo = s.sentNo := rfl
@[simp] theorem State.setTask_know (s : State) (t : Nat) (x : Task) : (s.setTask t x).know = s.know := rfl
@[simp] theorem State.setTask_fresh (s : State) (t : Nat) (x : Task) : (s.setTask t x).fresh = s.fresh := rfl
@[simp] theorem State.setTask_effNo (s : State) (t : Nat) (x : Task) : (s.setTask t x).effNo = s.effNo := rfl
@[simp] theorem State.setTask_cycleNo (s : State) (t : Nat) (x : Task) : (s.setTask t x).cycleNo = s.cycleNo := rfl
@[simp] theorem State.setTask_race (s : State) (t : Nat) (x : Task) : (s.setTask t x).race = s.race := rfl
@[simp] theorem State.setTask_pubs (s : State) (t : Nat) (x : Task) : (s.setTask t x).pubs = s.pubs := rfl
@[simp] theorem State.setTask_tileW (s : State) (t : Nat) (x : Task) : (s.setTask t x).tileW = s.tileW := rfl
@[simp] theorem State.setTask_freeSeen (s : State) (t : Nat) (x : Task) : (s.setTask t x).freeSeen = s.freeSeen := rfl
@[simp] theorem State.setTask_tb (s : State) (t : Nat) (x : Task) : (s.setTask t x).tb = s.tb := rfl
@[simp] theorem State.setTask_tbAdd (s : State) (t : Nat) (x : Task) : (s.setTask t x).tbAdd = s.tbAdd := rfl
@[simp] theorem State.setTask_host (s : State) (t : Nat) (x : Task) : (s.setTask t x).host = s.host := rfl
@[simp] theorem State.setTask_peer (s : State) (t : Nat) (x : Task) : (s.setTask t x).peer = s.peer := rfl
@[simp] theorem State.setTask_outst (s : State) (t : Nat) (x : Task) : (s.setTask t x).outst = s.outst := rfl
@[simp] theorem State.setTask_walks (s : State) (t : Nat) (x : Task) : (s.setTask t x).walks = s.walks := rfl
@[simp] theorem State.setTask_bar2 (s : State) (t : Nat) (x : Task) : (s.setTask t x).bar2 = s.bar2 := rfl
@[simp] theorem State.setTask_hostUp (s : State) (t : Nat) (x : Task) : (s.setTask t x).hostUp = s.hostUp := rfl
@[simp] theorem State.setTask_peerUp (s : State) (t : Nat) (x : Task) : (s.setTask t x).peerUp = s.peerUp := rfl
@[simp] theorem State.setTask_linkRetry (s : State) (t : Nat) (x : Task) : (s.setTask t x).linkRetry = s.linkRetry := rfl
@[simp] theorem State.setTask_linkTrain (s : State) (t : Nat) (x : Task) : (s.setTask t x).linkTrain = s.linkTrain := rfl
@[simp] theorem State.setTask_linkGone (s : State) (t : Nat) (x : Task) : (s.setTask t x).linkGone = s.linkGone := rfl
@[simp] theorem State.setTask_csPend (s : State) (t : Nat) (x : Task) : (s.setTask t x).csPend = s.csPend := rfl
@[simp] theorem State.setTask_notified (s : State) (t : Nat) (x : Task) : (s.setTask t x).notified = s.notified := rfl
@[simp] theorem State.setTask_cdaWait (s : State) (t : Nat) (x : Task) : (s.setTask t x).cdaWait = s.cdaWait := rfl
@[simp] theorem State.setTask_bootAt (s : State) (t : Nat) (x : Task) : (s.setTask t x).bootAt = s.bootAt := rfl
@[simp] theorem State.setTask_bootPh (s : State) (t : Nat) (x : Task) : (s.setTask t x).bootPh = s.bootPh := rfl
@[simp] theorem State.setTask_imgReport (s : State) (t : Nat) (x : Task) : (s.setTask t x).imgReport = s.imgReport := rfl
@[simp] theorem State.setTask_pinNow (s : State) (t : Nat) (x : Task) : (s.setTask t x).pinNow = s.pinNow := rfl
@[simp] theorem State.setTask_spi (s : State) (t : Nat) (x : Task) : (s.setTask t x).spi = s.spi := rfl
@[simp] theorem State.setTask_runMrs (s : State) (t : Nat) (x : Task) : (s.setTask t x).runMrs = s.runMrs := rfl
@[simp] theorem State.setTask_warm (s : State) (t : Nat) (x : Task) : (s.setTask t x).warm = s.warm := rfl
@[simp] theorem State.setTask_seqReset (s : State) (t : Nat) (x : Task) : (s.setTask t x).seqReset = s.seqReset := rfl
@[simp] theorem State.setTask_inputs (s : State) (t : Nat) (x : Task) : (s.setTask t x).inputs = s.inputs := rfl

/-- What was written for a unit is read back. -/
@[simp] theorem State.task_setTask (s : State) (t : Nat) (x : Task) : (s.setTask t x).task t = x := sget_insert_same _ _ _ _
theorem State.task_setTask_other (s : State) {t j : Nat} (x : Task) (h : j ≠ t) : (s.setTask t x).task j = s.task j := sget_insert_other _ _ _ h
@[simp] theorem State.core_setTask (s : State) (t : Nat) (x : Task) (j : Nat) : (s.setTask t x).core j = s.core j := rfl
@[simp] theorem State.part_setTask (s : State) (t : Nat) (x : Task) (j : Nat) : (s.setTask t x).part j = s.part j := rfl
@[simp] theorem State.dcsAt_setTask (s : State) (t : Nat) (x : Task) (j : Nat) : (s.setTask t x).dcsAt j = s.dcsAt j := rfl
@[simp] theorem State.lbp_setTask (s : State) (t : Nat) (x : Task) (j : Nat) : (s.setTask t x).lbp j = s.lbp j := rfl
@[simp] theorem State.port_setTask (s : State) (t : Nat) (x : Task) (j : Nat) : (s.setTask t x).port j = s.port j := rfl
@[simp] theorem State.fset_setTask (s : State) (t : Nat) (x : Task) (j : Nat) : (s.setTask t x).fset j = s.fset j := rfl

/-! ### State.setDcs -/

@[simp] theorem State.setDcs_wcc (s : State) (h : Nat) (x : Dcs) : (s.setDcs h x).wcc = s.wcc := rfl
@[simp] theorem State.setDcs_readDone (s : State) (h : Nat) (x : Dcs) : (s.setDcs h x).readDone = s.readDone := rfl
@[simp] theorem State.setDcs_worked (s : State) (h : Nat) (x : Dcs) : (s.setDcs h x).worked = s.worked := rfl
@[simp] theorem State.setDcs_actor (s : State) (h : Nat) (x : Dcs) : (s.setDcs h x).actor = s.actor := rfl
@[simp] theorem State.setDcs_unit (s : State) (h : Nat) (x : Dcs) : (s.setDcs h x).unit = s.unit := rfl
@[simp] theorem State.setDcs_sub (s : State) (h : Nat) (x : Dcs) : (s.setDcs h x).sub = s.sub := rfl
@[simp] theorem State.setDcs_cores (s : State) (h : Nat) (x : Dcs) : (s.setDcs h x).cores = s.cores := rfl
@[simp] theorem State.setDcs_parts (s : State) (h : Nat) (x : Dcs) : (s.setDcs h x).parts = s.parts := rfl
@[simp] theorem State.setDcs_tasks (s : State) (h : Nat) (x : Dcs) : (s.setDcs h x).tasks = s.tasks := rfl
@[simp] theorem State.setDcs_taskNo (s : State) (h : Nat) (x : Dcs) : (s.setDcs h x).taskNo = s.taskNo := rfl
@[simp] theorem State.setDcs_lbps (s : State) (h : Nat) (x : Dcs) : (s.setDcs h x).lbps = s.lbps := rfl
@[simp] theorem State.setDcs_ports (s : State) (h : Nat) (x : Dcs) : (s.setDcs h x).ports = s.ports := rfl
@[simp] theorem State.setDcs_sets (s : State) (h : Nat) (x : Dcs) : (s.setDcs h x).sets = s.sets := rfl
@[simp] theorem State.setDcs_mgmt (s : State) (h : Nat) (x : Dcs) : (s.setDcs h x).mgmt = s.mgmt := rfl
@[simp] theorem State.setDcs_mgmtMem (s : State) (h : Nat) (x : Dcs) : (s.setDcs h x).mgmtMem = s.mgmtMem := rfl
@[simp] theorem State.setDcs_mgmtPend (s : State) (h : Nat) (x : Dcs) : (s.setDcs h x).mgmtPend = s.mgmtPend := rfl
@[simp] theorem State.setDcs_bar0 (s : State) (h : Nat) (x : Dcs) : (s.setDcs h x).bar0 = s.bar0 := rfl
@[simp] theorem State.setDcs_view0 (s : State) (h : Nat) (x : Dcs) : (s.setDcs h x).view0 = s.view0 := rfl
@[simp] theorem State.setDcs_view1 (s : State) (h : Nat) (x : Dcs) : (s.setDcs h x).view1 = s.view1 := rfl
@[simp] theorem State.setDcs_tsEcc (s : State) (h : Nat) (x : Dcs) : (s.setDcs h x).tsEcc = s.tsEcc := rfl
@[simp] theorem State.setDcs_wEcc (s : State) (h : Nat) (x : Dcs) : (s.setDcs h x).wEcc = s.wEcc := rfl
@[simp] theorem State.setDcs_mismatch (s : State) (h : Nat) (x : Dcs) : (s.setDcs h x).mismatch = s.mismatch := rfl
@[simp] theorem State.setDcs_ctlEcc (s : State) (h : Nat) (x : Dcs) : (s.setDcs h x).ctlEcc = s.ctlEcc := rfl
@[simp] theorem State.setDcs_advisory (s : State) (h : Nat) (x : Dcs) : (s.setDcs h x).advisory = s.advisory := rfl
@[simp] theorem State.setDcs_reqs (s : State) (h : Nat) (x : Dcs) : (s.setDcs h x).reqs = s.reqs := rfl
@[simp] theorem State.setDcs_ereqs (s : State) (h : Nat) (x : Dcs) : (s.setDcs h x).ereqs = s.ereqs := rfl
@[simp] theorem State.setDcs_reserved (s : State) (h : Nat) (x : Dcs) : (s.setDcs h x).reserved = s.reserved := rfl
@[simp] theorem State.setDcs_banksUsed (s : State) (h : Nat) (x : Dcs) : (s.setDcs h x).banksUsed = s.banksUsed := rfl
@[simp] theorem State.setDcs_vwrites (s : State) (h : Nat) (x : Dcs) : (s.setDcs h x).vwrites = s.vwrites := rfl
@[simp] theorem State.setDcs_applied (s : State) (h : Nat) (x : Dcs) : (s.setDcs h x).applied = s.applied := rfl
@[simp] theorem State.setDcs_sentNo (s : State) (h : Nat) (x : Dcs) : (s.setDcs h x).sentNo = s.sentNo := rfl
@[simp] theorem State.setDcs_know (s : State) (h : Nat) (x : Dcs) : (s.setDcs h x).know = s.know := rfl
@[simp] theorem State.setDcs_fresh (s : State) (h : Nat) (x : Dcs) : (s.setDcs h x).fresh = s.fresh := rfl
@[simp] theorem State.setDcs_effNo (s : State) (h : Nat) (x : Dcs) : (s.setDcs h x).effNo = s.effNo := rfl
@[simp] theorem State.setDcs_cycleNo (s : State) (h : Nat) (x : Dcs) : (s.setDcs h x).cycleNo = s.cycleNo := rfl
@[simp] theorem State.setDcs_race (s : State) (h : Nat) (x : Dcs) : (s.setDcs h x).race = s.race := rfl
@[simp] theorem State.setDcs_pubs (s : State) (h : Nat) (x : Dcs) : (s.setDcs h x).pubs = s.pubs := rfl
@[simp] theorem State.setDcs_tileW (s : State) (h : Nat) (x : Dcs) : (s.setDcs h x).tileW = s.tileW := rfl
@[simp] theorem State.setDcs_freeSeen (s : State) (h : Nat) (x : Dcs) : (s.setDcs h x).freeSeen = s.freeSeen := rfl
@[simp] theorem State.setDcs_tb (s : State) (h : Nat) (x : Dcs) : (s.setDcs h x).tb = s.tb := rfl
@[simp] theorem State.setDcs_tbAdd (s : State) (h : Nat) (x : Dcs) : (s.setDcs h x).tbAdd = s.tbAdd := rfl
@[simp] theorem State.setDcs_host (s : State) (h : Nat) (x : Dcs) : (s.setDcs h x).host = s.host := rfl
@[simp] theorem State.setDcs_peer (s : State) (h : Nat) (x : Dcs) : (s.setDcs h x).peer = s.peer := rfl
@[simp] theorem State.setDcs_outst (s : State) (h : Nat) (x : Dcs) : (s.setDcs h x).outst = s.outst := rfl
@[simp] theorem State.setDcs_walks (s : State) (h : Nat) (x : Dcs) : (s.setDcs h x).walks = s.walks := rfl
@[simp] theorem State.setDcs_bar2 (s : State) (h : Nat) (x : Dcs) : (s.setDcs h x).bar2 = s.bar2 := rfl
@[simp] theorem State.setDcs_hostUp (s : State) (h : Nat) (x : Dcs) : (s.setDcs h x).hostUp = s.hostUp := rfl
@[simp] theorem State.setDcs_peerUp (s : State) (h : Nat) (x : Dcs) : (s.setDcs h x).peerUp = s.peerUp := rfl
@[simp] theorem State.setDcs_linkRetry (s : State) (h : Nat) (x : Dcs) : (s.setDcs h x).linkRetry = s.linkRetry := rfl
@[simp] theorem State.setDcs_linkTrain (s : State) (h : Nat) (x : Dcs) : (s.setDcs h x).linkTrain = s.linkTrain := rfl
@[simp] theorem State.setDcs_linkGone (s : State) (h : Nat) (x : Dcs) : (s.setDcs h x).linkGone = s.linkGone := rfl
@[simp] theorem State.setDcs_csPend (s : State) (h : Nat) (x : Dcs) : (s.setDcs h x).csPend = s.csPend := rfl
@[simp] theorem State.setDcs_notified (s : State) (h : Nat) (x : Dcs) : (s.setDcs h x).notified = s.notified := rfl
@[simp] theorem State.setDcs_cdaWait (s : State) (h : Nat) (x : Dcs) : (s.setDcs h x).cdaWait = s.cdaWait := rfl
@[simp] theorem State.setDcs_bootAt (s : State) (h : Nat) (x : Dcs) : (s.setDcs h x).bootAt = s.bootAt := rfl
@[simp] theorem State.setDcs_bootPh (s : State) (h : Nat) (x : Dcs) : (s.setDcs h x).bootPh = s.bootPh := rfl
@[simp] theorem State.setDcs_imgReport (s : State) (h : Nat) (x : Dcs) : (s.setDcs h x).imgReport = s.imgReport := rfl
@[simp] theorem State.setDcs_pinNow (s : State) (h : Nat) (x : Dcs) : (s.setDcs h x).pinNow = s.pinNow := rfl
@[simp] theorem State.setDcs_spi (s : State) (h : Nat) (x : Dcs) : (s.setDcs h x).spi = s.spi := rfl
@[simp] theorem State.setDcs_runMrs (s : State) (h : Nat) (x : Dcs) : (s.setDcs h x).runMrs = s.runMrs := rfl
@[simp] theorem State.setDcs_warm (s : State) (h : Nat) (x : Dcs) : (s.setDcs h x).warm = s.warm := rfl
@[simp] theorem State.setDcs_seqReset (s : State) (h : Nat) (x : Dcs) : (s.setDcs h x).seqReset = s.seqReset := rfl
@[simp] theorem State.setDcs_inputs (s : State) (h : Nat) (x : Dcs) : (s.setDcs h x).inputs = s.inputs := rfl

/-- What was written for a unit is read back. -/
@[simp] theorem State.dcsAt_setDcs (s : State) (h : Nat) (x : Dcs) : (s.setDcs h x).dcsAt h = x := sget_sset_same _ _ _ _
theorem State.dcsAt_setDcs_other (s : State) {h j : Nat} (x : Dcs) (e : j ≠ h) : (s.setDcs h x).dcsAt j = s.dcsAt j := sget_sset_other _ _ _ e
@[simp] theorem State.core_setDcs (s : State) (h : Nat) (x : Dcs) (j : Nat) : (s.setDcs h x).core j = s.core j := rfl
@[simp] theorem State.part_setDcs (s : State) (h : Nat) (x : Dcs) (j : Nat) : (s.setDcs h x).part j = s.part j := rfl
@[simp] theorem State.task_setDcs (s : State) (h : Nat) (x : Dcs) (j : Nat) : (s.setDcs h x).task j = s.task j := rfl
@[simp] theorem State.lbp_setDcs (s : State) (h : Nat) (x : Dcs) (j : Nat) : (s.setDcs h x).lbp j = s.lbp j := rfl
@[simp] theorem State.port_setDcs (s : State) (h : Nat) (x : Dcs) (j : Nat) : (s.setDcs h x).port j = s.port j := rfl
@[simp] theorem State.fset_setDcs (s : State) (h : Nat) (x : Dcs) (j : Nat) : (s.setDcs h x).fset j = s.fset j := rfl

/-! ### State.setLbp -/

@[simp] theorem State.setLbp_wcc (s : State) (n : Nat) (x : Lbp) : (s.setLbp n x).wcc = s.wcc := rfl
@[simp] theorem State.setLbp_readDone (s : State) (n : Nat) (x : Lbp) : (s.setLbp n x).readDone = s.readDone := rfl
@[simp] theorem State.setLbp_worked (s : State) (n : Nat) (x : Lbp) : (s.setLbp n x).worked = s.worked := rfl
@[simp] theorem State.setLbp_actor (s : State) (n : Nat) (x : Lbp) : (s.setLbp n x).actor = s.actor := rfl
@[simp] theorem State.setLbp_unit (s : State) (n : Nat) (x : Lbp) : (s.setLbp n x).unit = s.unit := rfl
@[simp] theorem State.setLbp_sub (s : State) (n : Nat) (x : Lbp) : (s.setLbp n x).sub = s.sub := rfl
@[simp] theorem State.setLbp_cores (s : State) (n : Nat) (x : Lbp) : (s.setLbp n x).cores = s.cores := rfl
@[simp] theorem State.setLbp_parts (s : State) (n : Nat) (x : Lbp) : (s.setLbp n x).parts = s.parts := rfl
@[simp] theorem State.setLbp_tasks (s : State) (n : Nat) (x : Lbp) : (s.setLbp n x).tasks = s.tasks := rfl
@[simp] theorem State.setLbp_taskNo (s : State) (n : Nat) (x : Lbp) : (s.setLbp n x).taskNo = s.taskNo := rfl
@[simp] theorem State.setLbp_dcs (s : State) (n : Nat) (x : Lbp) : (s.setLbp n x).dcs = s.dcs := rfl
@[simp] theorem State.setLbp_ports (s : State) (n : Nat) (x : Lbp) : (s.setLbp n x).ports = s.ports := rfl
@[simp] theorem State.setLbp_sets (s : State) (n : Nat) (x : Lbp) : (s.setLbp n x).sets = s.sets := rfl
@[simp] theorem State.setLbp_mgmt (s : State) (n : Nat) (x : Lbp) : (s.setLbp n x).mgmt = s.mgmt := rfl
@[simp] theorem State.setLbp_mgmtMem (s : State) (n : Nat) (x : Lbp) : (s.setLbp n x).mgmtMem = s.mgmtMem := rfl
@[simp] theorem State.setLbp_mgmtPend (s : State) (n : Nat) (x : Lbp) : (s.setLbp n x).mgmtPend = s.mgmtPend := rfl
@[simp] theorem State.setLbp_bar0 (s : State) (n : Nat) (x : Lbp) : (s.setLbp n x).bar0 = s.bar0 := rfl
@[simp] theorem State.setLbp_view0 (s : State) (n : Nat) (x : Lbp) : (s.setLbp n x).view0 = s.view0 := rfl
@[simp] theorem State.setLbp_view1 (s : State) (n : Nat) (x : Lbp) : (s.setLbp n x).view1 = s.view1 := rfl
@[simp] theorem State.setLbp_tsEcc (s : State) (n : Nat) (x : Lbp) : (s.setLbp n x).tsEcc = s.tsEcc := rfl
@[simp] theorem State.setLbp_wEcc (s : State) (n : Nat) (x : Lbp) : (s.setLbp n x).wEcc = s.wEcc := rfl
@[simp] theorem State.setLbp_mismatch (s : State) (n : Nat) (x : Lbp) : (s.setLbp n x).mismatch = s.mismatch := rfl
@[simp] theorem State.setLbp_ctlEcc (s : State) (n : Nat) (x : Lbp) : (s.setLbp n x).ctlEcc = s.ctlEcc := rfl
@[simp] theorem State.setLbp_advisory (s : State) (n : Nat) (x : Lbp) : (s.setLbp n x).advisory = s.advisory := rfl
@[simp] theorem State.setLbp_reqs (s : State) (n : Nat) (x : Lbp) : (s.setLbp n x).reqs = s.reqs := rfl
@[simp] theorem State.setLbp_ereqs (s : State) (n : Nat) (x : Lbp) : (s.setLbp n x).ereqs = s.ereqs := rfl
@[simp] theorem State.setLbp_reserved (s : State) (n : Nat) (x : Lbp) : (s.setLbp n x).reserved = s.reserved := rfl
@[simp] theorem State.setLbp_banksUsed (s : State) (n : Nat) (x : Lbp) : (s.setLbp n x).banksUsed = s.banksUsed := rfl
@[simp] theorem State.setLbp_vwrites (s : State) (n : Nat) (x : Lbp) : (s.setLbp n x).vwrites = s.vwrites := rfl
@[simp] theorem State.setLbp_applied (s : State) (n : Nat) (x : Lbp) : (s.setLbp n x).applied = s.applied := rfl
@[simp] theorem State.setLbp_sentNo (s : State) (n : Nat) (x : Lbp) : (s.setLbp n x).sentNo = s.sentNo := rfl
@[simp] theorem State.setLbp_know (s : State) (n : Nat) (x : Lbp) : (s.setLbp n x).know = s.know := rfl
@[simp] theorem State.setLbp_fresh (s : State) (n : Nat) (x : Lbp) : (s.setLbp n x).fresh = s.fresh := rfl
@[simp] theorem State.setLbp_effNo (s : State) (n : Nat) (x : Lbp) : (s.setLbp n x).effNo = s.effNo := rfl
@[simp] theorem State.setLbp_cycleNo (s : State) (n : Nat) (x : Lbp) : (s.setLbp n x).cycleNo = s.cycleNo := rfl
@[simp] theorem State.setLbp_race (s : State) (n : Nat) (x : Lbp) : (s.setLbp n x).race = s.race := rfl
@[simp] theorem State.setLbp_pubs (s : State) (n : Nat) (x : Lbp) : (s.setLbp n x).pubs = s.pubs := rfl
@[simp] theorem State.setLbp_tileW (s : State) (n : Nat) (x : Lbp) : (s.setLbp n x).tileW = s.tileW := rfl
@[simp] theorem State.setLbp_freeSeen (s : State) (n : Nat) (x : Lbp) : (s.setLbp n x).freeSeen = s.freeSeen := rfl
@[simp] theorem State.setLbp_tb (s : State) (n : Nat) (x : Lbp) : (s.setLbp n x).tb = s.tb := rfl
@[simp] theorem State.setLbp_tbAdd (s : State) (n : Nat) (x : Lbp) : (s.setLbp n x).tbAdd = s.tbAdd := rfl
@[simp] theorem State.setLbp_host (s : State) (n : Nat) (x : Lbp) : (s.setLbp n x).host = s.host := rfl
@[simp] theorem State.setLbp_peer (s : State) (n : Nat) (x : Lbp) : (s.setLbp n x).peer = s.peer := rfl
@[simp] theorem State.setLbp_outst (s : State) (n : Nat) (x : Lbp) : (s.setLbp n x).outst = s.outst := rfl
@[simp] theorem State.setLbp_walks (s : State) (n : Nat) (x : Lbp) : (s.setLbp n x).walks = s.walks := rfl
@[simp] theorem State.setLbp_bar2 (s : State) (n : Nat) (x : Lbp) : (s.setLbp n x).bar2 = s.bar2 := rfl
@[simp] theorem State.setLbp_hostUp (s : State) (n : Nat) (x : Lbp) : (s.setLbp n x).hostUp = s.hostUp := rfl
@[simp] theorem State.setLbp_peerUp (s : State) (n : Nat) (x : Lbp) : (s.setLbp n x).peerUp = s.peerUp := rfl
@[simp] theorem State.setLbp_linkRetry (s : State) (n : Nat) (x : Lbp) : (s.setLbp n x).linkRetry = s.linkRetry := rfl
@[simp] theorem State.setLbp_linkTrain (s : State) (n : Nat) (x : Lbp) : (s.setLbp n x).linkTrain = s.linkTrain := rfl
@[simp] theorem State.setLbp_linkGone (s : State) (n : Nat) (x : Lbp) : (s.setLbp n x).linkGone = s.linkGone := rfl
@[simp] theorem State.setLbp_csPend (s : State) (n : Nat) (x : Lbp) : (s.setLbp n x).csPend = s.csPend := rfl
@[simp] theorem State.setLbp_notified (s : State) (n : Nat) (x : Lbp) : (s.setLbp n x).notified = s.notified := rfl
@[simp] theorem State.setLbp_cdaWait (s : State) (n : Nat) (x : Lbp) : (s.setLbp n x).cdaWait = s.cdaWait := rfl
@[simp] theorem State.setLbp_bootAt (s : State) (n : Nat) (x : Lbp) : (s.setLbp n x).bootAt = s.bootAt := rfl
@[simp] theorem State.setLbp_bootPh (s : State) (n : Nat) (x : Lbp) : (s.setLbp n x).bootPh = s.bootPh := rfl
@[simp] theorem State.setLbp_imgReport (s : State) (n : Nat) (x : Lbp) : (s.setLbp n x).imgReport = s.imgReport := rfl
@[simp] theorem State.setLbp_pinNow (s : State) (n : Nat) (x : Lbp) : (s.setLbp n x).pinNow = s.pinNow := rfl
@[simp] theorem State.setLbp_spi (s : State) (n : Nat) (x : Lbp) : (s.setLbp n x).spi = s.spi := rfl
@[simp] theorem State.setLbp_runMrs (s : State) (n : Nat) (x : Lbp) : (s.setLbp n x).runMrs = s.runMrs := rfl
@[simp] theorem State.setLbp_warm (s : State) (n : Nat) (x : Lbp) : (s.setLbp n x).warm = s.warm := rfl
@[simp] theorem State.setLbp_seqReset (s : State) (n : Nat) (x : Lbp) : (s.setLbp n x).seqReset = s.seqReset := rfl
@[simp] theorem State.setLbp_inputs (s : State) (n : Nat) (x : Lbp) : (s.setLbp n x).inputs = s.inputs := rfl

/-- What was written for a unit is read back. -/
@[simp] theorem State.lbp_setLbp (s : State) (n : Nat) (x : Lbp) : (s.setLbp n x).lbp n = x := sget_sset_same _ _ _ _
theorem State.lbp_setLbp_other (s : State) {n j : Nat} (x : Lbp) (h : j ≠ n) : (s.setLbp n x).lbp j = s.lbp j := sget_sset_other _ _ _ h
@[simp] theorem State.core_setLbp (s : State) (n : Nat) (x : Lbp) (j : Nat) : (s.setLbp n x).core j = s.core j := rfl
@[simp] theorem State.part_setLbp (s : State) (n : Nat) (x : Lbp) (j : Nat) : (s.setLbp n x).part j = s.part j := rfl
@[simp] theorem State.task_setLbp (s : State) (n : Nat) (x : Lbp) (j : Nat) : (s.setLbp n x).task j = s.task j := rfl
@[simp] theorem State.dcsAt_setLbp (s : State) (n : Nat) (x : Lbp) (j : Nat) : (s.setLbp n x).dcsAt j = s.dcsAt j := rfl
@[simp] theorem State.port_setLbp (s : State) (n : Nat) (x : Lbp) (j : Nat) : (s.setLbp n x).port j = s.port j := rfl
@[simp] theorem State.fset_setLbp (s : State) (n : Nat) (x : Lbp) (j : Nat) : (s.setLbp n x).fset j = s.fset j := rfl

/-! ### State.setPort -/

@[simp] theorem State.setPort_wcc (s : State) (p : Nat) (x : Port) : (s.setPort p x).wcc = s.wcc := rfl
@[simp] theorem State.setPort_readDone (s : State) (p : Nat) (x : Port) : (s.setPort p x).readDone = s.readDone := rfl
@[simp] theorem State.setPort_worked (s : State) (p : Nat) (x : Port) : (s.setPort p x).worked = s.worked := rfl
@[simp] theorem State.setPort_actor (s : State) (p : Nat) (x : Port) : (s.setPort p x).actor = s.actor := rfl
@[simp] theorem State.setPort_unit (s : State) (p : Nat) (x : Port) : (s.setPort p x).unit = s.unit := rfl
@[simp] theorem State.setPort_sub (s : State) (p : Nat) (x : Port) : (s.setPort p x).sub = s.sub := rfl
@[simp] theorem State.setPort_cores (s : State) (p : Nat) (x : Port) : (s.setPort p x).cores = s.cores := rfl
@[simp] theorem State.setPort_parts (s : State) (p : Nat) (x : Port) : (s.setPort p x).parts = s.parts := rfl
@[simp] theorem State.setPort_tasks (s : State) (p : Nat) (x : Port) : (s.setPort p x).tasks = s.tasks := rfl
@[simp] theorem State.setPort_taskNo (s : State) (p : Nat) (x : Port) : (s.setPort p x).taskNo = s.taskNo := rfl
@[simp] theorem State.setPort_dcs (s : State) (p : Nat) (x : Port) : (s.setPort p x).dcs = s.dcs := rfl
@[simp] theorem State.setPort_lbps (s : State) (p : Nat) (x : Port) : (s.setPort p x).lbps = s.lbps := rfl
@[simp] theorem State.setPort_sets (s : State) (p : Nat) (x : Port) : (s.setPort p x).sets = s.sets := rfl
@[simp] theorem State.setPort_mgmt (s : State) (p : Nat) (x : Port) : (s.setPort p x).mgmt = s.mgmt := rfl
@[simp] theorem State.setPort_mgmtMem (s : State) (p : Nat) (x : Port) : (s.setPort p x).mgmtMem = s.mgmtMem := rfl
@[simp] theorem State.setPort_mgmtPend (s : State) (p : Nat) (x : Port) : (s.setPort p x).mgmtPend = s.mgmtPend := rfl
@[simp] theorem State.setPort_bar0 (s : State) (p : Nat) (x : Port) : (s.setPort p x).bar0 = s.bar0 := rfl
@[simp] theorem State.setPort_view0 (s : State) (p : Nat) (x : Port) : (s.setPort p x).view0 = s.view0 := rfl
@[simp] theorem State.setPort_view1 (s : State) (p : Nat) (x : Port) : (s.setPort p x).view1 = s.view1 := rfl
@[simp] theorem State.setPort_tsEcc (s : State) (p : Nat) (x : Port) : (s.setPort p x).tsEcc = s.tsEcc := rfl
@[simp] theorem State.setPort_wEcc (s : State) (p : Nat) (x : Port) : (s.setPort p x).wEcc = s.wEcc := rfl
@[simp] theorem State.setPort_mismatch (s : State) (p : Nat) (x : Port) : (s.setPort p x).mismatch = s.mismatch := rfl
@[simp] theorem State.setPort_ctlEcc (s : State) (p : Nat) (x : Port) : (s.setPort p x).ctlEcc = s.ctlEcc := rfl
@[simp] theorem State.setPort_advisory (s : State) (p : Nat) (x : Port) : (s.setPort p x).advisory = s.advisory := rfl
@[simp] theorem State.setPort_reqs (s : State) (p : Nat) (x : Port) : (s.setPort p x).reqs = s.reqs := rfl
@[simp] theorem State.setPort_ereqs (s : State) (p : Nat) (x : Port) : (s.setPort p x).ereqs = s.ereqs := rfl
@[simp] theorem State.setPort_reserved (s : State) (p : Nat) (x : Port) : (s.setPort p x).reserved = s.reserved := rfl
@[simp] theorem State.setPort_banksUsed (s : State) (p : Nat) (x : Port) : (s.setPort p x).banksUsed = s.banksUsed := rfl
@[simp] theorem State.setPort_vwrites (s : State) (p : Nat) (x : Port) : (s.setPort p x).vwrites = s.vwrites := rfl
@[simp] theorem State.setPort_applied (s : State) (p : Nat) (x : Port) : (s.setPort p x).applied = s.applied := rfl
@[simp] theorem State.setPort_sentNo (s : State) (p : Nat) (x : Port) : (s.setPort p x).sentNo = s.sentNo := rfl
@[simp] theorem State.setPort_know (s : State) (p : Nat) (x : Port) : (s.setPort p x).know = s.know := rfl
@[simp] theorem State.setPort_fresh (s : State) (p : Nat) (x : Port) : (s.setPort p x).fresh = s.fresh := rfl
@[simp] theorem State.setPort_effNo (s : State) (p : Nat) (x : Port) : (s.setPort p x).effNo = s.effNo := rfl
@[simp] theorem State.setPort_cycleNo (s : State) (p : Nat) (x : Port) : (s.setPort p x).cycleNo = s.cycleNo := rfl
@[simp] theorem State.setPort_race (s : State) (p : Nat) (x : Port) : (s.setPort p x).race = s.race := rfl
@[simp] theorem State.setPort_pubs (s : State) (p : Nat) (x : Port) : (s.setPort p x).pubs = s.pubs := rfl
@[simp] theorem State.setPort_tileW (s : State) (p : Nat) (x : Port) : (s.setPort p x).tileW = s.tileW := rfl
@[simp] theorem State.setPort_freeSeen (s : State) (p : Nat) (x : Port) : (s.setPort p x).freeSeen = s.freeSeen := rfl
@[simp] theorem State.setPort_tb (s : State) (p : Nat) (x : Port) : (s.setPort p x).tb = s.tb := rfl
@[simp] theorem State.setPort_tbAdd (s : State) (p : Nat) (x : Port) : (s.setPort p x).tbAdd = s.tbAdd := rfl
@[simp] theorem State.setPort_host (s : State) (p : Nat) (x : Port) : (s.setPort p x).host = s.host := rfl
@[simp] theorem State.setPort_peer (s : State) (p : Nat) (x : Port) : (s.setPort p x).peer = s.peer := rfl
@[simp] theorem State.setPort_outst (s : State) (p : Nat) (x : Port) : (s.setPort p x).outst = s.outst := rfl
@[simp] theorem State.setPort_walks (s : State) (p : Nat) (x : Port) : (s.setPort p x).walks = s.walks := rfl
@[simp] theorem State.setPort_bar2 (s : State) (p : Nat) (x : Port) : (s.setPort p x).bar2 = s.bar2 := rfl
@[simp] theorem State.setPort_hostUp (s : State) (p : Nat) (x : Port) : (s.setPort p x).hostUp = s.hostUp := rfl
@[simp] theorem State.setPort_peerUp (s : State) (p : Nat) (x : Port) : (s.setPort p x).peerUp = s.peerUp := rfl
@[simp] theorem State.setPort_linkRetry (s : State) (p : Nat) (x : Port) : (s.setPort p x).linkRetry = s.linkRetry := rfl
@[simp] theorem State.setPort_linkTrain (s : State) (p : Nat) (x : Port) : (s.setPort p x).linkTrain = s.linkTrain := rfl
@[simp] theorem State.setPort_linkGone (s : State) (p : Nat) (x : Port) : (s.setPort p x).linkGone = s.linkGone := rfl
@[simp] theorem State.setPort_csPend (s : State) (p : Nat) (x : Port) : (s.setPort p x).csPend = s.csPend := rfl
@[simp] theorem State.setPort_notified (s : State) (p : Nat) (x : Port) : (s.setPort p x).notified = s.notified := rfl
@[simp] theorem State.setPort_cdaWait (s : State) (p : Nat) (x : Port) : (s.setPort p x).cdaWait = s.cdaWait := rfl
@[simp] theorem State.setPort_bootAt (s : State) (p : Nat) (x : Port) : (s.setPort p x).bootAt = s.bootAt := rfl
@[simp] theorem State.setPort_bootPh (s : State) (p : Nat) (x : Port) : (s.setPort p x).bootPh = s.bootPh := rfl
@[simp] theorem State.setPort_imgReport (s : State) (p : Nat) (x : Port) : (s.setPort p x).imgReport = s.imgReport := rfl
@[simp] theorem State.setPort_pinNow (s : State) (p : Nat) (x : Port) : (s.setPort p x).pinNow = s.pinNow := rfl
@[simp] theorem State.setPort_spi (s : State) (p : Nat) (x : Port) : (s.setPort p x).spi = s.spi := rfl
@[simp] theorem State.setPort_runMrs (s : State) (p : Nat) (x : Port) : (s.setPort p x).runMrs = s.runMrs := rfl
@[simp] theorem State.setPort_warm (s : State) (p : Nat) (x : Port) : (s.setPort p x).warm = s.warm := rfl
@[simp] theorem State.setPort_seqReset (s : State) (p : Nat) (x : Port) : (s.setPort p x).seqReset = s.seqReset := rfl
@[simp] theorem State.setPort_inputs (s : State) (p : Nat) (x : Port) : (s.setPort p x).inputs = s.inputs := rfl

/-- What was written for a unit is read back. -/
@[simp] theorem State.port_setPort (s : State) (p : Nat) (x : Port) : (s.setPort p x).port p = x := sget_sset_same _ _ _ _
theorem State.port_setPort_other (s : State) {p j : Nat} (x : Port) (h : j ≠ p) : (s.setPort p x).port j = s.port j := sget_sset_other _ _ _ h
@[simp] theorem State.core_setPort (s : State) (p : Nat) (x : Port) (j : Nat) : (s.setPort p x).core j = s.core j := rfl
@[simp] theorem State.part_setPort (s : State) (p : Nat) (x : Port) (j : Nat) : (s.setPort p x).part j = s.part j := rfl
@[simp] theorem State.task_setPort (s : State) (p : Nat) (x : Port) (j : Nat) : (s.setPort p x).task j = s.task j := rfl
@[simp] theorem State.dcsAt_setPort (s : State) (p : Nat) (x : Port) (j : Nat) : (s.setPort p x).dcsAt j = s.dcsAt j := rfl
@[simp] theorem State.lbp_setPort (s : State) (p : Nat) (x : Port) (j : Nat) : (s.setPort p x).lbp j = s.lbp j := rfl
@[simp] theorem State.fset_setPort (s : State) (p : Nat) (x : Port) (j : Nat) : (s.setPort p x).fset j = s.fset j := rfl

/-! ### State.setFset -/

@[simp] theorem State.setFset_wcc (s : State) (n : Nat) (x : FusionSet) : (s.setFset n x).wcc = s.wcc := rfl
@[simp] theorem State.setFset_readDone (s : State) (n : Nat) (x : FusionSet) : (s.setFset n x).readDone = s.readDone := rfl
@[simp] theorem State.setFset_worked (s : State) (n : Nat) (x : FusionSet) : (s.setFset n x).worked = s.worked := rfl
@[simp] theorem State.setFset_actor (s : State) (n : Nat) (x : FusionSet) : (s.setFset n x).actor = s.actor := rfl
@[simp] theorem State.setFset_unit (s : State) (n : Nat) (x : FusionSet) : (s.setFset n x).unit = s.unit := rfl
@[simp] theorem State.setFset_sub (s : State) (n : Nat) (x : FusionSet) : (s.setFset n x).sub = s.sub := rfl
@[simp] theorem State.setFset_cores (s : State) (n : Nat) (x : FusionSet) : (s.setFset n x).cores = s.cores := rfl
@[simp] theorem State.setFset_parts (s : State) (n : Nat) (x : FusionSet) : (s.setFset n x).parts = s.parts := rfl
@[simp] theorem State.setFset_tasks (s : State) (n : Nat) (x : FusionSet) : (s.setFset n x).tasks = s.tasks := rfl
@[simp] theorem State.setFset_taskNo (s : State) (n : Nat) (x : FusionSet) : (s.setFset n x).taskNo = s.taskNo := rfl
@[simp] theorem State.setFset_dcs (s : State) (n : Nat) (x : FusionSet) : (s.setFset n x).dcs = s.dcs := rfl
@[simp] theorem State.setFset_lbps (s : State) (n : Nat) (x : FusionSet) : (s.setFset n x).lbps = s.lbps := rfl
@[simp] theorem State.setFset_ports (s : State) (n : Nat) (x : FusionSet) : (s.setFset n x).ports = s.ports := rfl
@[simp] theorem State.setFset_mgmt (s : State) (n : Nat) (x : FusionSet) : (s.setFset n x).mgmt = s.mgmt := rfl
@[simp] theorem State.setFset_mgmtMem (s : State) (n : Nat) (x : FusionSet) : (s.setFset n x).mgmtMem = s.mgmtMem := rfl
@[simp] theorem State.setFset_mgmtPend (s : State) (n : Nat) (x : FusionSet) : (s.setFset n x).mgmtPend = s.mgmtPend := rfl
@[simp] theorem State.setFset_bar0 (s : State) (n : Nat) (x : FusionSet) : (s.setFset n x).bar0 = s.bar0 := rfl
@[simp] theorem State.setFset_view0 (s : State) (n : Nat) (x : FusionSet) : (s.setFset n x).view0 = s.view0 := rfl
@[simp] theorem State.setFset_view1 (s : State) (n : Nat) (x : FusionSet) : (s.setFset n x).view1 = s.view1 := rfl
@[simp] theorem State.setFset_tsEcc (s : State) (n : Nat) (x : FusionSet) : (s.setFset n x).tsEcc = s.tsEcc := rfl
@[simp] theorem State.setFset_wEcc (s : State) (n : Nat) (x : FusionSet) : (s.setFset n x).wEcc = s.wEcc := rfl
@[simp] theorem State.setFset_mismatch (s : State) (n : Nat) (x : FusionSet) : (s.setFset n x).mismatch = s.mismatch := rfl
@[simp] theorem State.setFset_ctlEcc (s : State) (n : Nat) (x : FusionSet) : (s.setFset n x).ctlEcc = s.ctlEcc := rfl
@[simp] theorem State.setFset_advisory (s : State) (n : Nat) (x : FusionSet) : (s.setFset n x).advisory = s.advisory := rfl
@[simp] theorem State.setFset_reqs (s : State) (n : Nat) (x : FusionSet) : (s.setFset n x).reqs = s.reqs := rfl
@[simp] theorem State.setFset_ereqs (s : State) (n : Nat) (x : FusionSet) : (s.setFset n x).ereqs = s.ereqs := rfl
@[simp] theorem State.setFset_reserved (s : State) (n : Nat) (x : FusionSet) : (s.setFset n x).reserved = s.reserved := rfl
@[simp] theorem State.setFset_banksUsed (s : State) (n : Nat) (x : FusionSet) : (s.setFset n x).banksUsed = s.banksUsed := rfl
@[simp] theorem State.setFset_vwrites (s : State) (n : Nat) (x : FusionSet) : (s.setFset n x).vwrites = s.vwrites := rfl
@[simp] theorem State.setFset_applied (s : State) (n : Nat) (x : FusionSet) : (s.setFset n x).applied = s.applied := rfl
@[simp] theorem State.setFset_sentNo (s : State) (n : Nat) (x : FusionSet) : (s.setFset n x).sentNo = s.sentNo := rfl
@[simp] theorem State.setFset_know (s : State) (n : Nat) (x : FusionSet) : (s.setFset n x).know = s.know := rfl
@[simp] theorem State.setFset_fresh (s : State) (n : Nat) (x : FusionSet) : (s.setFset n x).fresh = s.fresh := rfl
@[simp] theorem State.setFset_effNo (s : State) (n : Nat) (x : FusionSet) : (s.setFset n x).effNo = s.effNo := rfl
@[simp] theorem State.setFset_cycleNo (s : State) (n : Nat) (x : FusionSet) : (s.setFset n x).cycleNo = s.cycleNo := rfl
@[simp] theorem State.setFset_race (s : State) (n : Nat) (x : FusionSet) : (s.setFset n x).race = s.race := rfl
@[simp] theorem State.setFset_pubs (s : State) (n : Nat) (x : FusionSet) : (s.setFset n x).pubs = s.pubs := rfl
@[simp] theorem State.setFset_tileW (s : State) (n : Nat) (x : FusionSet) : (s.setFset n x).tileW = s.tileW := rfl
@[simp] theorem State.setFset_freeSeen (s : State) (n : Nat) (x : FusionSet) : (s.setFset n x).freeSeen = s.freeSeen := rfl
@[simp] theorem State.setFset_tb (s : State) (n : Nat) (x : FusionSet) : (s.setFset n x).tb = s.tb := rfl
@[simp] theorem State.setFset_tbAdd (s : State) (n : Nat) (x : FusionSet) : (s.setFset n x).tbAdd = s.tbAdd := rfl
@[simp] theorem State.setFset_host (s : State) (n : Nat) (x : FusionSet) : (s.setFset n x).host = s.host := rfl
@[simp] theorem State.setFset_peer (s : State) (n : Nat) (x : FusionSet) : (s.setFset n x).peer = s.peer := rfl
@[simp] theorem State.setFset_outst (s : State) (n : Nat) (x : FusionSet) : (s.setFset n x).outst = s.outst := rfl
@[simp] theorem State.setFset_walks (s : State) (n : Nat) (x : FusionSet) : (s.setFset n x).walks = s.walks := rfl
@[simp] theorem State.setFset_bar2 (s : State) (n : Nat) (x : FusionSet) : (s.setFset n x).bar2 = s.bar2 := rfl
@[simp] theorem State.setFset_hostUp (s : State) (n : Nat) (x : FusionSet) : (s.setFset n x).hostUp = s.hostUp := rfl
@[simp] theorem State.setFset_peerUp (s : State) (n : Nat) (x : FusionSet) : (s.setFset n x).peerUp = s.peerUp := rfl
@[simp] theorem State.setFset_linkRetry (s : State) (n : Nat) (x : FusionSet) : (s.setFset n x).linkRetry = s.linkRetry := rfl
@[simp] theorem State.setFset_linkTrain (s : State) (n : Nat) (x : FusionSet) : (s.setFset n x).linkTrain = s.linkTrain := rfl
@[simp] theorem State.setFset_linkGone (s : State) (n : Nat) (x : FusionSet) : (s.setFset n x).linkGone = s.linkGone := rfl
@[simp] theorem State.setFset_csPend (s : State) (n : Nat) (x : FusionSet) : (s.setFset n x).csPend = s.csPend := rfl
@[simp] theorem State.setFset_notified (s : State) (n : Nat) (x : FusionSet) : (s.setFset n x).notified = s.notified := rfl
@[simp] theorem State.setFset_cdaWait (s : State) (n : Nat) (x : FusionSet) : (s.setFset n x).cdaWait = s.cdaWait := rfl
@[simp] theorem State.setFset_bootAt (s : State) (n : Nat) (x : FusionSet) : (s.setFset n x).bootAt = s.bootAt := rfl
@[simp] theorem State.setFset_bootPh (s : State) (n : Nat) (x : FusionSet) : (s.setFset n x).bootPh = s.bootPh := rfl
@[simp] theorem State.setFset_imgReport (s : State) (n : Nat) (x : FusionSet) : (s.setFset n x).imgReport = s.imgReport := rfl
@[simp] theorem State.setFset_pinNow (s : State) (n : Nat) (x : FusionSet) : (s.setFset n x).pinNow = s.pinNow := rfl
@[simp] theorem State.setFset_spi (s : State) (n : Nat) (x : FusionSet) : (s.setFset n x).spi = s.spi := rfl
@[simp] theorem State.setFset_runMrs (s : State) (n : Nat) (x : FusionSet) : (s.setFset n x).runMrs = s.runMrs := rfl
@[simp] theorem State.setFset_warm (s : State) (n : Nat) (x : FusionSet) : (s.setFset n x).warm = s.warm := rfl
@[simp] theorem State.setFset_seqReset (s : State) (n : Nat) (x : FusionSet) : (s.setFset n x).seqReset = s.seqReset := rfl
@[simp] theorem State.setFset_inputs (s : State) (n : Nat) (x : FusionSet) : (s.setFset n x).inputs = s.inputs := rfl

/-- What was written for a unit is read back. -/
@[simp] theorem State.fset_setFset (s : State) (n : Nat) (x : FusionSet) : (s.setFset n x).fset n = x := sget_sset_same _ _ _ _
theorem State.fset_setFset_other (s : State) {n j : Nat} (x : FusionSet) (h : j ≠ n) : (s.setFset n x).fset j = s.fset j := sget_sset_other _ _ _ h
@[simp] theorem State.core_setFset (s : State) (n : Nat) (x : FusionSet) (j : Nat) : (s.setFset n x).core j = s.core j := rfl
@[simp] theorem State.part_setFset (s : State) (n : Nat) (x : FusionSet) (j : Nat) : (s.setFset n x).part j = s.part j := rfl
@[simp] theorem State.task_setFset (s : State) (n : Nat) (x : FusionSet) (j : Nat) : (s.setFset n x).task j = s.task j := rfl
@[simp] theorem State.dcsAt_setFset (s : State) (n : Nat) (x : FusionSet) (j : Nat) : (s.setFset n x).dcsAt j = s.dcsAt j := rfl
@[simp] theorem State.lbp_setFset (s : State) (n : Nat) (x : FusionSet) (j : Nat) : (s.setFset n x).lbp j = s.lbp j := rfl
@[simp] theorem State.port_setFset (s : State) (n : Nat) (x : FusionSet) (j : Nat) : (s.setFset n x).port j = s.port j := rfl

/-! ### State.setSeqr -/

@[simp] theorem State.setSeqr_wcc (s : State) (a : Actor) (q : Seqr) : (s.setSeqr a q).wcc = s.wcc := by cases a <;> rfl
@[simp] theorem State.setSeqr_readDone (s : State) (a : Actor) (q : Seqr) : (s.setSeqr a q).readDone = s.readDone := by cases a <;> rfl
@[simp] theorem State.setSeqr_worked (s : State) (a : Actor) (q : Seqr) : (s.setSeqr a q).worked = s.worked := by cases a <;> rfl
@[simp] theorem State.setSeqr_actor (s : State) (a : Actor) (q : Seqr) : (s.setSeqr a q).actor = s.actor := by cases a <;> rfl
@[simp] theorem State.setSeqr_unit (s : State) (a : Actor) (q : Seqr) : (s.setSeqr a q).unit = s.unit := by cases a <;> rfl
@[simp] theorem State.setSeqr_sub (s : State) (a : Actor) (q : Seqr) : (s.setSeqr a q).sub = s.sub := by cases a <;> rfl
@[simp] theorem State.setSeqr_parts (s : State) (a : Actor) (q : Seqr) : (s.setSeqr a q).parts = s.parts := by cases a <;> rfl
@[simp] theorem State.setSeqr_tasks (s : State) (a : Actor) (q : Seqr) : (s.setSeqr a q).tasks = s.tasks := by cases a <;> rfl
@[simp] theorem State.setSeqr_taskNo (s : State) (a : Actor) (q : Seqr) : (s.setSeqr a q).taskNo = s.taskNo := by cases a <;> rfl
@[simp] theorem State.setSeqr_ports (s : State) (a : Actor) (q : Seqr) : (s.setSeqr a q).ports = s.ports := by cases a <;> rfl
@[simp] theorem State.setSeqr_sets (s : State) (a : Actor) (q : Seqr) : (s.setSeqr a q).sets = s.sets := by cases a <;> rfl
@[simp] theorem State.setSeqr_mgmtMem (s : State) (a : Actor) (q : Seqr) : (s.setSeqr a q).mgmtMem = s.mgmtMem := by cases a <;> rfl
@[simp] theorem State.setSeqr_mgmtPend (s : State) (a : Actor) (q : Seqr) : (s.setSeqr a q).mgmtPend = s.mgmtPend := by cases a <;> rfl
@[simp] theorem State.setSeqr_bar0 (s : State) (a : Actor) (q : Seqr) : (s.setSeqr a q).bar0 = s.bar0 := by cases a <;> rfl
@[simp] theorem State.setSeqr_view0 (s : State) (a : Actor) (q : Seqr) : (s.setSeqr a q).view0 = s.view0 := by cases a <;> rfl
@[simp] theorem State.setSeqr_view1 (s : State) (a : Actor) (q : Seqr) : (s.setSeqr a q).view1 = s.view1 := by cases a <;> rfl
@[simp] theorem State.setSeqr_tsEcc (s : State) (a : Actor) (q : Seqr) : (s.setSeqr a q).tsEcc = s.tsEcc := by cases a <;> rfl
@[simp] theorem State.setSeqr_wEcc (s : State) (a : Actor) (q : Seqr) : (s.setSeqr a q).wEcc = s.wEcc := by cases a <;> rfl
@[simp] theorem State.setSeqr_mismatch (s : State) (a : Actor) (q : Seqr) : (s.setSeqr a q).mismatch = s.mismatch := by cases a <;> rfl
@[simp] theorem State.setSeqr_ctlEcc (s : State) (a : Actor) (q : Seqr) : (s.setSeqr a q).ctlEcc = s.ctlEcc := by cases a <;> rfl
@[simp] theorem State.setSeqr_advisory (s : State) (a : Actor) (q : Seqr) : (s.setSeqr a q).advisory = s.advisory := by cases a <;> rfl
@[simp] theorem State.setSeqr_reqs (s : State) (a : Actor) (q : Seqr) : (s.setSeqr a q).reqs = s.reqs := by cases a <;> rfl
@[simp] theorem State.setSeqr_ereqs (s : State) (a : Actor) (q : Seqr) : (s.setSeqr a q).ereqs = s.ereqs := by cases a <;> rfl
@[simp] theorem State.setSeqr_reserved (s : State) (a : Actor) (q : Seqr) : (s.setSeqr a q).reserved = s.reserved := by cases a <;> rfl
@[simp] theorem State.setSeqr_banksUsed (s : State) (a : Actor) (q : Seqr) : (s.setSeqr a q).banksUsed = s.banksUsed := by cases a <;> rfl
@[simp] theorem State.setSeqr_vwrites (s : State) (a : Actor) (q : Seqr) : (s.setSeqr a q).vwrites = s.vwrites := by cases a <;> rfl
@[simp] theorem State.setSeqr_applied (s : State) (a : Actor) (q : Seqr) : (s.setSeqr a q).applied = s.applied := by cases a <;> rfl
@[simp] theorem State.setSeqr_sentNo (s : State) (a : Actor) (q : Seqr) : (s.setSeqr a q).sentNo = s.sentNo := by cases a <;> rfl
@[simp] theorem State.setSeqr_know (s : State) (a : Actor) (q : Seqr) : (s.setSeqr a q).know = s.know := by cases a <;> rfl
@[simp] theorem State.setSeqr_fresh (s : State) (a : Actor) (q : Seqr) : (s.setSeqr a q).fresh = s.fresh := by cases a <;> rfl
@[simp] theorem State.setSeqr_effNo (s : State) (a : Actor) (q : Seqr) : (s.setSeqr a q).effNo = s.effNo := by cases a <;> rfl
@[simp] theorem State.setSeqr_cycleNo (s : State) (a : Actor) (q : Seqr) : (s.setSeqr a q).cycleNo = s.cycleNo := by cases a <;> rfl
@[simp] theorem State.setSeqr_race (s : State) (a : Actor) (q : Seqr) : (s.setSeqr a q).race = s.race := by cases a <;> rfl
@[simp] theorem State.setSeqr_pubs (s : State) (a : Actor) (q : Seqr) : (s.setSeqr a q).pubs = s.pubs := by cases a <;> rfl
@[simp] theorem State.setSeqr_tileW (s : State) (a : Actor) (q : Seqr) : (s.setSeqr a q).tileW = s.tileW := by cases a <;> rfl
@[simp] theorem State.setSeqr_freeSeen (s : State) (a : Actor) (q : Seqr) : (s.setSeqr a q).freeSeen = s.freeSeen := by cases a <;> rfl
@[simp] theorem State.setSeqr_tb (s : State) (a : Actor) (q : Seqr) : (s.setSeqr a q).tb = s.tb := by cases a <;> rfl
@[simp] theorem State.setSeqr_tbAdd (s : State) (a : Actor) (q : Seqr) : (s.setSeqr a q).tbAdd = s.tbAdd := by cases a <;> rfl
@[simp] theorem State.setSeqr_host (s : State) (a : Actor) (q : Seqr) : (s.setSeqr a q).host = s.host := by cases a <;> rfl
@[simp] theorem State.setSeqr_peer (s : State) (a : Actor) (q : Seqr) : (s.setSeqr a q).peer = s.peer := by cases a <;> rfl
@[simp] theorem State.setSeqr_outst (s : State) (a : Actor) (q : Seqr) : (s.setSeqr a q).outst = s.outst := by cases a <;> rfl
@[simp] theorem State.setSeqr_walks (s : State) (a : Actor) (q : Seqr) : (s.setSeqr a q).walks = s.walks := by cases a <;> rfl
@[simp] theorem State.setSeqr_bar2 (s : State) (a : Actor) (q : Seqr) : (s.setSeqr a q).bar2 = s.bar2 := by cases a <;> rfl
@[simp] theorem State.setSeqr_hostUp (s : State) (a : Actor) (q : Seqr) : (s.setSeqr a q).hostUp = s.hostUp := by cases a <;> rfl
@[simp] theorem State.setSeqr_peerUp (s : State) (a : Actor) (q : Seqr) : (s.setSeqr a q).peerUp = s.peerUp := by cases a <;> rfl
@[simp] theorem State.setSeqr_linkRetry (s : State) (a : Actor) (q : Seqr) : (s.setSeqr a q).linkRetry = s.linkRetry := by cases a <;> rfl
@[simp] theorem State.setSeqr_linkTrain (s : State) (a : Actor) (q : Seqr) : (s.setSeqr a q).linkTrain = s.linkTrain := by cases a <;> rfl
@[simp] theorem State.setSeqr_linkGone (s : State) (a : Actor) (q : Seqr) : (s.setSeqr a q).linkGone = s.linkGone := by cases a <;> rfl
@[simp] theorem State.setSeqr_csPend (s : State) (a : Actor) (q : Seqr) : (s.setSeqr a q).csPend = s.csPend := by cases a <;> rfl
@[simp] theorem State.setSeqr_notified (s : State) (a : Actor) (q : Seqr) : (s.setSeqr a q).notified = s.notified := by cases a <;> rfl
@[simp] theorem State.setSeqr_cdaWait (s : State) (a : Actor) (q : Seqr) : (s.setSeqr a q).cdaWait = s.cdaWait := by cases a <;> rfl
@[simp] theorem State.setSeqr_bootAt (s : State) (a : Actor) (q : Seqr) : (s.setSeqr a q).bootAt = s.bootAt := by cases a <;> rfl
@[simp] theorem State.setSeqr_bootPh (s : State) (a : Actor) (q : Seqr) : (s.setSeqr a q).bootPh = s.bootPh := by cases a <;> rfl
@[simp] theorem State.setSeqr_imgReport (s : State) (a : Actor) (q : Seqr) : (s.setSeqr a q).imgReport = s.imgReport := by cases a <;> rfl
@[simp] theorem State.setSeqr_pinNow (s : State) (a : Actor) (q : Seqr) : (s.setSeqr a q).pinNow = s.pinNow := by cases a <;> rfl
@[simp] theorem State.setSeqr_spi (s : State) (a : Actor) (q : Seqr) : (s.setSeqr a q).spi = s.spi := by cases a <;> rfl
@[simp] theorem State.setSeqr_runMrs (s : State) (a : Actor) (q : Seqr) : (s.setSeqr a q).runMrs = s.runMrs := by cases a <;> rfl
@[simp] theorem State.setSeqr_warm (s : State) (a : Actor) (q : Seqr) : (s.setSeqr a q).warm = s.warm := by cases a <;> rfl
@[simp] theorem State.setSeqr_seqReset (s : State) (a : Actor) (q : Seqr) : (s.setSeqr a q).seqReset = s.seqReset := by cases a <;> rfl
@[simp] theorem State.setSeqr_inputs (s : State) (a : Actor) (q : Seqr) : (s.setSeqr a q).inputs = s.inputs := by cases a <;> rfl

@[simp] theorem Core.seqr_setSeqr (c : Core) (q : SeqId) (x : Seqr) : (c.setSeqr q x).seqr q = x := by cases q <;> rfl

theorem Core.seqr_setSeqr_other (c : Core) {q r : SeqId} (x : Seqr) (h : r ≠ q) : (c.setSeqr q x).seqr r = c.seqr r := by
  cases q <;> cases r <;> first | rfl | exact absurd rfl h

/-- The sequencer that was written is read back. -/
@[simp] theorem State.seqr_setSeqr (s : State) (a : Actor) (q : Seqr) : (s.setSeqr a q).seqr a = q := by
  cases a <;> simp [State.setSeqr, State.seqr]

@[simp] theorem State.part_setSeqr (s : State) (a : Actor) (q : Seqr) (p : Nat) : (s.setSeqr a q).part p = s.part p := by
  cases a <;> rfl
@[simp] theorem State.task_setSeqr (s : State) (a : Actor) (q : Seqr) (t : Nat) : (s.setSeqr a q).task t = s.task t := by
  cases a <;> rfl

/-! ### State.addEff -/

@[simp] theorem State.addEff_wcc (s : State) (a : Actor) (due : Nat) (o : Origin) (e : Eff) : (s.addEff a due o e).wcc = s.wcc := by cases a <;> rfl
@[simp] theorem State.addEff_readDone (s : State) (a : Actor) (due : Nat) (o : Origin) (e : Eff) : (s.addEff a due o e).readDone = s.readDone := by cases a <;> rfl
@[simp] theorem State.addEff_worked (s : State) (a : Actor) (due : Nat) (o : Origin) (e : Eff) : (s.addEff a due o e).worked = s.worked := by cases a <;> rfl
@[simp] theorem State.addEff_actor (s : State) (a : Actor) (due : Nat) (o : Origin) (e : Eff) : (s.addEff a due o e).actor = s.actor := by cases a <;> rfl
@[simp] theorem State.addEff_unit (s : State) (a : Actor) (due : Nat) (o : Origin) (e : Eff) : (s.addEff a due o e).unit = s.unit := by cases a <;> rfl
@[simp] theorem State.addEff_sub (s : State) (a : Actor) (due : Nat) (o : Origin) (e : Eff) : (s.addEff a due o e).sub = s.sub := by cases a <;> rfl
@[simp] theorem State.addEff_parts (s : State) (a : Actor) (due : Nat) (o : Origin) (e : Eff) : (s.addEff a due o e).parts = s.parts := by cases a <;> rfl
@[simp] theorem State.addEff_tasks (s : State) (a : Actor) (due : Nat) (o : Origin) (e : Eff) : (s.addEff a due o e).tasks = s.tasks := by cases a <;> rfl
@[simp] theorem State.addEff_taskNo (s : State) (a : Actor) (due : Nat) (o : Origin) (e : Eff) : (s.addEff a due o e).taskNo = s.taskNo := by cases a <;> rfl
@[simp] theorem State.addEff_dcs (s : State) (a : Actor) (due : Nat) (o : Origin) (e : Eff) : (s.addEff a due o e).dcs = s.dcs := by cases a <;> rfl
@[simp] theorem State.addEff_ports (s : State) (a : Actor) (due : Nat) (o : Origin) (e : Eff) : (s.addEff a due o e).ports = s.ports := by cases a <;> rfl
@[simp] theorem State.addEff_sets (s : State) (a : Actor) (due : Nat) (o : Origin) (e : Eff) : (s.addEff a due o e).sets = s.sets := by cases a <;> rfl
@[simp] theorem State.addEff_mgmt (s : State) (a : Actor) (due : Nat) (o : Origin) (e : Eff) : (s.addEff a due o e).mgmt = s.mgmt := by cases a <;> rfl
@[simp] theorem State.addEff_mgmtMem (s : State) (a : Actor) (due : Nat) (o : Origin) (e : Eff) : (s.addEff a due o e).mgmtMem = s.mgmtMem := by cases a <;> rfl
@[simp] theorem State.addEff_bar0 (s : State) (a : Actor) (due : Nat) (o : Origin) (e : Eff) : (s.addEff a due o e).bar0 = s.bar0 := by cases a <;> rfl
@[simp] theorem State.addEff_view0 (s : State) (a : Actor) (due : Nat) (o : Origin) (e : Eff) : (s.addEff a due o e).view0 = s.view0 := by cases a <;> rfl
@[simp] theorem State.addEff_view1 (s : State) (a : Actor) (due : Nat) (o : Origin) (e : Eff) : (s.addEff a due o e).view1 = s.view1 := by cases a <;> rfl
@[simp] theorem State.addEff_tsEcc (s : State) (a : Actor) (due : Nat) (o : Origin) (e : Eff) : (s.addEff a due o e).tsEcc = s.tsEcc := by cases a <;> rfl
@[simp] theorem State.addEff_wEcc (s : State) (a : Actor) (due : Nat) (o : Origin) (e : Eff) : (s.addEff a due o e).wEcc = s.wEcc := by cases a <;> rfl
@[simp] theorem State.addEff_mismatch (s : State) (a : Actor) (due : Nat) (o : Origin) (e : Eff) : (s.addEff a due o e).mismatch = s.mismatch := by cases a <;> rfl
@[simp] theorem State.addEff_ctlEcc (s : State) (a : Actor) (due : Nat) (o : Origin) (e : Eff) : (s.addEff a due o e).ctlEcc = s.ctlEcc := by cases a <;> rfl
@[simp] theorem State.addEff_advisory (s : State) (a : Actor) (due : Nat) (o : Origin) (e : Eff) : (s.addEff a due o e).advisory = s.advisory := by cases a <;> rfl
@[simp] theorem State.addEff_reqs (s : State) (a : Actor) (due : Nat) (o : Origin) (e : Eff) : (s.addEff a due o e).reqs = s.reqs := by cases a <;> rfl
@[simp] theorem State.addEff_ereqs (s : State) (a : Actor) (due : Nat) (o : Origin) (e : Eff) : (s.addEff a due o e).ereqs = s.ereqs := by cases a <;> rfl
@[simp] theorem State.addEff_reserved (s : State) (a : Actor) (due : Nat) (o : Origin) (e : Eff) : (s.addEff a due o e).reserved = s.reserved := by cases a <;> rfl
@[simp] theorem State.addEff_banksUsed (s : State) (a : Actor) (due : Nat) (o : Origin) (e : Eff) : (s.addEff a due o e).banksUsed = s.banksUsed := by cases a <;> rfl
@[simp] theorem State.addEff_vwrites (s : State) (a : Actor) (due : Nat) (o : Origin) (e : Eff) : (s.addEff a due o e).vwrites = s.vwrites := by cases a <;> rfl
@[simp] theorem State.addEff_applied (s : State) (a : Actor) (due : Nat) (o : Origin) (e : Eff) : (s.addEff a due o e).applied = s.applied := by cases a <;> rfl
@[simp] theorem State.addEff_sentNo (s : State) (a : Actor) (due : Nat) (o : Origin) (e : Eff) : (s.addEff a due o e).sentNo = s.sentNo := by cases a <;> rfl
@[simp] theorem State.addEff_know (s : State) (a : Actor) (due : Nat) (o : Origin) (e : Eff) : (s.addEff a due o e).know = s.know := by cases a <;> rfl
@[simp] theorem State.addEff_fresh (s : State) (a : Actor) (due : Nat) (o : Origin) (e : Eff) : (s.addEff a due o e).fresh = s.fresh := by cases a <;> rfl
@[simp] theorem State.addEff_cycleNo (s : State) (a : Actor) (due : Nat) (o : Origin) (e : Eff) : (s.addEff a due o e).cycleNo = s.cycleNo := by cases a <;> rfl
@[simp] theorem State.addEff_race (s : State) (a : Actor) (due : Nat) (o : Origin) (e : Eff) : (s.addEff a due o e).race = s.race := by cases a <;> rfl
@[simp] theorem State.addEff_pubs (s : State) (a : Actor) (due : Nat) (o : Origin) (e : Eff) : (s.addEff a due o e).pubs = s.pubs := by cases a <;> rfl
@[simp] theorem State.addEff_tileW (s : State) (a : Actor) (due : Nat) (o : Origin) (e : Eff) : (s.addEff a due o e).tileW = s.tileW := by cases a <;> rfl
@[simp] theorem State.addEff_freeSeen (s : State) (a : Actor) (due : Nat) (o : Origin) (e : Eff) : (s.addEff a due o e).freeSeen = s.freeSeen := by cases a <;> rfl
@[simp] theorem State.addEff_tb (s : State) (a : Actor) (due : Nat) (o : Origin) (e : Eff) : (s.addEff a due o e).tb = s.tb := by cases a <;> rfl
@[simp] theorem State.addEff_tbAdd (s : State) (a : Actor) (due : Nat) (o : Origin) (e : Eff) : (s.addEff a due o e).tbAdd = s.tbAdd := by cases a <;> rfl
@[simp] theorem State.addEff_host (s : State) (a : Actor) (due : Nat) (o : Origin) (e : Eff) : (s.addEff a due o e).host = s.host := by cases a <;> rfl
@[simp] theorem State.addEff_peer (s : State) (a : Actor) (due : Nat) (o : Origin) (e : Eff) : (s.addEff a due o e).peer = s.peer := by cases a <;> rfl
@[simp] theorem State.addEff_outst (s : State) (a : Actor) (due : Nat) (o : Origin) (e : Eff) : (s.addEff a due o e).outst = s.outst := by cases a <;> rfl
@[simp] theorem State.addEff_walks (s : State) (a : Actor) (due : Nat) (o : Origin) (e : Eff) : (s.addEff a due o e).walks = s.walks := by cases a <;> rfl
@[simp] theorem State.addEff_bar2 (s : State) (a : Actor) (due : Nat) (o : Origin) (e : Eff) : (s.addEff a due o e).bar2 = s.bar2 := by cases a <;> rfl
@[simp] theorem State.addEff_hostUp (s : State) (a : Actor) (due : Nat) (o : Origin) (e : Eff) : (s.addEff a due o e).hostUp = s.hostUp := by cases a <;> rfl
@[simp] theorem State.addEff_peerUp (s : State) (a : Actor) (due : Nat) (o : Origin) (e : Eff) : (s.addEff a due o e).peerUp = s.peerUp := by cases a <;> rfl
@[simp] theorem State.addEff_linkRetry (s : State) (a : Actor) (due : Nat) (o : Origin) (e : Eff) : (s.addEff a due o e).linkRetry = s.linkRetry := by cases a <;> rfl
@[simp] theorem State.addEff_linkTrain (s : State) (a : Actor) (due : Nat) (o : Origin) (e : Eff) : (s.addEff a due o e).linkTrain = s.linkTrain := by cases a <;> rfl
@[simp] theorem State.addEff_linkGone (s : State) (a : Actor) (due : Nat) (o : Origin) (e : Eff) : (s.addEff a due o e).linkGone = s.linkGone := by cases a <;> rfl
@[simp] theorem State.addEff_csPend (s : State) (a : Actor) (due : Nat) (o : Origin) (e : Eff) : (s.addEff a due o e).csPend = s.csPend := by cases a <;> rfl
@[simp] theorem State.addEff_notified (s : State) (a : Actor) (due : Nat) (o : Origin) (e : Eff) : (s.addEff a due o e).notified = s.notified := by cases a <;> rfl
@[simp] theorem State.addEff_cdaWait (s : State) (a : Actor) (due : Nat) (o : Origin) (e : Eff) : (s.addEff a due o e).cdaWait = s.cdaWait := by cases a <;> rfl
@[simp] theorem State.addEff_bootAt (s : State) (a : Actor) (due : Nat) (o : Origin) (e : Eff) : (s.addEff a due o e).bootAt = s.bootAt := by cases a <;> rfl
@[simp] theorem State.addEff_bootPh (s : State) (a : Actor) (due : Nat) (o : Origin) (e : Eff) : (s.addEff a due o e).bootPh = s.bootPh := by cases a <;> rfl
@[simp] theorem State.addEff_imgReport (s : State) (a : Actor) (due : Nat) (o : Origin) (e : Eff) : (s.addEff a due o e).imgReport = s.imgReport := by cases a <;> rfl
@[simp] theorem State.addEff_pinNow (s : State) (a : Actor) (due : Nat) (o : Origin) (e : Eff) : (s.addEff a due o e).pinNow = s.pinNow := by cases a <;> rfl
@[simp] theorem State.addEff_spi (s : State) (a : Actor) (due : Nat) (o : Origin) (e : Eff) : (s.addEff a due o e).spi = s.spi := by cases a <;> rfl
@[simp] theorem State.addEff_runMrs (s : State) (a : Actor) (due : Nat) (o : Origin) (e : Eff) : (s.addEff a due o e).runMrs = s.runMrs := by cases a <;> rfl
@[simp] theorem State.addEff_warm (s : State) (a : Actor) (due : Nat) (o : Origin) (e : Eff) : (s.addEff a due o e).warm = s.warm := by cases a <;> rfl
@[simp] theorem State.addEff_seqReset (s : State) (a : Actor) (due : Nat) (o : Origin) (e : Eff) : (s.addEff a due o e).seqReset = s.seqReset := by cases a <;> rfl
@[simp] theorem State.addEff_inputs (s : State) (a : Actor) (due : Nat) (o : Origin) (e : Eff) : (s.addEff a due o e).inputs = s.inputs := by cases a <;> rfl

@[simp] theorem State.addEff_effNo (s : State) (a : Actor) (due : Nat) (o : Origin) (e : Eff) :
    (s.addEff a due o e).effNo = s.effNo + 1 := by cases a <;> rfl

/-- An effect waits behind those of its unit that came before it. -/
theorem State.pendOf_addEff (s : State) (a : Actor) (due : Nat) (o : Origin) (e : Eff) (h : ∀ x, a ≠ .dcs x) :
    (s.addEff a due o e).pendOf a = s.pendOf a ++ [⟨due, s.effNo, o, e, []⟩] := by
  cases a with
  | core g q => simp [State.addEff, State.pendOf, State.core, State.setCore]
  | lbp n => simp [State.addEff, State.pendOf, State.lbp, State.setLbp]
  | dcs x => exact absurd rfl (h x)
  | mgmt => rfl

/-- No effect added changes a sequencer. -/
@[simp] theorem State.seqr_addEff (s : State) (a b : Actor) (due : Nat) (o : Origin) (e : Eff) :
    (s.addEff a due o e).seqr b = s.seqr b := by
  cases a with
  | core g q =>
    cases b with
    | core h r =>
      by_cases e : h = g
      · subst e; cases r <;> simp [State.addEff, State.seqr, State.core, State.setCore, Core.seqr]
      · simp [State.addEff, State.seqr, State.core, State.setCore, sget_sset_other, e]
    | _ => rfl
  | lbp n =>
    cases b with
    | lbp m =>
      by_cases e : m = n
      · subst e; simp [State.addEff, State.seqr, State.lbp, State.setLbp]
      · simp [State.addEff, State.seqr, State.lbp, State.setLbp, sget_sset_other, e]
    | _ => rfl
  | dcs x => cases b <;> rfl
  | mgmt => cases b <;> rfl

end Sys2Proof.Machine
end

