-- ==== Sys2Proof/Laws/Issue.lean ====
section
/-! SUPPORT. What issuing does: an instruction that nothing keeps back answers the state after its own effect; issuing
always answers a next state where the sequencer may issue; the waits of the nibble change tokens alone. -/

namespace Sys2Proof.Machine

/-- An instruction that nothing keeps back, whose own effect leaves t and whose target lies in the stream, issues. -/
theorem issue_completes {h : Hdr} {i : Instr} {body : State → Body} {s t : State} {f : Flow} (hu : Unhindered h i s)
    (hb : body (waited h s) = .done t f) (hf : badTarget (s.seqr s.actor) f = none) :
    issue h i body s = .next (issued h i f s t) := by
  obtain ⟨h1, h2, h3⟩ := hu
  unfold waited at hb
  unfold issue issued
  simp only [h1, Bool.not_true, Bool.false_eq_true, if_false, h2]
  by_cases ht : s.timedOf s.actor = true
  · simp only [ht, Bool.not_true, Bool.false_and, Bool.false_eq_true, if_false, perform, hb, hf]
    simp only [ht, if_true] at h3
    simp [h3]
  · simp only [Bool.not_eq_true] at ht
    simp only [ht, Bool.false_eq_true, if_false] at h3
    simp [ht, h3.1, h3.2.1, h3.2.2, perform, hb, hf]

/-- An instruction that nothing keeps back and that its own checks refuse traps. -/
theorem issue_traps {h : Hdr} {i : Instr} {body : State → Body} {s : State} {c : Cause} {d : Nat} {v : DWord}
    (hu : Unhindered h i s) (hb : body (waited h s) = .trap c d v) :
    issue h i body s = .next (refuse s s.actor c d v) := by
  obtain ⟨h1, h2, h3⟩ := hu
  unfold waited at hb
  unfold issue
  simp only [h1, Bool.not_true, Bool.false_eq_true, if_false, h2]
  by_cases ht : s.timedOf s.actor = true
  · simp only [ht, Bool.not_true, Bool.false_and, Bool.false_eq_true, if_false, perform, hb]
  · simp only [Bool.not_eq_true] at ht
    simp only [ht, Bool.false_eq_true, if_false] at h3
    simp [ht, h3.1, h3.2.2, perform, hb]

/-- An instruction that nothing keeps back, and whose target lies outside the stream, traps. -/
theorem issue_bad_target {h : Hdr} {i : Instr} {body : State → Body} {s t : State} {f : Flow} {x : Int} (hu : Unhindered h i s)
    (hb : body (waited h s) = .done t f) (hf : badTarget (s.seqr s.actor) f = some x) :
    issue h i body s = .next (refuse s s.actor .bounds 4 (BitVec.ofInt 64 x)) := by
  obtain ⟨h1, h2, h3⟩ := hu
  unfold waited at hb
  unfold issue
  simp only [h1, Bool.not_true, Bool.false_eq_true, if_false, h2]
  by_cases ht : s.timedOf s.actor = true
  · simp only [ht, Bool.not_true, Bool.false_and, Bool.false_eq_true, if_false, perform, hb, hf]
  · simp only [Bool.not_eq_true] at ht
    simp only [ht, Bool.false_eq_true, if_false] at h3
    simp [ht, h3.1, h3.2.2, perform, hb, hf]

/-- Issuing answers a next state where the sequencer may issue. -/
theorem issue_next (h : Hdr) (i : Instr) (body : State → Body) (s : State) (hc : s.canIssue s.actor = true) :
    ∃ t, issue h i body s = .next t := by
  unfold issue
  simp only [hc, Bool.not_true, Bool.false_eq_true, if_false]
  split
  · exact ⟨_, rfl⟩
  · split <;> exact ⟨_, rfl⟩

/-- An actor that may not issue by itself is not refused. -/
theorem follow_not_refused (h : Hdr) (i : Instr) (body : State → Body) (s : State) (r : Refusal) :
    follow h i body s ≠ .refused r := by
  unfold follow
  split <;> simp

/-- The sequencer of a checking core that follows its leading core issues what that issued. -/
theorem follow_next {h : Hdr} {i : Instr} {body : State → Body} {s : State} {g : Nat} {q : SeqId} {e : Trail}
    (ha : s.actor = .core g q) (hc : checking s (.core g q) = some e) :
    follow h i body s = .next (checkIssue h i body (.core g q) (g - 1) e s) := by
  unfold follow
  rw [ha, hc]

/-- Issuing refuses nothing. -/
theorem issue_not_refused (h : Hdr) (i : Instr) (body : State → Body) (s : State) (r : Refusal) :
    issue h i body s ≠ .refused r := by
  unfold issue
  simp only
  split
  · exact follow_not_refused h i body s r
  · split
    · simp
    · split <;> simp

/-! ### The waits of the nibble -/

/-- The waits change the tokens of the sequencer and what it has acquired, and nothing else. -/
theorem waited_eq (h : Hdr) (s : State) : ∃ p n a c k, waited h s = s ∨
    waited h s = s.setSeqr s.actor { s.seqr s.actor with tokP := p, tokN := n, after := a, clock := c, syncs := k } := by
  unfold waited consume
  simp only
  split
  · exact ⟨_, _, _, _, _, .inr rfl⟩
  · exact ⟨[], [], [], [], 0, .inl rfl⟩

@[simp] theorem waited_wcc (h : Hdr) (s : State) : (waited h s).wcc = s.wcc := by
  unfold waited consume; simp only; split <;> simp
@[simp] theorem waited_worked (h : Hdr) (s : State) : (waited h s).worked = s.worked := by
  unfold waited consume; simp only; split <;> simp
@[simp] theorem waited_actor (h : Hdr) (s : State) : (waited h s).actor = s.actor := by
  unfold waited consume; simp only; split <;> simp
@[simp] theorem waited_unit (h : Hdr) (s : State) : (waited h s).unit = s.unit := by
  unfold waited consume; simp only; split <;> simp
@[simp] theorem waited_sub (h : Hdr) (s : State) : (waited h s).sub = s.sub := by
  unfold waited consume; simp only; split <;> simp
@[simp] theorem waited_parts (h : Hdr) (s : State) : (waited h s).parts = s.parts := by
  unfold waited consume; simp only; split <;> simp
@[simp] theorem waited_tasks (h : Hdr) (s : State) : (waited h s).tasks = s.tasks := by
  unfold waited consume; simp only; split <;> simp
@[simp] theorem waited_taskNo (h : Hdr) (s : State) : (waited h s).taskNo = s.taskNo := by
  unfold waited consume; simp only; split <;> simp
@[simp] theorem waited_ports (h : Hdr) (s : State) : (waited h s).ports = s.ports := by
  unfold waited consume; simp only; split <;> simp
@[simp] theorem waited_sets (h : Hdr) (s : State) : (waited h s).sets = s.sets := by
  unfold waited consume; simp only; split <;> simp
@[simp] theorem waited_mgmtMem (h : Hdr) (s : State) : (waited h s).mgmtMem = s.mgmtMem := by
  unfold waited consume; simp only; split <;> simp
@[simp] theorem waited_mgmtPend (h : Hdr) (s : State) : (waited h s).mgmtPend = s.mgmtPend := by
  unfold waited consume; simp only; split <;> simp
@[simp] theorem waited_bar0 (h : Hdr) (s : State) : (waited h s).bar0 = s.bar0 := by
  unfold waited consume; simp only; split <;> simp
@[simp] theorem waited_view0 (h : Hdr) (s : State) : (waited h s).view0 = s.view0 := by
  unfold waited consume; simp only; split <;> simp
@[simp] theorem waited_view1 (h : Hdr) (s : State) : (waited h s).view1 = s.view1 := by
  unfold waited consume; simp only; split <;> simp
@[simp] theorem waited_tsEcc (h : Hdr) (s : State) : (waited h s).tsEcc = s.tsEcc := by
  unfold waited consume; simp only; split <;> simp
@[simp] theorem waited_wEcc (h : Hdr) (s : State) : (waited h s).wEcc = s.wEcc := by
  unfold waited consume; simp only; split <;> simp
@[simp] theorem waited_reqs (h : Hdr) (s : State) : (waited h s).reqs = s.reqs := by
  unfold waited consume; simp only; split <;> simp
@[simp] theorem waited_banksUsed (h : Hdr) (s : State) : (waited h s).banksUsed = s.banksUsed := by
  unfold waited consume; simp only; split <;> simp
@[simp] theorem waited_vwrites (h : Hdr) (s : State) : (waited h s).vwrites = s.vwrites := by
  unfold waited consume; simp only; split <;> simp
@[simp] theorem waited_applied (h : Hdr) (s : State) : (waited h s).applied = s.applied := by
  unfold waited consume; simp only; split <;> simp
@[simp] theorem waited_sentNo (h : Hdr) (s : State) : (waited h s).sentNo = s.sentNo := by
  unfold waited consume; simp only; split <;> simp
@[simp] theorem waited_know (h : Hdr) (s : State) : (waited h s).know = s.know := by
  unfold waited consume; simp only; split <;> simp
@[simp] theorem waited_fresh (h : Hdr) (s : State) : (waited h s).fresh = s.fresh := by
  unfold waited consume; simp only; split <;> simp
@[simp] theorem waited_effNo (h : Hdr) (s : State) : (waited h s).effNo = s.effNo := by
  unfold waited consume; simp only; split <;> simp
@[simp] theorem waited_race (h : Hdr) (s : State) : (waited h s).race = s.race := by
  unfold waited consume; simp only; split <;> simp
@[simp] theorem waited_pubs (h : Hdr) (s : State) : (waited h s).pubs = s.pubs := by
  unfold waited consume; simp only; split <;> simp
@[simp] theorem waited_tb (h : Hdr) (s : State) : (waited h s).tb = s.tb := by
  unfold waited consume; simp only; split <;> simp
@[simp] theorem waited_tbAdd (h : Hdr) (s : State) : (waited h s).tbAdd = s.tbAdd := by
  unfold waited consume; simp only; split <;> simp
@[simp] theorem waited_host (h : Hdr) (s : State) : (waited h s).host = s.host := by
  unfold waited consume; simp only; split <;> simp
@[simp] theorem waited_peer (h : Hdr) (s : State) : (waited h s).peer = s.peer := by
  unfold waited consume; simp only; split <;> simp
@[simp] theorem waited_outst (h : Hdr) (s : State) : (waited h s).outst = s.outst := by
  unfold waited consume; simp only; split <;> simp
@[simp] theorem waited_walks (h : Hdr) (s : State) : (waited h s).walks = s.walks := by
  unfold waited consume; simp only; split <;> simp
@[simp] theorem waited_bar2 (h : Hdr) (s : State) : (waited h s).bar2 = s.bar2 := by
  unfold waited consume; simp only; split <;> simp
@[simp] theorem waited_hostUp (h : Hdr) (s : State) : (waited h s).hostUp = s.hostUp := by
  unfold waited consume; simp only; split <;> simp
@[simp] theorem waited_peerUp (h : Hdr) (s : State) : (waited h s).peerUp = s.peerUp := by
  unfold waited consume; simp only; split <;> simp
@[simp] theorem waited_linkRetry (h : Hdr) (s : State) : (waited h s).linkRetry = s.linkRetry := by
  unfold waited consume; simp only; split <;> simp
@[simp] theorem waited_linkTrain (h : Hdr) (s : State) : (waited h s).linkTrain = s.linkTrain := by
  unfold waited consume; simp only; split <;> simp
@[simp] theorem waited_linkGone (h : Hdr) (s : State) : (waited h s).linkGone = s.linkGone := by
  unfold waited consume; simp only; split <;> simp
@[simp] theorem waited_csPend (h : Hdr) (s : State) : (waited h s).csPend = s.csPend := by
  unfold waited consume; simp only; split <;> simp
@[simp] theorem waited_notified (h : Hdr) (s : State) : (waited h s).notified = s.notified := by
  unfold waited consume; simp only; split <;> simp
@[simp] theorem waited_cdaWait (h : Hdr) (s : State) : (waited h s).cdaWait = s.cdaWait := by
  unfold waited consume; simp only; split <;> simp
@[simp] theorem waited_bootAt (h : Hdr) (s : State) : (waited h s).bootAt = s.bootAt := by
  unfold waited consume; simp only; split <;> simp
@[simp] theorem waited_spi (h : Hdr) (s : State) : (waited h s).spi = s.spi := by
  unfold waited consume; simp only; split <;> simp
@[simp] theorem waited_runMrs (h : Hdr) (s : State) : (waited h s).runMrs = s.runMrs := by
  unfold waited consume; simp only; split <;> simp
@[simp] theorem waited_warm (h : Hdr) (s : State) : (waited h s).warm = s.warm := by
  unfold waited consume; simp only; split <;> simp
@[simp] theorem waited_seqReset (h : Hdr) (s : State) : (waited h s).seqReset = s.seqReset := by
  unfold waited consume; simp only; split <;> simp
@[simp] theorem waited_inputs (h : Hdr) (s : State) : (waited h s).inputs = s.inputs := by
  unfold waited consume; simp only; split <;> simp

@[simp] theorem waited_readDone (h : Hdr) (s : State) : (waited h s).readDone = s.readDone := by
  unfold waited consume; simp only; split <;> simp
@[simp] theorem waited_ereqs (h : Hdr) (s : State) : (waited h s).ereqs = s.ereqs := by
  unfold waited consume; simp only; split <;> simp
@[simp] theorem waited_reserved (h : Hdr) (s : State) : (waited h s).reserved = s.reserved := by
  unfold waited consume; simp only; split <;> simp
@[simp] theorem waited_cycleNo (h : Hdr) (s : State) : (waited h s).cycleNo = s.cycleNo := by
  unfold waited consume; simp only; split <;> simp
@[simp] theorem waited_tileW (h : Hdr) (s : State) : (waited h s).tileW = s.tileW := by
  unfold waited consume; simp only; split <;> simp
@[simp] theorem waited_freeSeen (h : Hdr) (s : State) : (waited h s).freeSeen = s.freeSeen := by
  unfold waited consume; simp only; split <;> simp
@[simp] theorem waited_bootPh (h : Hdr) (s : State) : (waited h s).bootPh = s.bootPh := by
  unfold waited consume; simp only; split <;> simp
@[simp] theorem waited_imgReport (h : Hdr) (s : State) : (waited h s).imgReport = s.imgReport := by
  unfold waited consume; simp only; split <;> simp
@[simp] theorem waited_pinNow (h : Hdr) (s : State) : (waited h s).pinNow = s.pinNow := by
  unfold waited consume; simp only; split <;> simp

/-- What an instruction reads of its sequencer is not what its waits change. -/
theorem waited_me (h : Hdr) (s : State) : ∃ p n a c k,
    (waited h s).me = { s.me with tokP := p, tokN := n, after := a, clock := c, syncs := k } := by
  obtain ⟨p, n, a, c, k, e | e⟩ := waited_eq h s
  · exact ⟨s.me.tokP, s.me.tokN, s.me.after, s.me.clock, s.me.syncs, by rw [e]⟩
  · exact ⟨p, n, a, c, k, by rw [e]; simp [State.me]⟩

@[simp] theorem waited_rd (h : Hdr) (s : State) (c : Code) : (waited h s).rd c = s.rd c := by
  obtain ⟨p, n, a, c', k, e⟩ := waited_me h s
  simp [State.rd, e, readS]

@[simp] theorem waited_me_pc (h : Hdr) (s : State) : (waited h s).me.pc = s.me.pc := by
  obtain ⟨p, n, a, c', k, e⟩ := waited_me h s
  simp [e]

@[simp] theorem waited_me_spill (h : Hdr) (s : State) : (waited h s).me.spill = s.me.spill := by
  obtain ⟨p, n, a, c', k, e⟩ := waited_me h s
  simp [e]

@[simp] theorem waited_level (h : Hdr) (s : State) (l : B3) : (waited h s).level l = s.level l := by
  obtain ⟨p, n, a, c', k, e⟩ := waited_me h s
  simp [State.level, e]

@[simp] theorem sccOf_setSeqr (s : State) (a : Actor) (q : Seqr) (p : Nat) : (s.setSeqr a q).sccOf p = s.sccOf p := by
  simp [State.sccOf]

@[simp] theorem waited_part (h : Hdr) (s : State) (p : Nat) : (waited h s).part p = s.part p := by
  simp [State.part]

@[simp] theorem waited_sccOf (h : Hdr) (s : State) (p : Nat) : (waited h s).sccOf p = s.sccOf p := by
  simp [State.sccOf]

end Sys2Proof.Machine
end

