-- ==== Sys2Proof/Laws/Exec.lean ====
section
/-! SUPPORT. Every instruction word is executed by one call of `issue`. -/

namespace Sys2Proof.Machine

theorem hdrOf_word0 (h : Hdr) (x : Bool) (op : BitVec 7) (f : BitVec 18) : hdrOf (word0 h x op f) = h := by
  obtain ⟨wp, wn, sp, sn, pad⟩ := h
  simp only [hdrOf, word0, bit1, Hdr.mk.injEq]
  refine ⟨?_, ?_, ?_, ?_, ?_⟩
  all_goals try apply BitVec.eq_of_getLsbD_eq
  all_goals try intro i hi
  all_goals simp only [fld, BitVec.getLsbD_extractLsb', BitVec.getLsbD_append]
  · simp
  · simp
  · simp
  · simp
  · have : i = 0 ∨ i = 1 := by omega
    rcases this with rfl | rfl <;> simp

theorem header_of {i : Instr} {h : Hdr} {x : Bool} {op : BitVec 7} {f : BitVec 18} {l : List W32}
    (e : encode i = word0 h x op f :: l) : header i = h := by
  rw [header, e]; exact hdrOf_word0 h x op f

set_option maxHeartbeats 4000000 in
/-- An instruction word is executed by issuing it with its header and a body of its own. -/
theorem exec_is_issue (i : Instr) (hw : i.isWord = true) : ∃ body, ∀ s, exec i s = issue (header i) i body s := by
  cases i <;> first
    | exact (Bool.false_ne_true hw).elim
    | exact ⟨_, fun s => by rw [header_of (by rfl)]; simp only [exec]; rfl⟩
    | exact ⟨_, fun s => by rw [header_of (by rfl)]; simp only [exec, execLdB, execLdBX, execLdH, execLdHX, execLdW, execLdWX, execLdD, execLdDX, execStB, execStBX, execStH, execStHX, execStW, execStWX, execStD, execStDX, execJal, execLoop, execVld, execVst, execVldx, execVstx, execRdq, execWrq, execLblk, execLbinv, execLbwb, execLbst, execBrmw, execMonwait]⟩
    | exact ⟨_, fun s => by rw [header_of (by rfl)]; simp only [exec, execLdB, execLdBX, execLdH, execLdHX, execLdW, execLdWX, execLdD, execLdDX, execStB, execStBX, execStH, execStHX, execStW, execStWX, execStD, execStDX, execJal, execLoop, execVld, execVst, execVldx, execVstx, execRdq, execWrq, execLblk, execLbinv, execLbwb, execLbst, execBrmw, execMonwait]; rfl⟩

end Sys2Proof.Machine
end

