-- ==== Sys2Proof/Laws/Flags.lean ====
section
/-! SUPPORT. The functions of the scalar unit in the terms of its entries (07: R178, R180, R181). -/

namespace Sys2Proof.Machine

theorem aluMulhu_eq (x y : DWord) : aluMulhu x y = ((x.setWidth 128 * y.setWidth 128) >>> 64).setWidth 64 := by
  apply BitVec.eq_of_toNat_eq
  have hx := x.isLt
  have hy := y.isLt
  have h : x.toNat * y.toNat < 2 ^ 128 := by
    calc x.toNat * y.toNat < 2 ^ 64 * 2 ^ 64 := Nat.mul_lt_mul'' hx hy
      _ = 2 ^ 128 := by decide
  have e1 : x.toNat % 2 ^ 128 = x.toNat := Nat.mod_eq_of_lt (by omega)
  have e2 : y.toNat % 2 ^ 128 = y.toNat := Nat.mod_eq_of_lt (by omega)
  simp only [aluMulhu, BitVec.toNat_ofNat, BitVec.toNat_setWidth, BitVec.toNat_ushiftRight, BitVec.toNat_mul, e1, e2,
    Nat.mod_eq_of_lt h, Nat.shiftRight_eq_div_pow]

theorem aluMulh_eq (x y : DWord) : aluMulh x y = ((x.signExtend 128 * y.signExtend 128) >>> 64).setWidth 64 := by
  have hm : x.signExtend 128 * y.signExtend 128 = BitVec.ofInt 128 (x.toInt * y.toInt) := by
    apply BitVec.eq_of_toInt_eq
    rw [BitVec.toInt_mul, BitVec.toInt_signExtend_of_le (by decide), BitVec.toInt_signExtend_of_le (by decide), BitVec.toInt_ofInt]
  rw [hm]
  apply BitVec.eq_of_toNat_eq
  simp only [aluMulh, BitVec.toNat_setWidth, BitVec.toNat_ushiftRight, BitVec.toNat_ofInt, Nat.shiftRight_eq_div_pow]
  generalize x.toInt * y.toInt = z
  omega

theorem minS64_iff (x : DWord) : x = minS64 ↔ x.toInt = -2 ^ 63 := by
  constructor
  · rintro rfl; decide
  · intro h; apply BitVec.eq_of_toInt_eq; rw [h]; decide

theorem allOnes_iff (y : DWord) : y = BitVec.allOnes 64 ↔ y.toInt = -1 := by
  constructor
  · rintro rfl; decide
  · intro h; apply BitVec.eq_of_toInt_eq; rw [h]; decide

theorem aluDiv_eq (x y : DWord) : aluDiv x y = if y = 0 then BitVec.allOnes 64
    else if x.toInt = -2 ^ 63 ∧ y.toInt = -1 then x else BitVec.ofInt 64 (x.toInt.tdiv y.toInt) := by
  simp only [aluDiv, minS64_iff, allOnes_iff]

theorem aluDivu_eq (x y : DWord) : aluDivu x y = if y = 0 then BitVec.allOnes 64 else x / y := by
  unfold aluDivu
  split
  · rfl
  · apply BitVec.eq_of_toNat_eq
    have : x.toNat / y.toNat < 2 ^ 64 := Nat.lt_of_le_of_lt (Nat.div_le_self _ _) x.isLt
    rw [BitVec.toNat_ofNat, Nat.mod_eq_of_lt this]
    rfl

theorem aluRem_eq (x y : DWord) : aluRem x y = if y = 0 then x
    else if x.toInt = -2 ^ 63 ∧ y.toInt = -1 then 0 else BitVec.ofInt 64 (x.toInt.tmod y.toInt) := by
  simp only [aluRem, minS64_iff, allOnes_iff]
  have h : x.toInt - y.toInt * x.toInt.tdiv y.toInt = x.toInt.tmod y.toInt := by
    have := Int.mul_tdiv_add_tmod x.toInt y.toInt; omega
  rw [h]

theorem aluRemu_eq (x y : DWord) : aluRemu x y = if y = 0 then x else x % y := by
  unfold aluRemu
  split
  · rfl
  · apply BitVec.eq_of_toNat_eq
    have : x.toNat % y.toNat < 2 ^ 64 := Nat.lt_of_le_of_lt (Nat.mod_le _ _) x.isLt
    rw [BitVec.toNat_ofNat, Nat.mod_eq_of_lt this]
    rfl

theorem aluMin_eq (x y : DWord) : aluMin x y = if x.toInt ≤ y.toInt then x else y := by
  unfold aluMin ltS
  by_cases h : x.toInt ≤ y.toInt
  · have : ¬ y.toInt < x.toInt := by omega
    simp [h, this]
  · have : y.toInt < x.toInt := by omega
    simp [h, this]

theorem aluMax_eq (x y : DWord) : aluMax x y = if y.toInt ≤ x.toInt then x else y := by
  unfold aluMax ltS
  by_cases h : y.toInt ≤ x.toInt
  · have : ¬ x.toInt < y.toInt := by omega
    simp [h, this]
  · have : x.toInt < y.toInt := by omega
    simp [h, this]

theorem aluMinu_eq (x y : DWord) : aluMinu x y = if x ≤ y then x else y := by
  unfold aluMinu ltU
  by_cases h : x ≤ y
  · have : ¬ y.toNat < x.toNat := by have := BitVec.le_def.mp h; omega
    simp [h, this]
  · have : y.toNat < x.toNat := by have := mt BitVec.le_def.mpr h; omega
    simp [h, this]

theorem aluMaxu_eq (x y : DWord) : aluMaxu x y = if y ≤ x then x else y := by
  unfold aluMaxu ltU
  by_cases h : y ≤ x
  · have : ¬ x.toNat < y.toNat := by have := BitVec.le_def.mp h; omega
    simp [h, this]
  · have : x.toNat < y.toNat := by have := mt BitVec.le_def.mpr h; omega
    simp [h, this]

/-! ### Counting bits -/

theorem aluCtz_eq (x : DWord) : aluCtz x = BitVec.ofNat 64 (((List.range 64).find? fun k => x.getLsbD k).getD 64) := by
  have h : ∀ n k, ((List.range' k n).find? fun j => x.getLsbD j).getD (k + n) = k + ctzNat x.toNat n k := by
    intro n
    induction n with
    | zero => intro k; simp [ctzNat]
    | succ n ih =>
      intro k
      rw [List.range'_succ, List.find?_cons, ctzNat]
      by_cases hb : x.toNat.testBit k
      · simp [BitVec.getLsbD, hb]
      · have := ih (k + 1)
        simp only [BitVec.getLsbD, hb, Bool.false_eq_true, if_false] at this ⊢
        rw [show k + (n + 1) = k + 1 + n by omega, this]; omega
  have := h 64 0
  rw [List.range_eq_range', aluCtz]
  simp only [Nat.zero_add] at this
  rw [this]

theorem aluClz_eq (x : DWord) : aluClz x = BitVec.ofNat 64 (((List.range 64).find? fun k => x.getLsbD (63 - k)).getD 64) := by
  have h : ∀ n k, k + n = 64 → ((List.range' k n).find? fun j => x.getLsbD (63 - j)).getD (k + n) = k + clzNat x.toNat n := by
    intro n
    induction n with
    | zero => intro k _; simp [clzNat]
    | succ n ih =>
      intro k hk
      rw [List.range'_succ, List.find?_cons, clzNat]
      have e : 63 - k = n := by omega
      by_cases hb : x.toNat.testBit n
      · simp [BitVec.getLsbD, hb, e]
      · have := ih (k + 1) (by omega)
        simp only [BitVec.getLsbD, hb, e, Bool.false_eq_true, if_false] at this ⊢
        rw [show k + (n + 1) = k + 1 + n by omega, this]; omega
  have := h 64 0 rfl
  rw [List.range_eq_range', aluClz]
  simp only [Nat.zero_add] at this
  rw [this]

theorem aluPopc_eq (x : DWord) : aluPopc x = BitVec.ofNat 64 ((List.range 64).countP fun k => x.getLsbD k) := by
  have h : ∀ n, popNat x.toNat n = (List.range n).countP fun k => x.getLsbD k := by
    intro n
    induction n with
    | zero => rfl
    | succ n ih =>
      rw [List.range_succ, List.countP_append, popNat, ih, Nat.add_comm]
      congr 1
      by_cases hb : x.toNat.testBit n <;> simp [BitVec.getLsbD, hb]
  rw [aluPopc, h]

theorem aluSel_eq (x y z : DWord) : aluSel x y z = if z = 0 then y else x := by
  unfold aluSel
  by_cases h : z = 0 <;> simp [h]

theorem aluLih_eq (x : DWord) (hi lo : B12) : aluLih x hi lo = (hi ++ lo) ++ x.extractLsb' 0 40 := by
  simp only [aluLih]
  congr 1

theorem ltS_eq (x y : DWord) : ltS x y = x.slt y := rfl
theorem ltU_eq (x y : DWord) : ltU x y = x.ult y := rfl

end Sys2Proof.Machine
end

