-- ==== Sys2Proof/Laws/Frames.lean ====
section
/-! SUPPORT. What registers, fault records, contact-sheet events and traps leave as it is. -/

namespace Sys2Proof.Machine

/-- What every step of a fold leaves, the fold leaves. -/
theorem foldl_keeps {α β γ : Type} (P : α → γ) (f : α → β → α) (l : List β) (h : ∀ s e, P (f s e) = P s) (s : α) :
    P (l.foldl f s) = P s := by
  induction l generalizing s with
  | nil => rfl
  | cons e l ih => rw [List.foldl_cons, ih, h]

/-! ### Registers -/

/-- A state without BAR0. -/
def noBar0 (s : State) : State := { s with bar0 := [] }

@[simp] theorem noBar0_bar0Write (s : State) (o : Nat) (bs : Bytes) : noBar0 (bar0Write s o bs) = noBar0 s := by
  induction bs generalizing s o with
  | nil => rfl
  | cons b bs ih => simp only [bar0Write, ih]; rfl

@[simp] theorem noBar0_setReg (s : State) (o v : Nat) : noBar0 (s.setReg o v) = noBar0 s := noBar0_bar0Write s o _
@[simp] theorem noBar0_setField (s : State) (o hi lo v : Nat) : noBar0 (s.setField o hi lo v) = noBar0 s := noBar0_setReg s o _

/-- A state without BAR0, and without what a record or an event changes besides. -/
def noSheet (s : State) : State := { s with bar0 := [], csPend := [], seqReset := [], pinNow := 0 }

theorem noSheet_of_noBar0 {s t : State} (h : noBar0 s = noBar0 t) : noSheet s = noSheet t := by
  have := congrArg noSheet h
  exact this

@[simp] theorem noSheet_bar0Write (s : State) (o : Nat) (bs : Bytes) : noSheet (bar0Write s o bs) = noSheet s :=
  noSheet_of_noBar0 (by simp)
@[simp] theorem noSheet_setReg (s : State) (o v : Nat) : noSheet (s.setReg o v) = noSheet s := noSheet_of_noBar0 (by simp)
@[simp] theorem noSheet_setField (s : State) (o hi lo v : Nat) : noSheet (s.setField o hi lo v) = noSheet s :=
  noSheet_of_noBar0 (by simp)

theorem noSheet_to_cdaWait {s t : State} (h : noSheet s = noSheet t) : s.cdaWait = t.cdaWait := by have := congrArg State.cdaWait h; exact this
theorem noSheet_to_cores {s t : State} (h : noSheet s = noSheet t) : s.cores = t.cores := by have := congrArg State.cores h; exact this
theorem noSheet_to_dcs {s t : State} (h : noSheet s = noSheet t) : s.dcs = t.dcs := by have := congrArg State.dcs h; exact this
theorem noSheet_to_effNo {s t : State} (h : noSheet s = noSheet t) : s.effNo = t.effNo := by have := congrArg State.effNo h; exact this
theorem noSheet_to_fresh {s t : State} (h : noSheet s = noSheet t) : s.fresh = t.fresh := by have := congrArg State.fresh h; exact this
theorem noSheet_to_host {s t : State} (h : noSheet s = noSheet t) : s.host = t.host := by have := congrArg State.host h; exact this
theorem noSheet_to_lbps {s t : State} (h : noSheet s = noSheet t) : s.lbps = t.lbps := by have := congrArg State.lbps h; exact this
theorem noSheet_to_linkGone {s t : State} (h : noSheet s = noSheet t) : s.linkGone = t.linkGone := by have := congrArg State.linkGone h; exact this
theorem noSheet_to_linkRetry {s t : State} (h : noSheet s = noSheet t) : s.linkRetry = t.linkRetry := by have := congrArg State.linkRetry h; exact this
theorem noSheet_to_mgmtMem {s t : State} (h : noSheet s = noSheet t) : s.mgmtMem = t.mgmtMem := by have := congrArg State.mgmtMem h; exact this
theorem noSheet_to_outst {s t : State} (h : noSheet s = noSheet t) : s.outst = t.outst := by have := congrArg State.outst h; exact this
theorem noSheet_to_parts {s t : State} (h : noSheet s = noSheet t) : s.parts = t.parts := by have := congrArg State.parts h; exact this
theorem noSheet_to_ports {s t : State} (h : noSheet s = noSheet t) : s.ports = t.ports := by have := congrArg State.ports h; exact this
theorem noSheet_to_sets {s t : State} (h : noSheet s = noSheet t) : s.sets = t.sets := by have := congrArg State.sets h; exact this
theorem noSheet_to_tasks {s t : State} (h : noSheet s = noSheet t) : s.tasks = t.tasks := by have := congrArg State.tasks h; exact this
theorem noSheet_to_view0 {s t : State} (h : noSheet s = noSheet t) : s.view0 = t.view0 := by have := congrArg State.view0 h; exact this
theorem noSheet_to_view1 {s t : State} (h : noSheet s = noSheet t) : s.view1 = t.view1 := by have := congrArg State.view1 h; exact this
theorem noSheet_to_wcc {s t : State} (h : noSheet s = noSheet t) : s.wcc = t.wcc := by have := congrArg State.wcc h; exact this

/-- An event of the contact sheet changes nothing else. -/
@[simp] theorem noSheet_csEvent (s : State) (a b c d e f : Nat) : noSheet (csEvent s a b c d e f) = noSheet s := rfl

@[simp] theorem noSheet_drivePin (s : State) (sev p : Nat) : noSheet (drivePin s sev p) = noSheet s := by
  have e : ∀ (x : State) (l : List Nat), noSheet { x with seqReset := l } = noSheet x := fun _ _ => rfl
  have f : ∀ (x : State) (n : Nat), noSheet { x with pinNow := n } = noSheet x := fun _ _ => rfl
  unfold drivePin
  extract_lets pin
  have hp : ∀ i, noSheet (pin i) = noSheet s := fun i =>
    (f (s.setReg offFpin (fpinSettle (setBits (s.reg offFpin) i i 1))) _).trans (noSheet_setReg s _ _)
  clear_value pin
  split
  · exact hp _
  · split
    · split
      · exact (e (pin (20 + p)) _).trans (hp _)
      · exact hp _
    · rfl

/-- A fault record changes registers, pins and the contact sheet, and nothing else. -/
@[simp] theorem noSheet_record (s : State) (r : Rcd) : noSheet (record s r) = noSheet s := by
  unfold record
  dsimp only
  rw [noSheet_csEvent, noSheet_drivePin]
  split <;> simp

@[simp] theorem noSheet_recordCause (s : State) (g : Nat) (c : Cause) (d v pc sev : Nat) :
    noSheet (recordCause s g c d v pc sev) = noSheet s := by
  unfold recordCause causeRecord
  split <;> simp

@[simp] theorem noSheet_recordLost (s : State) (g : Nat) (x : Core) (same takes : Bool) (c : Cause) (d v pc : Nat) :
    noSheet (recordLost s g x same takes c d v pc) = noSheet s := by
  unfold recordLost causeRecord
  dsimp only
  split
  · simp
  · split <;> simp

section Record
variable (s : State) (r : Rcd) (o hi lo v : Nat) (bs : Bytes)
@[simp] theorem record_parts : (record s r).parts = s.parts := noSheet_to_parts (noSheet_record s r)
@[simp] theorem record_cores : (record s r).cores = s.cores := noSheet_to_cores (noSheet_record s r)
@[simp] theorem record_tasks : (record s r).tasks = s.tasks := noSheet_to_tasks (noSheet_record s r)
@[simp] theorem record_dcs : (record s r).dcs = s.dcs := noSheet_to_dcs (noSheet_record s r)
@[simp] theorem record_lbps : (record s r).lbps = s.lbps := noSheet_to_lbps (noSheet_record s r)
@[simp] theorem record_ports : (record s r).ports = s.ports := noSheet_to_ports (noSheet_record s r)
@[simp] theorem record_sets : (record s r).sets = s.sets := noSheet_to_sets (noSheet_record s r)
@[simp] theorem record_wcc : (record s r).wcc = s.wcc := noSheet_to_wcc (noSheet_record s r)
@[simp] theorem record_view0 : (record s r).view0 = s.view0 := noSheet_to_view0 (noSheet_record s r)
@[simp] theorem record_view1 : (record s r).view1 = s.view1 := noSheet_to_view1 (noSheet_record s r)
@[simp] theorem record_mgmtMem : (record s r).mgmtMem = s.mgmtMem := noSheet_to_mgmtMem (noSheet_record s r)
@[simp] theorem record_effNo : (record s r).effNo = s.effNo := noSheet_to_effNo (noSheet_record s r)
@[simp] theorem record_fresh : (record s r).fresh = s.fresh := noSheet_to_fresh (noSheet_record s r)
@[simp] theorem record_host : (record s r).host = s.host := noSheet_to_host (noSheet_record s r)
@[simp] theorem record_outst : (record s r).outst = s.outst := noSheet_to_outst (noSheet_record s r)
@[simp] theorem record_cdaWait : (record s r).cdaWait = s.cdaWait := noSheet_to_cdaWait (noSheet_record s r)
@[simp] theorem record_linkRetry : (record s r).linkRetry = s.linkRetry := noSheet_to_linkRetry (noSheet_record s r)
@[simp] theorem record_linkGone : (record s r).linkGone = s.linkGone := noSheet_to_linkGone (noSheet_record s r)
@[simp] theorem record_part (p : Nat) : (record s r).part p = s.part p := by simp [State.part]
@[simp] theorem record_core (g : Nat) : (record s r).core g = s.core g := by simp [State.core]
@[simp] theorem record_task (t : Nat) : (record s r).task t = s.task t := by simp [State.task]

@[simp] theorem csEvent_part (a b c d e f p : Nat) : (csEvent s a b c d e f).part p = s.part p := rfl
@[simp] theorem csEvent_core (a b c d e f g : Nat) : (csEvent s a b c d e f).core g = s.core g := rfl
@[simp] theorem csEvent_parts (a b c d e f : Nat) : (csEvent s a b c d e f).parts = s.parts := rfl
@[simp] theorem csEvent_cores (a b c d e f : Nat) : (csEvent s a b c d e f).cores = s.cores := rfl
@[simp] theorem csEvent_wcc (a b c d e f : Nat) : (csEvent s a b c d e f).wcc = s.wcc := rfl

@[simp] theorem setReg_parts : (s.setReg o v).parts = s.parts := noSheet_to_parts (noSheet_setReg s o v)
@[simp] theorem setReg_cores : (s.setReg o v).cores = s.cores := noSheet_to_cores (noSheet_setReg s o v)
@[simp] theorem setReg_wcc : (s.setReg o v).wcc = s.wcc := noSheet_to_wcc (noSheet_setReg s o v)
@[simp] theorem setField_parts : (s.setField o hi lo v).parts = s.parts := noSheet_to_parts (noSheet_setField s o hi lo v)
@[simp] theorem setField_cores : (s.setField o hi lo v).cores = s.cores := noSheet_to_cores (noSheet_setField s o hi lo v)
@[simp] theorem setField_wcc : (s.setField o hi lo v).wcc = s.wcc := noSheet_to_wcc (noSheet_setField s o hi lo v)
@[simp] theorem recordCause_parts (g : Nat) (c : Cause) (d w pc sev : Nat) : (recordCause s g c d w pc sev).parts = s.parts :=
  noSheet_to_parts (noSheet_recordCause s g c d w pc sev)
@[simp] theorem recordLost_parts (g : Nat) (x : Core) (same takes : Bool) (c : Cause) (d w pc : Nat) :
    (recordLost s g x same takes c d w pc).parts = s.parts := noSheet_to_parts (noSheet_recordLost s g x same takes c d w pc)
end Record

/-! ### Traps -/

@[simp] theorem startBreak_parts (s : State) (g c : Nat) : (startBreak s g c).parts = s.parts := by
  unfold startBreak
  split
  · rfl
  · dsimp only; split <;> rfl

@[simp] theorem askAction_parts (s : State) (g a : Nat) : (askAction s g a).parts = s.parts := by
  unfold askAction
  split <;> rfl

/-- A trap changes no partition. -/
@[simp] theorem takeTrap_parts (s : State) (g c : Nat) (k : Cause) (d : Nat) (v : DWord) (q : SeqId) (pc : Nat) (b : Bool) :
    (takeTrap s g c k d v q pc b).parts = s.parts := by
  unfold takeTrap
  dsimp only
  split
  · split <;> simp
  · split
    · simp
    · split <;> simp

@[simp] theorem stopMember_parts (s : State) (o : Nat) (c : Nat × Nat × DWord) (l a : Nat) (r : Nat → Bool) (h : Nat) :
    (stopMember s o c l a r h).parts = s.parts := by
  unfold stopMember
  dsimp only
  split
  · rfl
  · split <;> rfl

/-- The break of a domain changes no partition. -/
@[simp] theorem breakMembers_parts (s : State) (t : Nat) (c : Nat × Nat × DWord) (l a : Nat) (r : Nat → Bool) :
    (breakMembers s t c l a r).parts = s.parts := by
  unfold breakMembers
  extract_lets k s1 s2
  show s2.parts = s.parts
  have h1 : s1.parts = s.parts := by
    refine foldl_keeps State.parts _ _ ?_ s
    intro s e
    exact stopMember_parts ..
  have h2 : s2.parts = s1.parts := by
    refine foldl_keeps State.parts _ _ ?_ s1
    intro s e
    rfl
  exact h2.trans h1

/-- A unit that stops changes no partition. -/
@[simp] theorem stopUnit_parts (s : State) (a : Actor) (c : Cause) (d : Nat) (v : DWord) (pc : Nat) :
    (stopUnit s a c d v pc).parts = s.parts := by
  cases a with
  | core g q => rfl
  | lbp n => simp [stopUnit]
  | mgmt => simp [stopUnit]
  | dcs h =>
    simp only [stopUnit]
    repeat' split
    all_goals simp

@[simp] theorem periodCheck_parts (s : State) (p : Nat) : (periodCheck s p).parts = s.parts := by
  unfold periodCheck
  apply foldl_keeps State.parts
  intro s e
  dsimp only
  split <;> simp

end Sys2Proof.Machine
end

