-- ==== Sys2Proof/Laws/Keeps.lean ====
section
/-! SUPPORT. What issuing an instruction leaves as it is: the frame `Keeps` of the operations that issue is made of. -/

namespace Sys2Proof.Machine

theorem Keeps.refl (s : State) : Keeps s s :=
  ⟨fun _ _ => rfl, fun _ _ => rfl, fun _ => rfl, fun _ _ => rfl, fun _ => rfl, fun _ => rfl, fun _ => rfl, fun _ _ _ => rfl, rfl⟩

theorem Keeps.actor {s t : State} (h : Keeps s t) : t.actor = s.actor := by
  have := congrArg State.actor h.rest; exact this

theorem Keeps.trans {s t u : State} (h : Keeps s t) (k : Keeps t u) : Keeps s u where
  regs a c := (k.regs a c).trans (h.regs a c)
  csrs a n := (k.csrs a n).trans (h.csrs a n)
  spill a := (k.spill a).trans (h.spill a)
  others a e := (k.others a (by rw [h.actor]; exact e)).trans (h.others a e)
  cores g := (k.cores g).trans (h.cores g)
  lbps n := (k.lbps n).trans (h.lbps n)
  dcs n := (k.dcs n).trans (h.dcs n)
  bytes d a n := (k.bytes d a n).trans (h.bytes d a n)
  rest := k.rest.trans h.rest

theorem readView_of_views {s t : State} (h0 : t.view0 = s.view0) (h1 : t.view1 = s.view1) (d a n : Nat) :
    t.readView d a n = s.readView d a n := by
  simp [State.readView, State.view, h0, h1]

theorem engines_setSeqr (x : Core) (q : SeqId) (y : Seqr) : engines (x.setSeqr q y) = engines x := by
  cases q <;> rfl

theorem State.seqr_setSeqr_other (s : State) (a b : Actor) (q : Seqr) (h : b ≠ a) : (s.setSeqr a q).seqr b = s.seqr b := by
  cases a with
  | core g x =>
    cases b with
    | core j y =>
      by_cases e : j = g
      · subst e
        have : y ≠ x := fun e => h (by rw [e])
        show ((s.setCore j ((s.core j).setSeqr x q)).core j).seqr y = (s.core j).seqr y
        rw [State.core_setCore]
        cases x <;> cases y <;> first | rfl | exact (this rfl).elim
      · simp [State.setSeqr, State.seqr, State.core, State.setCore, sget_sset_other, e]
    | _ => rfl
  | lbp n =>
    cases b with
    | lbp m =>
      have e : m ≠ n := fun e => h (by rw [e])
      simp [State.setSeqr, State.seqr, State.lbp, State.setLbp, sget_sset_other, e]
    | _ => rfl
  | dcs n =>
    cases b with
    | dcs m =>
      have e : m ≠ n := fun e => h (by rw [e])
      simp [State.setSeqr, State.seqr, State.dcsAt, State.setDcs, sget_sset_other, e]
    | _ => rfl
  | mgmt => cases b <;> first | rfl | exact absurd rfl h

/-- A change of a core outside its sequencers changes no sequencer. -/
theorem State.seqr_setCore_of (s : State) (g : Nat) (x : Core) (a : Actor) (h : ∀ q, x.seqr q = (s.core g).seqr q) :
    (s.setCore g x).seqr a = s.seqr a := by
  cases a with
  | core j q =>
    by_cases e : j = g
    · subst e
      show ((s.setCore j x).core j).seqr q = _
      rw [State.core_setCore]; exact h q
    · simp [State.setCore, State.seqr, State.core, sget_sset_other, e]
  | _ => rfl

/-- A change of a sequencer that leaves its registers, CSRs and spill memory. -/
theorem keeps_setSeqr (s : State) (q : Seqr) (hr : q.regs = (s.seqr s.actor).regs) (hc : q.csr = (s.seqr s.actor).csr)
    (hs : q.spill = (s.seqr s.actor).spill) : Keeps s (s.setSeqr s.actor q) where
  regs a c := by
    by_cases e : a = s.actor
    · subst e; simp [readS, hr]
    · rw [State.seqr_setSeqr_other _ _ _ _ e]
  csrs a n := by
    by_cases e : a = s.actor
    · subst e; simp [getCsr, hc]
    · rw [State.seqr_setSeqr_other _ _ _ _ e]
  spill a := by
    by_cases e : a = s.actor
    · subst e; simp [hs]
    · rw [State.seqr_setSeqr_other _ _ _ _ e]
  others a e := by rw [State.seqr_setSeqr_other _ _ _ _ e]
  cores g := by
    cases h : s.actor with
    | core j x =>
      by_cases e : g = j
      · subst e; simp [State.setSeqr, engines_setSeqr]
      · simp [State.setSeqr, State.core, State.setCore, sget_sset_other, e]
    | _ => rfl
  lbps n := by
    cases h : s.actor with
    | lbp j =>
      by_cases e : n = j
      · subst e; simp [State.setSeqr, State.lbp, State.setLbp]
      · simp [State.setSeqr, State.lbp, State.setLbp, sget_sset_other, e]
    | _ => rfl
  dcs n := by
    cases h : s.actor with
    | dcs j =>
      by_cases e : n = j
      · subst e; simp [State.setSeqr, State.dcsAt, State.setDcs]
      · simp [State.setSeqr, State.dcsAt, State.setDcs, sget_sset_other, e]
    | _ => rfl
  bytes d a n := readView_of_views (by simp) (by simp) d a n
  rest := by cases h : s.actor <;> rfl

theorem keeps_setSeqr_of {s : State} {a : Actor} (q : Seqr) (ha : s.actor = a) (hr : q.regs = (s.seqr a).regs)
    (hc : q.csr = (s.seqr a).csr) (hs : q.spill = (s.seqr a).spill) : Keeps s (s.setSeqr a q) := by
  subst ha; exact keeps_setSeqr s q hr hc hs

theorem keeps_addEff (s : State) (a : Actor) (due : Nat) (o : Origin) (e : Eff) : Keeps s (s.addEff a due o e) where
  regs b c := by simp
  csrs b n := by simp
  spill b := by simp
  others b h := by simp
  cores g := by
    cases a with
    | core j x =>
      by_cases e : g = j
      · subst e
        show engines (((State.setCore _ g _).core g)) = _
        rw [State.core_setCore]; rfl
      · simp [State.addEff, State.core, State.setCore, sget_sset_other, e]
    | _ => rfl
  lbps n := by
    cases a with
    | lbp j =>
      by_cases e : n = j
      · subst e; simp [State.addEff, State.lbp, State.setLbp]
      · simp [State.addEff, State.lbp, State.setLbp, sget_sset_other, e]
    | _ => rfl
  dcs n := by cases a <;> rfl
  bytes d a n := readView_of_views (by simp) (by simp) d a n
  rest := by cases a <;> rfl

theorem sget_map {β : Type} (d : β) (m : SMap β) (f : Nat → β → β) (k : Nat) (h : f k d = d) :
    sget d (m.map fun e => (e.1, f e.1 e.2)) k = f k (sget d m k) := by
  induction m with
  | nil => simp [h]
  | cons e m ih =>
    obtain ⟨j, v⟩ := e
    by_cases hj : j = k
    · subst hj; simp [sget, look]
    · simpa [sget, look, hj] using ih

/-- A core whose sequencers are looked at again. -/
theorem core_unblock (s : State) (g j : Nat) (q : SeqId) :
    (unblock s (.core g q)).core j = if j / 4 = g / 4 then (s.core j).unblock else s.core j := by
  have := sget_map ({} : Core) s.cores (fun k x => if k / 4 = g / 4 then x.unblock else x) j
    (by split <;> rfl)
  have e : (unblock s (.core g q)).cores = s.cores.map fun e => (e.1, if e.1 / 4 = g / 4 then e.2.unblock else e.2) := by
    refine List.map_congr_left fun e _ => ?_
    split <;> rfl
  rw [State.core, e]
  exact this

theorem engines_unblock (x : Core) : engines x.unblock = engines x := rfl

theorem seqr_unblock (x : Core) (q : SeqId) : x.unblock.seqr q = { x.seqr q with blocked := false, turn := .free } := by
  cases q <;> rfl

/-- What keeps the sequencers back is noted anew. -/
theorem seqr_of_unblock (s : State) (a b : Actor) :
    (unblock s a).seqr b = s.seqr b ∨ (unblock s a).seqr b = { s.seqr b with blocked := false, turn := .free } := by
  cases a with
  | core g q =>
    cases b with
    | core j r =>
      show ((unblock s (.core g q)).core j).seqr r = (s.core j).seqr r ∨
        ((unblock s (.core g q)).core j).seqr r = { (s.core j).seqr r with blocked := false, turn := .free }
      rw [core_unblock]
      split
      · right; exact seqr_unblock _ _
      · left; rfl
    | _ => left; rfl
  | _ => left; rfl

theorem keeps_unblock (s : State) (a : Actor) : Keeps s (unblock s a) where
  regs b c := by obtain e | e := seqr_of_unblock s a b <;> rw [e] <;> rfl
  csrs b c := by obtain e | e := seqr_of_unblock s a b <;> rw [e] <;> rfl
  spill b := by obtain e | e := seqr_of_unblock s a b <;> rw [e]
  others b _ := by obtain e | e := seqr_of_unblock s a b <;> rw [e]
  cores j := by
    cases a with
    | core g q => rw [core_unblock]; split <;> rfl
    | _ => rfl
  lbps n := by cases a <;> rfl
  dcs n := by cases a <;> rfl
  bytes d x n := readView_of_views (by cases a <;> rfl) (by cases a <;> rfl) d x n
  rest := by cases a <;> rfl

theorem keeps_block (s : State) : Keeps s (s.block s.actor) := by
  exact keeps_setSeqr s { s.seqr s.actor with blocked := true, turn := .free } rfl rfl rfl

theorem keeps_signal (h : Hdr) (s : State) (o : Origin) (n : Nat) : Keeps s (signal h s.actor o n s) := by
  unfold signal
  split
  · rename_i g q _
    simp only
    split
    · split
      · exact (keeps_addEff _ _ _ _ _).trans (keeps_addEff _ _ _ _ _)
      · exact keeps_addEff _ _ _ _ _
    · split
      · exact keeps_addEff _ _ _ _ _
      · exact Keeps.refl s
  · exact Keeps.refl s

/-- The end of a loop trip changes the levels alone. -/
theorem tripEnd_seqr (pc len : Nat) : ∀ (fuel : Nat) (q : Seqr) (nx : Nat) (st : List (BitVec 5 × BitVec 56)),
    ∃ l, (tripEnd pc len fuel q nx st).2.1 = { q with loops := l } := by
  intro fuel
  induction fuel with
  | zero => intro q nx st; exact ⟨q.loops, rfl⟩
  | succ n ih =>
    intro q nx st
    unfold tripEnd
    split
    · exact ⟨q.loops, rfl⟩
    · rename_i l _
      simp only
      split
      · exact ⟨_, rfl⟩
      · obtain ⟨l', e⟩ := ih { q with loops := sset {} q.loops l { sget {} q.loops l with act := false, trip := 0 } }
          ((sget {} q.loops l).fin + 4) (st ++ (sget {} q.loops l).pairs)
        exact ⟨l', e⟩

theorem keeps_modSeqr (s : State) (a : Actor) (f : Seqr → Seqr) (ha : s.actor = a)
    (hr : ∀ q, (f q).regs = q.regs ∧ (f q).csr = q.csr ∧ (f q).spill = q.spill) : Keeps s (s.modSeqr a f) := by
  subst ha
  exact keeps_setSeqr s _ (hr _).1 (hr _).2.1 (hr _).2.2

theorem keeps_noteBack (s : State) (a : Actor) (o : Origin) (top : Nat) (ha : s.actor = a) : Keeps s (noteBack s a o top) := by
  subst ha
  unfold noteBack
  simp only
  split
  · refine Keeps.trans ?_ (keeps_addEff _ _ _ _ _)
    refine keeps_setSeqr s _ ?_ ?_ ?_ <;> rfl
  · refine keeps_setSeqr s _ ?_ ?_ ?_ <;> rfl

theorem keeps_strides (a : Actor) (c : Nat) (o : Origin) (l : List (BitVec 5 × BitVec 56)) : ∀ s : State,
    Keeps s (l.foldl (fun s p => s.addEff a c o (.regAdd (seqOf a) p.1 (p.2.signExtend 64))) s) := by
  induction l with
  | nil => intro s; exact Keeps.refl s
  | cons p l ih => intro s; exact (keeps_addEff s a c o _).trans (ih _)

/-- What a leading core issues is noted for its checking core, and no sequencer changes. -/
theorem seqr_noteTrail (s : State) (a b : Actor) (i : Instr) : (noteTrail s a i).seqr b = s.seqr b := by
  unfold noteTrail
  split
  · split
    · exact State.seqr_setCore_of s _ _ b fun q => by cases q <;> rfl
    · rfl
  · rfl

theorem keeps_noteTrail (s : State) (a : Actor) (i : Instr) : Keeps s (noteTrail s a i) := by
  unfold noteTrail
  split
  · rename_i g q
    split
    · rw [State.modCore_eq]
      have e (b : Actor) (l : List Trail) : (s.setCore g { s.core g with trail := l }).seqr b = s.seqr b :=
        State.seqr_setCore_of s g _ b fun q => by cases q <;> rfl
      refine ⟨fun b c => by rw [e], fun b c => by rw [e], fun b => by rw [e], fun b _ => by rw [e], fun j => ?_, fun _ => rfl,
        fun _ => rfl, fun d a n => readView_of_views rfl rfl d a n, rfl⟩
      by_cases h : j = g
      · subst h
        rw [State.core_setCore]; rfl
      · rw [State.core_setCore_other _ _ h]
    · exact Keeps.refl s
  · exact Keeps.refl s

theorem tsbOf_noteTrail (s : State) (a b : Actor) (i : Instr) : (noteTrail s a i).tsbOf b = s.tsbOf b := by
  unfold noteTrail
  split
  · rename_i g q
    split
    · cases b with
      | core j r =>
        by_cases h : j = g
        · subst h
          show ((State.setCore s j _).core j).tsb = _
          rw [State.core_setCore]; rfl
        · show ((State.setCore s g _).core j).tsb = _
          rw [State.core_setCore_other _ _ h]; rfl
      | _ => rfl
    · rfl
  · rfl

theorem views_noteTrail (s : State) (a : Actor) (i : Instr) :
    (noteTrail s a i).view0 = s.view0 ∧ (noteTrail s a i).view1 = s.view1 ∧ (noteTrail s a i).actor = s.actor := by
  unfold noteTrail
  split
  · split <;> exact ⟨rfl, rfl, rfl⟩
  · exact ⟨rfl, rfl, rfl⟩

/-- Going on to the next instruction changes the sequencer that issues alone, but for a trap that follows it. -/
theorem keeps_advance (h : Hdr) (i : Instr) (f : Flow) (s : State) (hf : ∀ c, f ≠ .trap c) :
    Keeps s (advance h i s.actor f s) := by
  unfold advance
  split
  · exact Keeps.refl s
  · have k := keeps_noteTrail s s.actor i
    have h1 := seqr_noteTrail s s.actor s.actor i
    exact k.trans (keeps_setSeqr_of _ k.actor (by rw [h1]) (by rw [h1]) (by rw [h1]))
  · extract_lets q c org len here d qual back
    obtain ⟨l, hl⟩ := tripEnd_seqr q.pc len 6 q here []
    generalize tripEnd q.pc len 6 q here [] = r at hl
    obtain ⟨nx, q', st⟩ := r
    simp only at hl
    subst hl
    simp only
    have k0 := keeps_noteTrail s s.actor i
    have h1 := seqr_noteTrail s s.actor s.actor i
    have k1 : Keeps s ((noteTrail s s.actor i).setSeqr s.actor { q with loops := l }) :=
      k0.trans (keeps_setSeqr_of _ k0.actor (by rw [h1]) (by rw [h1]) (by rw [h1]))
    generalize (noteTrail s s.actor i).setSeqr s.actor { q with loops := l } = u at k1
    have k2 : Keeps s (if back = true then noteBack u s.actor org here else u) := by
      split
      · exact k1.trans (keeps_noteBack _ _ _ _ k1.actor)
      · exact k1
    refine Keeps.trans (k2.trans ?_) (keeps_strides _ _ _ _ _)
    exact keeps_modSeqr _ _ _ k2.actor fun _ => ⟨rfl, rfl, rfl⟩

/-- An instruction that issues, and whose own effect keeps the machine, keeps it. -/
theorem keeps_issued (h : Hdr) (i : Instr) (f : Flow) (s t : State) (hf : ∀ c, f ≠ .trap c) (k : Keeps s t) :
    Keeps s (issued h i f s t) := by
  have e := k.actor
  unfold issued
  have k1 : Keeps t (signal h s.actor (s.origin s.actor i) (s.seqr s.actor).lastAcc t) := by rw [← e]; exact keeps_signal h t _ _
  refine Keeps.trans ((k.trans k1).trans ?_) (keeps_unblock _ _)
  have := keeps_advance h i f (signal h s.actor (s.origin s.actor i) (s.seqr s.actor).lastAcc t) hf
  rwa [k1.actor, e] at this

/-- The waits of a nibble keep the machine. -/
theorem keeps_waited (h : Hdr) (s : State) : Keeps s (waited h s) := by
  obtain ⟨p, n, a, c, k, e | e⟩ := waited_eq h s
  · rw [e]; exact Keeps.refl s
  · rw [e]; refine keeps_setSeqr s _ ?_ ?_ ?_ <;> rfl

theorem keeps_result (s : State) (i : Instr) (d : Code) (lat : Nat) (v : DWord) : Keeps s (s.result i d lat v) :=
  keeps_addEff _ _ _ _ _


/-! ### Where the sequencer goes on -/

/-- The place that flow f leads to while no loop level ends there; pc + n where it names none. -/
def flowPlace (pc n : Nat) (f : Flow) : Nat :=
  match f with
  | .branch t | .jump t => t.toNat
  | .goto t => t
  | _ => pc + n

/-- The cycles that flow f adds. -/
def flowIdle (f : Flow) : Nat :=
  match f with
  | .idle n => n
  | _ => 0

/-- What flow f decides about the next instruction. -/
def flowQual (f : Flow) : Option Bool :=
  match f with
  | .qual b => some b
  | _ => none

@[simp] theorem tsbOf_setSeqr (s : State) (a b : Actor) (q : Seqr) : (s.setSeqr a q).tsbOf b = s.tsbOf b := by
  cases b with
  | core g r =>
    cases a with
    | core j x =>
      by_cases e : g = j
      · subst e
        show ((State.setCore s g ((s.core g).setSeqr x q)).core g).tsb = _
        rw [State.core_setCore]; cases x <;> rfl
      · simp [State.setSeqr, State.tsbOf, State.core, State.setCore, sget_sset_other, e]
    | _ => rfl
  | dcs h =>
    cases a with
    | dcs j =>
      by_cases e : h = j
      · subst e; simp [State.setSeqr, State.tsbOf, State.dcsAt, State.setDcs]
      · simp [State.setSeqr, State.tsbOf, State.dcsAt, State.setDcs, sget_sset_other, e]
    | _ => rfl
  | _ => rfl

@[simp] theorem tsbOf_addEff (s : State) (a b : Actor) (due : Nat) (o : Origin) (e : Eff) :
    (s.addEff a due o e).tsbOf b = s.tsbOf b := by
  cases b with
  | core g r =>
    cases a with
    | core j x =>
      by_cases h : g = j
      · subst h
        show ((State.setCore _ g _).core g).tsb = _
        rw [State.core_setCore]; rfl
      · simp [State.addEff, State.tsbOf, State.core, State.setCore, sget_sset_other, h]
    | _ => rfl
  | dcs h => cases a <;> rfl
  | _ => rfl

/-- What a backward branch notes is the sequencer's own. -/
theorem seqr_noteBack (s : State) (a : Actor) (o : Origin) (top : Nat) :
    ∃ sp ld pk, (noteBack s a o top).seqr a = { s.seqr a with spin := sp, loads := ld, park := pk } := by
  unfold noteBack
  simp only
  split
  · simp only [State.seqr_addEff, State.seqr_setSeqr]
    exact ⟨_, _, _, rfl⟩
  · simp only [State.seqr_setSeqr]
    exact ⟨_, _, (s.seqr a).park, rfl⟩

theorem tsbOf_noteBack (s : State) (a b : Actor) (o : Origin) (top : Nat) : (noteBack s a o top).tsbOf b = s.tsbOf b := by
  unfold noteBack
  simp only
  split <;> simp

/-- A bundle of DRAM commands is seen in the stream and in memory alone. -/
theorem bundles_congr {s t : State} {a : Actor} (i : Instr) (n : Nat) (hb : (t.seqr a).base = (s.seqr a).base)
    (hl : (t.seqr a).len = (s.seqr a).len) (hg : (t.seqr a).segs = (s.seqr a).segs) (h0 : t.view0 = s.view0) (h1 : t.view1 = s.view1) :
    bundles t a i n = bundles s a i n := by
  cases a with
  | dcs h =>
    have hb' : (t.dcsAt h).seqr.base = (s.dcsAt h).seqr.base := hb
    have hl' : (t.dcsAt h).seqr.len = (s.dcsAt h).seqr.len := hl
    have hg' : (t.dcsAt h).seqr.segs = (s.dcsAt h).seqr.segs := hg
    simp only [bundles, hb', hl', hg', h0, h1]
  | _ => rfl

theorem view_noteBack (s : State) (a : Actor) (o : Origin) (top : Nat) :
    (noteBack s a o top).view0 = s.view0 ∧ (noteBack s a o top).view1 = s.view1 := by
  unfold noteBack
  simp only
  split <;> simp

theorem seqr_strides (a : Actor) (c : Nat) (o : Origin) (l : List (BitVec 5 × BitVec 56)) (b : Actor) : ∀ s : State,
    (l.foldl (fun s p => s.addEff a c o (.regAdd (seqOf a) p.1 (p.2.signExtend 64))) s).seqr b = s.seqr b := by
  induction l with
  | nil => intro s; rfl
  | cons p l ih => intro s; rw [List.foldl_cons, ih]; simp

/-- The sequencer after its instruction has issued: the next place and cycle, the levels after a trip's end, and what a
backward branch notes. -/
theorem seqr_advance (h : Hdr) (i : Instr) (a : Actor) (f : Flow) (s : State) (h1 : f ≠ .stay) (h2 : f ≠ .halt)
    (h3 : ∀ c, f ≠ .trap c) :
    let q := s.seqr a
    let r := tripEnd q.pc (lenOf i) 6 q (flowPlace q.pc (lenOf i) f) []
    ∃ sp ld pk, (advance h i a f s).seqr a = { q with
      loops := r.2.1.loops, spin := sp, loads := ld, park := pk, pc := r.1, qual := flowQual f
      nextAt := if bundles s a i r.1 then s.now a else nextCycle q (s.tsbOf a) q.pc r.1 (s.now a) h.pad.toNat (flowIdle f) } := by
  intro q r
  obtain ⟨l, hl⟩ := tripEnd_seqr q.pc (lenOf i) 6 q (flowPlace q.pc (lenOf i) f) []
  have hr : r.2.1 = { q with loops := l } := hl
  let u := (noteTrail s a i).setSeqr a r.2.1
  let w (back : Bool) : State := if back = true then noteBack u a (s.origin a i) (flowPlace q.pc (lenOf i) f) else u
  have eu : u.seqr a = { q with loops := r.2.1.loops } := by
    show ((noteTrail s a i).setSeqr a r.2.1).seqr a = _
    rw [State.seqr_setSeqr, hr]
  have e : ∀ back : Bool, ∃ sp ld pk, (w back).seqr a = { q with loops := r.2.1.loops, spin := sp, loads := ld, park := pk } := by
    intro back
    show ∃ sp ld pk, (if back = true then _ else u : State).seqr a = _
    split
    · obtain ⟨sp, ld, pk, e⟩ := seqr_noteBack u a (s.origin a i) (flowPlace q.pc (lenOf i) f)
      exact ⟨sp, ld, pk, by rw [e, eu]⟩
    · exact ⟨q.spin, q.loads, q.park, by rw [eu]⟩
  have et : ∀ back : Bool, (w back).tsbOf a = s.tsbOf a := by
    intro back
    show (if back = true then _ else u : State).tsbOf a = _
    have : u.tsbOf a = s.tsbOf a := (tsbOf_setSeqr _ _ _ _).trans (tsbOf_noteTrail _ _ _ _)
    split <;> simp only [tsbOf_noteBack, this]
  have eb : ∀ back : Bool, bundles (w back) a i r.1 = bundles s a i r.1 := by
    intro back
    obtain ⟨sp, ld, pk, e'⟩ := e back
    have hv : (w back).view0 = s.view0 ∧ (w back).view1 = s.view1 := by
      have h : u.view0 = s.view0 ∧ u.view1 = s.view1 := by
        have := views_noteTrail s a i
        exact ⟨(State.setSeqr_view0 _ _ _).trans this.1, (State.setSeqr_view1 _ _ _).trans this.2.1⟩
      show (if back = true then _ else u : State).view0 = _ ∧ (if back = true then _ else u : State).view1 = _
      have k := view_noteBack u a (s.origin a i) (flowPlace q.pc (lenOf i) f)
      cases back
      · exact h
      · exact ⟨k.1.trans h.1, k.2.trans h.2⟩
    exact bundles_congr i r.1 (by rw [e']) (by rw [e']) (by rw [e']) hv.1 hv.2
  have key : ∀ back : Bool, ∃ sp ld pk, ({ (w back).seqr a with
      pc := r.1, qual := flowQual f
      nextAt := if bundles (w back) a i r.1 then s.now a
        else nextCycle q ((w back).tsbOf a) q.pc r.1 (s.now a) h.pad.toNat (flowIdle f) } : Seqr) = { q with
      loops := r.2.1.loops, spin := sp, loads := ld, park := pk, pc := r.1, qual := flowQual f
      nextAt := if bundles s a i r.1 then s.now a else nextCycle q (s.tsbOf a) q.pc r.1 (s.now a) h.pad.toNat (flowIdle f) } := by
    intro back
    obtain ⟨sp, ld, pk, e'⟩ := e back
    exact ⟨sp, ld, pk, by rw [eb back, et back, e']⟩
  cases f with
  | stay => exact absurd rfl h1
  | halt => exact absurd rfl h2
  | trap c => exact absurd rfl (h3 c)
  | branch t =>
    simp only [advance]
    rw [seqr_strides, State.modSeqr_eq, State.seqr_setSeqr]
    exact key _
  | _ =>
    simp only [advance]
    rw [seqr_strides, State.modSeqr_eq, State.seqr_setSeqr]
    exact key false

/-! ### Signals -/

/-- The signals of the nibble change what is on its way alone. -/
theorem signal_eq (h : Hdr) (a : Actor) (o : Origin) (n : Nat) (s : State) {P : State → Prop} (h0 : P s)
    (ha : ∀ t due e, P t → P (t.addEff a due o e)) : P (signal h a o n s) := by
  unfold signal
  split
  · simp only
    split
    · split
      · exact ha _ _ _ (ha _ _ _ h0)
      · exact ha _ _ _ h0
    · split
      · exact ha _ _ _ h0
      · exact h0
  · exact h0

@[simp] theorem seqr_signal (h : Hdr) (a b : Actor) (o : Origin) (n : Nat) (s : State) : (signal h a o n s).seqr b = s.seqr b :=
  signal_eq h a o n s (P := fun t => t.seqr b = s.seqr b) rfl fun t due e ht => by rw [State.seqr_addEff, ht]

@[simp] theorem tsbOf_signal (h : Hdr) (a b : Actor) (o : Origin) (n : Nat) (s : State) : (signal h a o n s).tsbOf b = s.tsbOf b :=
  signal_eq h a o n s (P := fun t => t.tsbOf b = s.tsbOf b) rfl fun t due e ht => by rw [tsbOf_addEff, ht]

/-- A register reads from the memory-mapped registers alone. -/
theorem fieldOf_congr {s t : State} (hb : t.bar0 = s.bar0) (off hi lo : Nat) : t.fieldOf off hi lo = s.fieldOf off hi lo := by
  simp only [State.fieldOf, State.reg, bar0Read, State.bar0Byte, hb]

theorem partOfCore_congr {s t : State} (hb : t.bar0 = s.bar0) (g : Nat) : t.partOfCore g = s.partOfCore g :=
  fieldOf_congr hb _ _ _

theorem chOwner_congr {s t : State} (hb : t.bar0 = s.bar0) (g : Nat) : t.chOwner g = s.chOwner g := by
  have e : ∀ p, t.locked p = s.locked p := fun p => by simp only [State.locked, fieldOf_congr hb]
  have n : ∀ r k, t.namesBit r k = s.namesBit r k := fun r k => funext fun p => by simp only [State.namesBit, fieldOf_congr hb]
  simp only [State.chOwner, State.ownerBit, e, n]

/-- The cycle as an actor counts it depends on the partitions and their allocation alone. -/
theorem now_congr {s t : State} (a : Actor) (hb : t.bar0 = s.bar0) (hp : t.parts = s.parts) (hw : t.wcc = s.wcc) : t.now a = s.now a := by
  cases a <;> simp only [State.now, State.sccOf, State.part, hp, hw, partOfCore_congr hb, chOwner_congr hb]

@[simp] theorem now_setSeqr (s : State) (a b : Actor) (q : Seqr) : (s.setSeqr a q).now b = s.now b :=
  now_congr b (by simp) (by simp) (by simp)

@[simp] theorem now_addEff (s : State) (a b : Actor) (due : Nat) (o : Origin) (e : Eff) : (s.addEff a due o e).now b = s.now b :=
  now_congr b (by simp) (by simp) (by simp)

@[simp] theorem now_signal (h : Hdr) (a b : Actor) (o : Origin) (n : Nat) (s : State) : (signal h a o n s).now b = s.now b :=
  signal_eq h a o n s (P := fun t => t.now b = s.now b) rfl fun t due e ht => by rw [now_addEff, ht]

theorem bundles_signal (h : Hdr) (a : Actor) (o : Origin) (n : Nat) (s : State) (i : Instr) (m : Nat) :
    bundles (signal h a o n s) a i m = bundles s a i m := by
  obtain ⟨h0, h1⟩ : (signal h a o n s).view0 = s.view0 ∧ (signal h a o n s).view1 = s.view1 :=
    signal_eq h a o n s (P := fun t => t.view0 = s.view0 ∧ t.view1 = s.view1) ⟨rfl, rfl⟩ fun t due e ht => by simpa using ht
  exact bundles_congr i m (by simp) (by simp) (by simp) h0 h1

/-- The sequencer after the issue of an instruction whose own effect leaves t. -/
theorem seqr_issued (h : Hdr) (i : Instr) (f : Flow) (s t : State) (h1 : f ≠ .stay) (h2 : f ≠ .halt) (h3 : ∀ c, f ≠ .trap c) :
    let q := t.seqr s.actor
    let r := tripEnd q.pc (lenOf i) 6 q (flowPlace q.pc (lenOf i) f) []
    ∃ sp ld pk bl tn, (issued h i f s t).seqr s.actor = { q with
      loops := r.2.1.loops, spin := sp, loads := ld, park := pk, blocked := bl, turn := tn, pc := r.1, qual := flowQual f
      nextAt := if bundles t s.actor i r.1 then t.now s.actor
        else nextCycle q (t.tsbOf s.actor) q.pc r.1 (t.now s.actor) h.pad.toNat (flowIdle f) } := by
  intro q r
  obtain ⟨sp, ld, pk, e⟩ := seqr_advance h i s.actor f (signal h s.actor (s.origin s.actor i) (s.seqr s.actor).lastAcc t) h1 h2 h3
  simp only [seqr_signal, tsbOf_signal, now_signal, bundles_signal] at e
  unfold issued
  obtain k | k := seqr_of_unblock (advance h i s.actor f (signal h s.actor (s.origin s.actor i) (s.seqr s.actor).lastAcc t)) s.actor s.actor
  · exact ⟨sp, ld, pk, _, _, by rw [k, e]⟩
  · exact ⟨sp, ld, pk, _, _, by rw [k, e]⟩

end Sys2Proof.Machine
end

