-- ==== Sys2Proof/Laws/PerInstr.lean ====
section
/-! SUPPORT. Statements about every instruction, one lemma per constructor. -/

namespace Sys2Proof.Laws

/-- Bit 25 of word 0 is X. -/
theorem word0_x (h : Hdr) (x : Bool) (op : BitVec 7) (f : BitVec 18) : (word0 h x op f).getLsbD 25 = x := by
  simp only [word0, bit1, BitVec.getLsbD_append]
  simp

/-- An encoding has the words that X gives it. -/
def wordsFit (l : List W32) : Prop := l.length = wordCount (l.headD 0)

theorem wordsFit_enc1 (h : Hdr) (op : BitVec 7) (f : BitVec 18) : wordsFit (enc1 h op f) := by
  simp only [wordsFit, wordCount, enc1, List.headD_cons, word0_x]; rfl

theorem wordsFit_enc2 (h : Hdr) (op : BitVec 7) (f : BitVec 18) (x : W32) : wordsFit (enc2 h op f x) := by
  simp only [wordsFit, wordCount, enc2, List.headD_cons, word0_x]; rfl

/-- An instruction word has as many words as X in its word 0 says, and a step of the device has none. -/
def Enc.Statement (i : Instr) : Prop := (i.isWord = true → wordsFit (encode i)) ∧ (i.isWord = false → encode i = [])

theorem enc_one {i : Instr} {h : Hdr} {op : BitVec 7} {f : BitVec 18} (w : i.isWord = true) (e : encode i = enc1 h op f) :
    Enc.Statement i := ⟨fun _ => e ▸ wordsFit_enc1 h op f, fun n => absurd (w.symm.trans n) (by decide)⟩

theorem enc_two {i : Instr} {h : Hdr} {op : BitVec 7} {f : BitVec 18} {x : W32} (w : i.isWord = true) (e : encode i = enc2 h op f x) :
    Enc.Statement i := ⟨fun _ => e ▸ wordsFit_enc2 h op f x, fun n => absurd (w.symm.trans n) (by decide)⟩

theorem enc_none {i : Instr} (w : i.isWord = false) (e : encode i = []) : Enc.Statement i :=
  ⟨fun n => absurd (w.symm.trans n) (by decide), fun _ => e⟩

theorem Enc.nop : ∀ x0, Enc.Statement (.nop x0) := fun _ => enc_one rfl rfl
theorem Enc.add : ∀ x0 x1, Enc.Statement (.add x0 x1) := fun _ _ => enc_one rfl rfl
theorem Enc.sub : ∀ x0 x1, Enc.Statement (.sub x0 x1) := fun _ _ => enc_one rfl rfl
theorem Enc.and : ∀ x0 x1, Enc.Statement (.and x0 x1) := fun _ _ => enc_one rfl rfl
theorem Enc.or : ∀ x0 x1, Enc.Statement (.or x0 x1) := fun _ _ => enc_one rfl rfl
theorem Enc.xor : ∀ x0 x1, Enc.Statement (.xor x0 x1) := fun _ _ => enc_one rfl rfl
theorem Enc.shl : ∀ x0 x1, Enc.Statement (.shl x0 x1) := fun _ _ => enc_one rfl rfl
theorem Enc.shr : ∀ x0 x1, Enc.Statement (.shr x0 x1) := fun _ _ => enc_one rfl rfl
theorem Enc.sra : ∀ x0 x1, Enc.Statement (.sra x0 x1) := fun _ _ => enc_one rfl rfl
theorem Enc.addi : ∀ x0 x1 x2, Enc.Statement (.addi x0 x1 x2) := fun _ _ _ => enc_one rfl rfl
theorem Enc.andi : ∀ x0 x1 x2, Enc.Statement (.andi x0 x1 x2) := fun _ _ _ => enc_one rfl rfl
theorem Enc.ori : ∀ x0 x1 x2, Enc.Statement (.ori x0 x1 x2) := fun _ _ _ => enc_one rfl rfl
theorem Enc.xori : ∀ x0 x1 x2, Enc.Statement (.xori x0 x1 x2) := fun _ _ _ => enc_one rfl rfl
theorem Enc.shli : ∀ x0 x1 x2, Enc.Statement (.shli x0 x1 x2) := fun _ _ _ => enc_one rfl rfl
theorem Enc.shri : ∀ x0 x1 x2, Enc.Statement (.shri x0 x1 x2) := fun _ _ _ => enc_one rfl rfl
theorem Enc.srai : ∀ x0 x1 x2, Enc.Statement (.srai x0 x1 x2) := fun _ _ _ => enc_one rfl rfl
theorem Enc.lim : ∀ x0 x1 x2, Enc.Statement (.lim x0 x1 x2) := fun _ _ _ => enc_one rfl rfl
theorem Enc.limX : ∀ x0 x1 x2 x3, Enc.Statement (.limX x0 x1 x2 x3) := fun _ _ _ _ => enc_two rfl rfl
theorem Enc.lih : ∀ x0 x1 x2 x3, Enc.Statement (.lih x0 x1 x2 x3) := fun _ _ _ _ => enc_two rfl rfl
theorem Enc.mov : ∀ x0 x1 x2, Enc.Statement (.mov x0 x1 x2) := fun _ _ _ => enc_one rfl rfl
theorem Enc.mul : ∀ x0 x1, Enc.Statement (.mul x0 x1) := fun _ _ => enc_two rfl rfl
theorem Enc.mulh : ∀ x0 x1, Enc.Statement (.mulh x0 x1) := fun _ _ => enc_two rfl rfl
theorem Enc.mulhu : ∀ x0 x1, Enc.Statement (.mulhu x0 x1) := fun _ _ => enc_two rfl rfl
theorem Enc.div : ∀ x0 x1, Enc.Statement (.div x0 x1) := fun _ _ => enc_two rfl rfl
theorem Enc.divu : ∀ x0 x1, Enc.Statement (.divu x0 x1) := fun _ _ => enc_two rfl rfl
theorem Enc.rem : ∀ x0 x1, Enc.Statement (.rem x0 x1) := fun _ _ => enc_two rfl rfl
theorem Enc.remu : ∀ x0 x1, Enc.Statement (.remu x0 x1) := fun _ _ => enc_two rfl rfl
theorem Enc.min : ∀ x0 x1, Enc.Statement (.min x0 x1) := fun _ _ => enc_two rfl rfl
theorem Enc.max : ∀ x0 x1, Enc.Statement (.max x0 x1) := fun _ _ => enc_two rfl rfl
theorem Enc.minu : ∀ x0 x1, Enc.Statement (.minu x0 x1) := fun _ _ => enc_two rfl rfl
theorem Enc.maxu : ∀ x0 x1, Enc.Statement (.maxu x0 x1) := fun _ _ => enc_two rfl rfl
theorem Enc.clz : ∀ x0 x1 x2, Enc.Statement (.clz x0 x1 x2) := fun _ _ _ => enc_two rfl rfl
theorem Enc.ctz : ∀ x0 x1 x2, Enc.Statement (.ctz x0 x1 x2) := fun _ _ _ => enc_two rfl rfl
theorem Enc.popc : ∀ x0 x1 x2, Enc.Statement (.popc x0 x1 x2) := fun _ _ _ => enc_two rfl rfl
theorem Enc.bext : ∀ x0 x1 x2 x3 x4, Enc.Statement (.bext x0 x1 x2 x3 x4) := fun _ _ _ _ _ => enc_two rfl rfl
theorem Enc.bins : ∀ x0 x1 x2 x3, Enc.Statement (.bins x0 x1 x2 x3) := fun _ _ _ _ => enc_two rfl rfl
theorem Enc.seq : ∀ x0 x1, Enc.Statement (.seq x0 x1) := fun _ _ => enc_two rfl rfl
theorem Enc.sne : ∀ x0 x1, Enc.Statement (.sne x0 x1) := fun _ _ => enc_two rfl rfl
theorem Enc.slt : ∀ x0 x1, Enc.Statement (.slt x0 x1) := fun _ _ => enc_two rfl rfl
theorem Enc.sltu : ∀ x0 x1, Enc.Statement (.sltu x0 x1) := fun _ _ => enc_two rfl rfl
theorem Enc.sel : ∀ x0 x1 x2, Enc.Statement (.sel x0 x1 x2) := fun _ _ _ => enc_two rfl rfl
theorem Enc.br : ∀ x0 x1, Enc.Statement (.br x0 x1) := fun _ _ => enc_one rfl rfl
theorem Enc.bz : ∀ x0 x1 x2, Enc.Statement (.bz x0 x1 x2) := fun _ _ _ => enc_one rfl rfl
theorem Enc.bnz : ∀ x0 x1 x2, Enc.Statement (.bnz x0 x1 x2) := fun _ _ _ => enc_one rfl rfl
theorem Enc.blt : ∀ x0 x1 x2 x3, Enc.Statement (.blt x0 x1 x2 x3) := fun _ _ _ _ => enc_two rfl rfl
theorem Enc.bge : ∀ x0 x1 x2 x3, Enc.Statement (.bge x0 x1 x2 x3) := fun _ _ _ _ => enc_two rfl rfl
theorem Enc.bltu : ∀ x0 x1 x2 x3, Enc.Statement (.bltu x0 x1 x2 x3) := fun _ _ _ _ => enc_two rfl rfl
theorem Enc.bgeu : ∀ x0 x1 x2 x3, Enc.Statement (.bgeu x0 x1 x2 x3) := fun _ _ _ _ => enc_two rfl rfl
theorem Enc.bqs : ∀ x0 x1 x2 x3, Enc.Statement (.bqs x0 x1 x2 x3) := fun _ _ _ _ => enc_two rfl rfl
theorem Enc.jal : ∀ x0 x1, Enc.Statement (.jal x0 x1) := fun _ _ => enc_one rfl rfl
theorem Enc.jr : ∀ x0 x1, Enc.Statement (.jr x0 x1) := fun _ _ => enc_one rfl rfl
theorem Enc.loop : ∀ x0 x1 x2 x3 x4 x5, Enc.Statement (.loop x0 x1 x2 x3 x4 x5) := fun _ _ _ _ _ _ => enc_two rfl rfl
theorem Enc.lbrkC : ∀ x0 x1, Enc.Statement (.lbrkC x0 x1) := fun _ _ => enc_one rfl rfl
theorem Enc.lbrkD : ∀ x0 x1, Enc.Statement (.lbrkD x0 x1) := fun _ _ => enc_one rfl rfl
theorem Enc.qualF : ∀ x0 x1, Enc.Statement (.qualF x0 x1) := fun _ _ => enc_one rfl rfl
theorem Enc.qualL : ∀ x0 x1, Enc.Statement (.qualL x0 x1) := fun _ _ => enc_one rfl rfl
theorem Enc.idle : ∀ x0 x1, Enc.Statement (.idle x0 x1) := fun _ _ => enc_one rfl rfl
theorem Enc.spld : ∀ x0 x1 x2, Enc.Statement (.spld x0 x1 x2) := fun _ _ _ => enc_one rfl rfl
theorem Enc.spst : ∀ x0 x1 x2, Enc.Statement (.spst x0 x1 x2) := fun _ _ _ => enc_one rfl rfl
theorem Enc.csrr : ∀ x0 x1 x2, Enc.Statement (.csrr x0 x1 x2) := fun _ _ _ => enc_one rfl rfl
theorem Enc.csrw : ∀ x0 x1 x2, Enc.Statement (.csrw x0 x1 x2) := fun _ _ _ => enc_one rfl rfl
theorem Enc.csrs : ∀ x0 x1 x2, Enc.Statement (.csrs x0 x1 x2) := fun _ _ _ => enc_one rfl rfl
theorem Enc.csrc : ∀ x0 x1 x2, Enc.Statement (.csrc x0 x1 x2) := fun _ _ _ => enc_one rfl rfl
theorem Enc.rdclk : ∀ x0 x1 x2, Enc.Statement (.rdclk x0 x1 x2) := fun _ _ _ => enc_one rfl rfl
theorem Enc.vadd : ∀ x0 x1 x2, Enc.Statement (.vadd x0 x1 x2) := fun _ _ _ => enc_two rfl rfl
theorem Enc.vsub : ∀ x0 x1 x2, Enc.Statement (.vsub x0 x1 x2) := fun _ _ _ => enc_two rfl rfl
theorem Enc.vmul : ∀ x0 x1 x2, Enc.Statement (.vmul x0 x1 x2) := fun _ _ _ => enc_two rfl rfl
theorem Enc.vmulh : ∀ x0 x1 x2, Enc.Statement (.vmulh x0 x1 x2) := fun _ _ _ => enc_two rfl rfl
theorem Enc.vfma : ∀ x0 x1 x2, Enc.Statement (.vfma x0 x1 x2) := fun _ _ _ => enc_two rfl rfl
theorem Enc.vfms : ∀ x0 x1 x2, Enc.Statement (.vfms x0 x1 x2) := fun _ _ _ => enc_two rfl rfl
theorem Enc.vfnma : ∀ x0 x1 x2, Enc.Statement (.vfnma x0 x1 x2) := fun _ _ _ => enc_two rfl rfl
theorem Enc.vmin : ∀ x0 x1 x2, Enc.Statement (.vmin x0 x1 x2) := fun _ _ _ => enc_two rfl rfl
theorem Enc.vmax : ∀ x0 x1 x2, Enc.Statement (.vmax x0 x1 x2) := fun _ _ _ => enc_two rfl rfl
theorem Enc.vabs : ∀ x0 x1 x2, Enc.Statement (.vabs x0 x1 x2) := fun _ _ _ => enc_two rfl rfl
theorem Enc.vneg : ∀ x0 x1 x2, Enc.Statement (.vneg x0 x1 x2) := fun _ _ _ => enc_two rfl rfl
theorem Enc.vnot : ∀ x0 x1 x2, Enc.Statement (.vnot x0 x1 x2) := fun _ _ _ => enc_two rfl rfl
theorem Enc.vmov : ∀ x0 x1 x2, Enc.Statement (.vmov x0 x1 x2) := fun _ _ _ => enc_two rfl rfl
theorem Enc.vclamp : ∀ x0 x1 x2, Enc.Statement (.vclamp x0 x1 x2) := fun _ _ _ => enc_two rfl rfl
theorem Enc.vsat : ∀ x0 x1 x2, Enc.Statement (.vsat x0 x1 x2) := fun _ _ _ => enc_two rfl rfl
theorem Enc.vand : ∀ x0 x1 x2, Enc.Statement (.vand x0 x1 x2) := fun _ _ _ => enc_two rfl rfl
theorem Enc.vor : ∀ x0 x1 x2, Enc.Statement (.vor x0 x1 x2) := fun _ _ _ => enc_two rfl rfl
theorem Enc.vxor : ∀ x0 x1 x2, Enc.Statement (.vxor x0 x1 x2) := fun _ _ _ => enc_two rfl rfl
theorem Enc.vshl : ∀ x0 x1 x2, Enc.Statement (.vshl x0 x1 x2) := fun _ _ _ => enc_two rfl rfl
theorem Enc.vshr : ∀ x0 x1 x2, Enc.Statement (.vshr x0 x1 x2) := fun _ _ _ => enc_two rfl rfl
theorem Enc.vsra : ∀ x0 x1 x2, Enc.Statement (.vsra x0 x1 x2) := fun _ _ _ => enc_two rfl rfl
theorem Enc.vcmp : ∀ x0 x1 x2 x3, Enc.Statement (.vcmp x0 x1 x2 x3) := fun _ _ _ _ => enc_two rfl rfl
theorem Enc.vsel : ∀ x0 x1 x2, Enc.Statement (.vsel x0 x1 x2) := fun _ _ _ => enc_two rfl rfl
theorem Enc.vbcast : ∀ x0 x1 x2, Enc.Statement (.vbcast x0 x1 x2) := fun _ _ _ => enc_two rfl rfl
theorem Enc.vextr : ∀ x0 x1 x2, Enc.Statement (.vextr x0 x1 x2) := fun _ _ _ => enc_two rfl rfl
theorem Enc.vins : ∀ x0 x1 x2, Enc.Statement (.vins x0 x1 x2) := fun _ _ _ => enc_two rfl rfl
theorem Enc.vcvt : ∀ x0 x1 x2, Enc.Statement (.vcvt x0 x1 x2) := fun _ _ _ => enc_two rfl rfl
theorem Enc.vsrnd : ∀ x0 x1 x2, Enc.Statement (.vsrnd x0 x1 x2) := fun _ _ _ => enc_two rfl rfl
theorem Enc.vqnt : ∀ x0 x1 x2, Enc.Statement (.vqnt x0 x1 x2) := fun _ _ _ => enc_two rfl rfl
theorem Enc.vdqnt : ∀ x0 x1 x2, Enc.Statement (.vdqnt x0 x1 x2) := fun _ _ _ => enc_two rfl rfl
theorem Enc.vperm : ∀ x0 x1 x2, Enc.Statement (.vperm x0 x1 x2) := fun _ _ _ => enc_two rfl rfl
theorem Enc.vshuf : ∀ x0 x1 x2 x3, Enc.Statement (.vshuf x0 x1 x2 x3) := fun _ _ _ _ => enc_two rfl rfl
theorem Enc.vrot : ∀ x0 x1 x2, Enc.Statement (.vrot x0 x1 x2) := fun _ _ _ => enc_two rfl rfl
theorem Enc.vcomp : ∀ x0 x1 x2, Enc.Statement (.vcomp x0 x1 x2) := fun _ _ _ => enc_two rfl rfl
theorem Enc.vexpd : ∀ x0 x1 x2, Enc.Statement (.vexpd x0 x1 x2) := fun _ _ _ => enc_two rfl rfl
theorem Enc.vred : ∀ x0 x1 x2 x3, Enc.Statement (.vred x0 x1 x2 x3) := fun _ _ _ _ => enc_two rfl rfl
theorem Enc.vscan : ∀ x0 x1 x2 x3, Enc.Statement (.vscan x0 x1 x2 x3) := fun _ _ _ _ => enc_two rfl rfl
theorem Enc.vdot : ∀ x0 x1 x2, Enc.Statement (.vdot x0 x1 x2) := fun _ _ _ => enc_two rfl rfl
theorem Enc.viota : ∀ x0 x1 x2, Enc.Statement (.viota x0 x1 x2) := fun _ _ _ => enc_two rfl rfl
theorem Enc.mand : ∀ x0 x1 x2, Enc.Statement (.mand x0 x1 x2) := fun _ _ _ => enc_two rfl rfl
theorem Enc.mor : ∀ x0 x1 x2, Enc.Statement (.mor x0 x1 x2) := fun _ _ _ => enc_two rfl rfl
theorem Enc.mxor : ∀ x0 x1 x2, Enc.Statement (.mxor x0 x1 x2) := fun _ _ _ => enc_two rfl rfl
theorem Enc.mnot : ∀ x0 x1 x2, Enc.Statement (.mnot x0 x1 x2) := fun _ _ _ => enc_two rfl rfl
theorem Enc.mpop : ∀ x0 x1 x2, Enc.Statement (.mpop x0 x1 x2) := fun _ _ _ => enc_two rfl rfl
theorem Enc.mfirst : ∀ x0 x1 x2, Enc.Statement (.mfirst x0 x1 x2) := fun _ _ _ => enc_two rfl rfl
theorem Enc.vsetvl : ∀ x0 x1 x2, Enc.Statement (.vsetvl x0 x1 x2) := fun _ _ _ => enc_two rfl rfl
theorem Enc.vrand : ∀ x0 x1 x2, Enc.Statement (.vrand x0 x1 x2) := fun _ _ _ => enc_two rfl rfl
theorem Enc.vsamp : ∀ x0 x1 x2, Enc.Statement (.vsamp x0 x1 x2) := fun _ _ _ => enc_two rfl rfl
theorem Enc.defer : ∀ x0 x1 x2 x3, Enc.Statement (.defer x0 x1 x2 x3) := fun _ _ _ _ => enc_two rfl rfl
theorem Enc.drain : ∀ x0 x1 x2 x3, Enc.Statement (.drain x0 x1 x2 x3) := fun _ _ _ _ => enc_two rfl rfl
theorem Enc.dcount : ∀ x0 x1 x2, Enc.Statement (.dcount x0 x1 x2) := fun _ _ _ => enc_two rfl rfl
theorem Enc.vexp2 : ∀ x0 x1 x2, Enc.Statement (.vexp2 x0 x1 x2) := fun _ _ _ => enc_two rfl rfl
theorem Enc.vlog2 : ∀ x0 x1 x2, Enc.Statement (.vlog2 x0 x1 x2) := fun _ _ _ => enc_two rfl rfl
theorem Enc.vrcp : ∀ x0 x1 x2, Enc.Statement (.vrcp x0 x1 x2) := fun _ _ _ => enc_two rfl rfl
theorem Enc.vrsq : ∀ x0 x1 x2, Enc.Statement (.vrsq x0 x1 x2) := fun _ _ _ => enc_two rfl rfl
theorem Enc.vsin : ∀ x0 x1 x2, Enc.Statement (.vsin x0 x1 x2) := fun _ _ _ => enc_two rfl rfl
theorem Enc.vcos : ∀ x0 x1 x2, Enc.Statement (.vcos x0 x1 x2) := fun _ _ _ => enc_two rfl rfl
theorem Enc.vtanh : ∀ x0 x1 x2, Enc.Statement (.vtanh x0 x1 x2) := fun _ _ _ => enc_two rfl rfl
theorem Enc.vsigm : ∀ x0 x1 x2, Enc.Statement (.vsigm x0 x1 x2) := fun _ _ _ => enc_two rfl rfl
theorem Enc.verf : ∀ x0 x1 x2, Enc.Statement (.verf x0 x1 x2) := fun _ _ _ => enc_two rfl rfl
theorem Enc.tap : ∀ x0 x1 x2 x3 x4 x5 x6 x7, Enc.Statement (.tap x0 x1 x2 x3 x4 x5 x6 x7) := fun _ _ _ _ _ _ _ _ => enc_two rfl rfl
theorem Enc.rowinWait : ∀ x0 x1 x2, Enc.Statement (.rowinWait x0 x1 x2) := fun _ _ _ => enc_two rfl rfl
theorem Enc.rowinRel : ∀ x0 x1, Enc.Statement (.rowinRel x0 x1) := fun _ _ => enc_two rfl rfl
theorem Enc.rowinCnt : ∀ x0 x1, Enc.Statement (.rowinCnt x0 x1) := fun _ _ => enc_two rfl rfl
theorem Enc.rowoutWr : ∀ x0 x1 x2, Enc.Statement (.rowoutWr x0 x1 x2) := fun _ _ _ => enc_two rfl rfl
theorem Enc.rowoutNext : ∀ x0 x1 x2, Enc.Statement (.rowoutNext x0 x1 x2) := fun _ _ _ => enc_two rfl rfl
theorem Enc.rowoutSlot : ∀ x0 x1 x2, Enc.Statement (.rowoutSlot x0 x1 x2) := fun _ _ _ => enc_two rfl rfl
theorem Enc.remap : ∀ x0 x1 x2 x3, Enc.Statement (.remap x0 x1 x2 x3) := fun _ _ _ _ => enc_two rfl rfl
theorem Enc.tileout : ∀ x0 x1 x2 x3 x4 x5, Enc.Statement (.tileout x0 x1 x2 x3 x4 x5) := fun _ _ _ _ _ _ => enc_two rfl rfl
theorem Enc.mmul : ∀ x0 x1 x2, Enc.Statement (.mmul x0 x1 x2) := fun _ _ _ => enc_two rfl rfl
theorem Enc.mmuls : ∀ x0 x1 x2, Enc.Statement (.mmuls x0 x1 x2) := fun _ _ _ => enc_two rfl rfl
theorem Enc.msacc : ∀ x0 x1 x2, Enc.Statement (.msacc x0 x1 x2) := fun _ _ _ => enc_two rfl rfl
theorem Enc.macc : ∀ x0 x1 x2, Enc.Statement (.macc x0 x1 x2) := fun _ _ _ => enc_two rfl rfl
theorem Enc.mzero : ∀ x0 x1 x2, Enc.Statement (.mzero x0 x1 x2) := fun _ _ _ => enc_two rfl rfl
theorem Enc.mrd : ∀ x0 x1 x2, Enc.Statement (.mrd x0 x1 x2) := fun _ _ _ => enc_two rfl rfl
theorem Enc.mwbl : ∀ x0 x1 x2, Enc.Statement (.mwbl x0 x1 x2) := fun _ _ _ => enc_two rfl rfl
theorem Enc.mwbd : ∀ x0 x1 x2, Enc.Statement (.mwbd x0 x1 x2) := fun _ _ _ => enc_two rfl rfl
theorem Enc.mscl : ∀ x0 x1 x2, Enc.Statement (.mscl x0 x1 x2) := fun _ _ _ => enc_two rfl rfl
theorem Enc.mchk : ∀ x0 x1 x2, Enc.Statement (.mchk x0 x1 x2) := fun _ _ _ => enc_two rfl rfl
theorem Enc.mstat : ∀ x0 x1 x2, Enc.Statement (.mstat x0 x1 x2) := fun _ _ _ => enc_one rfl rfl
theorem Enc.mfen : ∀ x0 x1 x2, Enc.Statement (.mfen x0 x1 x2) := fun _ _ _ => enc_two rfl rfl
theorem Enc.ldB : ∀ x0 x1 x2 x3, Enc.Statement (.ldB x0 x1 x2 x3) := fun _ _ _ _ => enc_one rfl rfl
theorem Enc.ldH : ∀ x0 x1 x2 x3, Enc.Statement (.ldH x0 x1 x2 x3) := fun _ _ _ _ => enc_one rfl rfl
theorem Enc.ldW : ∀ x0 x1 x2 x3, Enc.Statement (.ldW x0 x1 x2 x3) := fun _ _ _ _ => enc_one rfl rfl
theorem Enc.ldD : ∀ x0 x1 x2 x3, Enc.Statement (.ldD x0 x1 x2 x3) := fun _ _ _ _ => enc_one rfl rfl
theorem Enc.stB : ∀ x0 x1 x2 x3, Enc.Statement (.stB x0 x1 x2 x3) := fun _ _ _ _ => enc_one rfl rfl
theorem Enc.stH : ∀ x0 x1 x2 x3, Enc.Statement (.stH x0 x1 x2 x3) := fun _ _ _ _ => enc_one rfl rfl
theorem Enc.stW : ∀ x0 x1 x2 x3, Enc.Statement (.stW x0 x1 x2 x3) := fun _ _ _ _ => enc_one rfl rfl
theorem Enc.stD : ∀ x0 x1 x2 x3, Enc.Statement (.stD x0 x1 x2 x3) := fun _ _ _ _ => enc_one rfl rfl
theorem Enc.ldBX : ∀ x0 x1 x2 x3, Enc.Statement (.ldBX x0 x1 x2 x3) := fun _ _ _ _ => enc_two rfl rfl
theorem Enc.ldHX : ∀ x0 x1 x2 x3, Enc.Statement (.ldHX x0 x1 x2 x3) := fun _ _ _ _ => enc_two rfl rfl
theorem Enc.ldWX : ∀ x0 x1 x2 x3, Enc.Statement (.ldWX x0 x1 x2 x3) := fun _ _ _ _ => enc_two rfl rfl
theorem Enc.ldDX : ∀ x0 x1 x2 x3, Enc.Statement (.ldDX x0 x1 x2 x3) := fun _ _ _ _ => enc_two rfl rfl
theorem Enc.stBX : ∀ x0 x1 x2 x3, Enc.Statement (.stBX x0 x1 x2 x3) := fun _ _ _ _ => enc_two rfl rfl
theorem Enc.stHX : ∀ x0 x1 x2 x3, Enc.Statement (.stHX x0 x1 x2 x3) := fun _ _ _ _ => enc_two rfl rfl
theorem Enc.stWX : ∀ x0 x1 x2 x3, Enc.Statement (.stWX x0 x1 x2 x3) := fun _ _ _ _ => enc_two rfl rfl
theorem Enc.stDX : ∀ x0 x1 x2 x3, Enc.Statement (.stDX x0 x1 x2 x3) := fun _ _ _ _ => enc_two rfl rfl
theorem Enc.vld : ∀ x0 x1 x2, Enc.Statement (.vld x0 x1 x2) := fun _ _ _ => enc_two rfl rfl
theorem Enc.vst : ∀ x0 x1 x2, Enc.Statement (.vst x0 x1 x2) := fun _ _ _ => enc_two rfl rfl
theorem Enc.vldx : ∀ x0 x1 x2, Enc.Statement (.vldx x0 x1 x2) := fun _ _ _ => enc_two rfl rfl
theorem Enc.vstx : ∀ x0 x1 x2, Enc.Statement (.vstx x0 x1 x2) := fun _ _ _ => enc_two rfl rfl
theorem Enc.rdq : ∀ x0 x1 x2, Enc.Statement (.rdq x0 x1 x2) := fun _ _ _ => enc_two rfl rfl
theorem Enc.wrq : ∀ x0 x1 x2 x3 x4, Enc.Statement (.wrq x0 x1 x2 x3 x4) := fun _ _ _ _ _ => enc_one rfl rfl
theorem Enc.lblk : ∀ x0 x1 x2, Enc.Statement (.lblk x0 x1 x2) := fun _ _ _ => enc_two rfl rfl
theorem Enc.lbinv : ∀ x0 x1, Enc.Statement (.lbinv x0 x1) := fun _ _ => enc_one rfl rfl
theorem Enc.lbwb : ∀ x0 x1, Enc.Statement (.lbwb x0 x1) := fun _ _ => enc_one rfl rfl
theorem Enc.lbst : ∀ x0 x1 x2, Enc.Statement (.lbst x0 x1 x2) := fun _ _ _ => enc_one rfl rfl
theorem Enc.rclaim : ∀ x0 x1 x2, Enc.Statement (.rclaim x0 x1 x2) := fun _ _ _ => enc_two rfl rfl
theorem Enc.rpub : ∀ x0 x1 x2, Enc.Statement (.rpub x0 x1 x2) := fun _ _ _ => enc_two rfl rfl
theorem Enc.rrel : ∀ x0 x1 x2, Enc.Statement (.rrel x0 x1 x2) := fun _ _ _ => enc_two rfl rfl
theorem Enc.awfill : ∀ x0 x1 x2, Enc.Statement (.awfill x0 x1 x2) := fun _ _ _ => enc_two rfl rfl
theorem Enc.awfree : ∀ x0 x1 x2, Enc.Statement (.awfree x0 x1 x2) := fun _ _ _ => enc_two rfl rfl
theorem Enc.awrow : ∀ x0 x1 x2, Enc.Statement (.awrow x0 x1 x2) := fun _ _ _ => enc_two rfl rfl
theorem Enc.awwin : ∀ x0 x1 x2, Enc.Statement (.awwin x0 x1 x2) := fun _ _ _ => enc_two rfl rfl
theorem Enc.awcmp : ∀ x0 x1 x2 x3, Enc.Statement (.awcmp x0 x1 x2 x3) := fun _ _ _ _ => enc_two rfl rfl
theorem Enc.phase : ∀ x0 x1, Enc.Statement (.phase x0 x1) := fun _ _ => enc_one rfl rfl
theorem Enc.pset : ∀ x0 x1 x2 x3 x4 x5, Enc.Statement (.pset x0 x1 x2 x3 x4 x5) := fun _ _ _ _ _ _ => enc_one rfl rfl
theorem Enc.fence : ∀ x0 x1 x2, Enc.Statement (.fence x0 x1 x2) := fun _ _ _ => enc_one rfl rfl
theorem Enc.brmw : ∀ x0 x1 x2, Enc.Statement (.brmw x0 x1 x2) := fun _ _ _ => enc_two rfl rfl
theorem Enc.monwait : ∀ x0 x1, Enc.Statement (.monwait x0 x1) := fun _ _ => enc_one rfl rfl
theorem Enc.push : ∀ x0 x1 x2, Enc.Statement (.push x0 x1 x2) := fun _ _ _ => enc_two rfl rfl
theorem Enc.pop : ∀ x0 x1 x2, Enc.Statement (.pop x0 x1 x2) := fun _ _ _ => enc_one rfl rfl
theorem Enc.dact : ∀ x0 x1 x2, Enc.Statement (.dact x0 x1 x2) := fun _ _ _ => enc_two rfl rfl
theorem Enc.drd : ∀ x0 x1 x2 x3, Enc.Statement (.drd x0 x1 x2 x3) := fun _ _ _ _ => enc_two rfl rfl
theorem Enc.drdWb : ∀ x0 x1 x2 x3 x4, Enc.Statement (.drdWb x0 x1 x2 x3 x4) := fun _ _ _ _ _ => enc_two rfl rfl
theorem Enc.dwr : ∀ x0 x1 x2 x3 x4, Enc.Statement (.dwr x0 x1 x2 x3 x4) := fun _ _ _ _ _ => enc_two rfl rfl
theorem Enc.dpre : ∀ x0 x1, Enc.Statement (.dpre x0 x1) := fun _ _ => enc_two rfl rfl
theorem Enc.dprea : ∀ x0 x1 x2, Enc.Statement (.dprea x0 x1 x2) := fun _ _ _ => enc_two rfl rfl
theorem Enc.dref : ∀ x0 x1, Enc.Statement (.dref x0 x1) := fun _ _ => enc_two rfl rfl
theorem Enc.dmrw : ∀ x0 x1 x2 x3 x4, Enc.Statement (.dmrw x0 x1 x2 x3 x4) := fun _ _ _ _ _ => enc_two rfl rfl
theorem Enc.dmrr : ∀ x0 x1 x2 x3, Enc.Statement (.dmrr x0 x1 x2 x3) := fun _ _ _ _ => enc_two rfl rfl
theorem Enc.dzq : ∀ x0 x1 x2 x3, Enc.Statement (.dzq x0 x1 x2 x3) := fun _ _ _ _ => enc_two rfl rfl
theorem Enc.didle : ∀ x0 x1, Enc.Statement (.didle x0 x1) := fun _ _ => enc_two rfl rfl
theorem Enc.dsync : ∀ x0 x1, Enc.Statement (.dsync x0 x1) := fun _ _ => enc_two rfl rfl
theorem Enc.trap : ∀ x0 x1, Enc.Statement (.trap x0 x1) := fun _ _ => enc_one rfl rfl
theorem Enc.eret : ∀ x0, Enc.Statement (.eret x0) := fun _ => enc_one rfl rfl
theorem Enc.halt : ∀ x0, Enc.Statement (.halt x0) := fun _ => enc_one rfl rfl
theorem Enc.dbg : ∀ x0 x1, Enc.Statement (.dbg x0 x1) := fun _ _ => enc_one rfl rfl
theorem Enc.safept : ∀ x0 x1, Enc.Statement (.safept x0 x1) := fun _ _ => enc_one rfl rfl
theorem Enc.bbmark : ∀ x0 x1 x2, Enc.Statement (.bbmark x0 x1 x2) := fun _ _ _ => enc_one rfl rfl
theorem Enc.configLockRequest : ∀ x0, Enc.Statement (.configLockRequest x0) := fun _ => enc_none rfl rfl
theorem Enc.partitionReset : ∀ x0, Enc.Statement (.partitionReset x0) := fun _ => enc_none rfl rfl
theorem Enc.hostMessage : ∀ x0 x1, Enc.Statement (.hostMessage x0 x1) := fun _ _ => enc_none rfl rfl
theorem Enc.peerMessage : ∀ x0 x1 x2, Enc.Statement (.peerMessage x0 x1 x2) := fun _ _ _ => enc_none rfl rfl
theorem Enc.peerWrite : ∀ x0 x1 x2 x3 x4, Enc.Statement (.peerWrite x0 x1 x2 x3 x4) := fun _ _ _ _ _ => enc_none rfl rfl
theorem Enc.queueNotify : ∀ x0 x1, Enc.Statement (.queueNotify x0 x1) := fun _ _ => enc_none rfl rfl
theorem Enc.xlinvWrite : ∀ x0 x1, Enc.Statement (.xlinvWrite x0 x1) := fun _ _ => enc_none rfl rfl
theorem Enc.dbgresWrite : ∀ x0, Enc.Statement (.dbgresWrite x0) := fun _ => enc_none rfl rfl
theorem Enc.tbstepWrite : ∀ x0, Enc.Statement (.tbstepWrite x0) := fun _ => enc_none rfl rfl
theorem Enc.timeSyncMessage : ∀ x0 x1, Enc.Statement (.timeSyncMessage x0 x1) := fun _ _ => enc_none rfl rfl
theorem Enc.lbpGo : ∀ x0, Enc.Statement (.lbpGo x0) := fun _ => enc_none rfl rfl
theorem Enc.lbpImemWrite : ∀ x0 x1, Enc.Statement (.lbpImemWrite x0 x1) := fun _ _ => enc_none rfl rfl
theorem Enc.scratchpadWindowWrite : ∀ x0 x1, Enc.Statement (.scratchpadWindowWrite x0 x1) := fun _ _ => enc_none rfl rfl
theorem Enc.migctlGo : ∀ x0 x1, Enc.Statement (.migctlGo x0 x1) := fun _ _ => enc_none rfl rfl
theorem Enc.fringRelWrite : ∀ x0 x1, Enc.Statement (.fringRelWrite x0 x1) := fun _ _ => enc_none rfl rfl
theorem Enc.fpinClear : ∀ x0, Enc.Statement (.fpinClear x0) := fun _ => enc_none rfl rfl
theorem Enc.registerWrite : ∀ x0 x1 x2, Enc.Statement (.registerWrite x0 x1 x2) := fun _ _ _ => enc_none rfl rfl
theorem Enc.bar2Write : ∀ x0 x1, Enc.Statement (.bar2Write x0 x1) := fun _ _ => enc_none rfl rfl
theorem Enc.bar2Read : ∀ x0 x1, Enc.Statement (.bar2Read x0 x1) := fun _ _ => enc_none rfl rfl
theorem Enc.hostAtomic : ∀ x0 x1 x2 x3 x4, Enc.Statement (.hostAtomic x0 x1 x2 x3 x4) := fun _ _ _ _ _ => enc_none rfl rfl
theorem Enc.spiRead : ∀ x0 x1, Enc.Statement (.spiRead x0 x1) := fun _ _ => enc_none rfl rfl
theorem Enc.hostCompletion : ∀ x0 x1 x2, Enc.Statement (.hostCompletion x0 x1 x2) := fun _ _ _ => enc_none rfl rfl
theorem Enc.hostCompletionTimeout : ∀ x0, Enc.Statement (.hostCompletionTimeout x0) := fun _ => enc_none rfl rfl
theorem Enc.peerLinkChange : ∀ x0, Enc.Statement (.peerLinkChange x0) := fun _ => enc_none rfl rfl
theorem Enc.linkCrcRetry : ∀ x0, Enc.Statement (.linkCrcRetry x0) := fun _ => enc_none rfl rfl
theorem Enc.linkRetryComplete : ∀ x0 x1, Enc.Statement (.linkRetryComplete x0 x1) := fun _ _ => enc_none rfl rfl
theorem Enc.linkRetrain : ∀ x0, Enc.Statement (.linkRetrain x0) := fun _ => enc_none rfl rfl
theorem Enc.linkRetrainEnd : ∀ x0 x1, Enc.Statement (.linkRetrainEnd x0 x1) := fun _ _ => enc_none rfl rfl
theorem Enc.frameStart : ∀ x0 x1, Enc.Statement (.frameStart x0 x1) := fun _ _ => enc_none rfl rfl
theorem Enc.cameraRow : ∀ x0 x1 x2 x3, Enc.Statement (.cameraRow x0 x1 x2 x3) := fun _ _ _ _ => enc_none rfl rfl
theorem Enc.frameEnd : ∀ x0 x1, Enc.Statement (.frameEnd x0 x1) := fun _ _ => enc_none rfl rfl
theorem Enc.lidarDatagram : ∀ x0 x1 x2 x3, Enc.Statement (.lidarDatagram x0 x1 x2 x3) := fun _ _ _ _ => enc_none rfl rfl
theorem Enc.sensorLinkLoss : ∀ x0, Enc.Statement (.sensorLinkLoss x0) := fun _ => enc_none rfl rfl
theorem Enc.sensorLinkReturn : ∀ x0, Enc.Statement (.sensorLinkReturn x0) := fun _ => enc_none rfl rfl
theorem Enc.peerCompletion : ∀ x0 x1 x2, Enc.Statement (.peerCompletion x0 x1 x2) := fun _ _ _ => enc_none rfl rfl
theorem Enc.tileoutPublish : Enc.Statement .tileoutPublish := enc_none rfl rfl
theorem Enc.meCommandStart : Enc.Statement .meCommandStart := enc_none rfl rfl
theorem Enc.meCommandComplete : Enc.Statement .meCommandComplete := enc_none rfl rfl
theorem Enc.monitorResume : Enc.Statement .monitorResume := enc_none rfl rfl
theorem Enc.copy1d : Enc.Statement .copy1d := enc_none rfl rfl
theorem Enc.copynd : Enc.Statement .copynd := enc_none rfl rfl
theorem Enc.gather : Enc.Statement .gather := enc_none rfl rfl
theorem Enc.scatter : Enc.Statement .scatter := enc_none rfl rfl
theorem Enc.shape : Enc.Statement .shape := enc_none rfl rfl
theorem Enc.scopy : Enc.Statement .scopy := enc_none rfl rfl
theorem Enc.batom : Enc.Statement .batom := enc_none rfl rfl
theorem Enc.coll : Enc.Statement .coll := enc_none rfl rfl
theorem Enc.ceCommandComplete : Enc.Statement .ceCommandComplete := enc_none rfl rfl
theorem Enc.cqWordEnter : Enc.Statement .cqWordEnter := enc_none rfl rfl
theorem Enc.collMatchTimeout : Enc.Statement .collMatchTimeout := enc_none rfl rfl
theorem Enc.refreshDue : Enc.Statement .refreshDue := enc_none rfl rfl
theorem Enc.holdRefresh : Enc.Statement .holdRefresh := enc_none rfl rfl
theorem Enc.idleRefresh : Enc.Statement .idleRefresh := enc_none rfl rfl
theorem Enc.mr4Poll : Enc.Statement .mr4Poll := enc_none rfl rfl
theorem Enc.migrationPass : Enc.Statement .migrationPass := enc_none rfl rfl
theorem Enc.markDrain : Enc.Statement .markDrain := enc_none rfl rfl
theorem Enc.trapHandlerEntry : Enc.Statement .trapHandlerEntry := enc_none rfl rfl
theorem Enc.domainBreak : Enc.Statement .domainBreak := enc_none rfl rfl
theorem Enc.walkerRecovery : Enc.Statement .walkerRecovery := enc_none rfl rfl
theorem Enc.schedSegmentDeadline : Enc.Statement .schedSegmentDeadline := enc_none rfl rfl
theorem Enc.awaitHorizon : Enc.Statement .awaitHorizon := enc_none rfl rfl
theorem Enc.holdBegin : Enc.Statement .holdBegin := enc_none rfl rfl
theorem Enc.holdReleaseDecided : Enc.Statement .holdReleaseDecided := enc_none rfl rfl
theorem Enc.holdRelease : Enc.Statement .holdRelease := enc_none rfl rfl
theorem Enc.throttleSlotEnd : Enc.Statement .throttleSlotEnd := enc_none rfl rfl
theorem Enc.throttleLevelEffect : Enc.Statement .throttleLevelEffect := enc_none rfl rfl
theorem Enc.awaitBudgetExhausted : Enc.Statement .awaitBudgetExhausted := enc_none rfl rfl
theorem Enc.holdBudgetExhausted : Enc.Statement .holdBudgetExhausted := enc_none rfl rfl
theorem Enc.latencyBudgetExceeded : Enc.Statement .latencyBudgetExceeded := enc_none rfl rfl
theorem Enc.phaseChange : Enc.Statement .phaseChange := enc_none rfl rfl
theorem Enc.safepointPreempt : Enc.Statement .safepointPreempt := enc_none rfl rfl
theorem Enc.contextSaveDone : Enc.Statement .contextSaveDone := enc_none rfl rfl
theorem Enc.contextRestoreDone : Enc.Statement .contextRestoreDone := enc_none rfl rfl
theorem Enc.vrfWakeDone : Enc.Statement .vrfWakeDone := enc_none rfl rfl
theorem Enc.wccCompareTrigger : Enc.Statement .wccCompareTrigger := enc_none rfl rfl
theorem Enc.launchStart : Enc.Statement .launchStart := enc_none rfl rfl
theorem Enc.iterationRetire : Enc.Statement .iterationRetire := enc_none rfl rfl
theorem Enc.deviceReset : Enc.Statement .deviceReset := enc_none rfl rfl
theorem Enc.powerOn : Enc.Statement .powerOn := enc_none rfl rfl
theorem Enc.bootGo : Enc.Statement .bootGo := enc_none rfl rfl
theorem Enc.bootReady : Enc.Statement .bootReady := enc_none rfl rfl
theorem Enc.attestGo : Enc.Statement .attestGo := enc_none rfl rfl
theorem Enc.partitionResetDone : Enc.Statement .partitionResetDone := enc_none rfl rfl
theorem Enc.queueBind : Enc.Statement .queueBind := enc_none rfl rfl
theorem Enc.queueEntryRead : Enc.Statement .queueEntryRead := enc_none rfl rfl
theorem Enc.queueMsix : Enc.Statement .queueMsix := enc_none rfl rfl
theorem Enc.pageWalkComplete : Enc.Statement .pageWalkComplete := enc_none rfl rfl
theorem Enc.hostLinkDown : Enc.Statement .hostLinkDown := enc_none rfl rfl
theorem Enc.rowDeadline : Enc.Statement .rowDeadline := enc_none rfl rfl
theorem Enc.overrunSubstitute : Enc.Statement .overrunSubstitute := enc_none rfl rfl
theorem Enc.shutterDecide : Enc.Statement .shutterDecide := enc_none rfl rfl
theorem Enc.shutterCandidateDead : Enc.Statement .shutterCandidateDead := enc_none rfl rfl
theorem Enc.untimedAccessPerform : Enc.Statement .untimedAccessPerform := enc_none rfl rfl
theorem Enc.writeAppliedInView : Enc.Statement .writeAppliedInView := enc_none rfl rfl
theorem Enc.hostLinkUp : Enc.Statement .hostLinkUp := enc_none rfl rfl
theorem Enc.tsbReached : Enc.Statement .tsbReached := enc_none rfl rfl
theorem Enc.periodBoundary : Enc.Statement .periodBoundary := enc_none rfl rfl

end Sys2Proof.Laws
end

