-- ==== Sys2Proof/Tests/Slice0.lean ====
section
/-! SUPPORT. Tests: words written out bit by bit from the encodings of 06; an ill-formed instruction for each check of
R428; for every statement a state and operands that meet its hypotheses, clause by clause; and a few steps whose results
are worked out by hand or stand in the spec. -/

open Sys2Proof Sys2Proof.Machine

namespace Sys2Proof.Tests

set_option Elab.async false

/-! ### Helpers -/

/-- No dependency and no padding. -/
def z : Hdr := ⟨false, false, false, false, 0⟩

/-- The machine after reset with one sequencer about to issue its first instruction. -/
def on (a : Actor) (timed : Bool := false) : State := { State.reset.runAt a timed with actor := a }

/-- The state with unit u and its part x named for an event. -/
def ofUnit (s : State) (u : Nat) (x : Nat := 0) : State := { s with unit := u, sub := x }

def core (s : State) (g : Nat) (f : Core → Core) : State := s.modCore g f

/-- Scalar registers of the sequencer that issues. -/
def regs (s : State) (l : SMap DWord) : State := s.modSeqr s.actor fun q => { q with regs := l }

def goes (o : Host.Outcome State Fault Refusal) : Bool :=
  match o with
  | .next _ => true
  | _ => false

theorem goes_next {o : Host.Outcome State Fault Refusal} (h : goes o = true) : ∃ t, o = .next t := by
  cases o with
  | next t => exact ⟨t, rfl⟩
  | _ => simp [goes] at h

/-- The state after an instruction or an event, where it goes on. -/
def after (i : Instr) (s : State) : State :=
  match exec i s with
  | .next t => t
  | _ => s

def ks : State := on (.core 0 .s)
def kk : State := on (.core 0 .k)
def kt : State := on (.core 0 .k) true
def cc : State := on (.core 0 .c)
def ct : State := on (.core 0 .c) true
def lb : State := on (.lbp 0)

/-! ### Hypotheses that can be met: the scalar unit -/

theorem witness_ScalarResults : Claims.scalar (.div z ⟨1, 2, 3⟩) ks = some (z, 1, 20, BitVec.allOnes 64) ∧
    Unhindered z (.div z ⟨1, 2, 3⟩) ks ∧ Unhindered z (.div z ⟨1, 2, 3⟩) ct := by
  simp only [Unhindered]; decide +kernel

theorem witness_ScalarChanges : (Claims.scalar (.add z ⟨1, 2, 3⟩) ks).isSome = true ∧
    (∃ t, exec (.add z ⟨1, 2, 3⟩) ks = .next t) ∧ (1 : Code) ≠ 39 :=
  ⟨by decide +kernel, goes_next (by decide +kernel), by decide⟩

theorem witness_Branches :
    (Claims.branch (.bz z 1 3) ks = some (z, 3, true) ∧ Unhindered z (.bz z 1 3) ks ∧ Claims.inStream ks 12) ∧
    (Claims.branch (.bz z 1 (-1)) ks = some (z, -1, true) ∧ Unhindered z (.bz z 1 (-1)) ks ∧ ¬ Claims.inStream ks (-4)) ∧
    (Claims.branch (.blt z 1 2 3) ks = some (z, 3, false) ∧ Unhindered z (.blt z 1 2 3) ks) := by
  simp only [Unhindered, Claims.inStream]; decide +kernel

theorem witness_QueueBranch :
    Unhindered z (.bqs z 48 2 4) ks ∧ Claims.inStream ks 16 ∧ queueHead ks 0 48 = none ∧
    Unhindered z (.bqs z 48 0 4) (core ks 0 fun x => { x with queues := [(0, [⟨[], 1⟩])] }) ∧
    queueHead (core ks 0 fun x => { x with queues := [(0, [⟨[], 1⟩])] }) 0 48 = some true := by
  simp only [Unhindered, Claims.inStream]; decide +kernel

theorem witness_Jumps :
    (Unhindered z (.jal z 2) ks ∧ Claims.inStream ks 8) ∧
    (Unhindered z (.jr z 1) (regs ks [(1, 16380)]) ∧ ((regs ks [(1, 16380)]).rd 1).toNat % 2 ^ 32 < (regs ks [(1, 16380)]).me.len) ∧
    (Unhindered z (.jr z 1) (regs ks [(1, 2)]) ∧ ((regs ks [(1, 2)]).rd 1).toNat % 2 ^ 32 % 4 ≠ 0) := by
  simp only [Unhindered, Claims.inStream]; decide +kernel

/-- A sequencer at the end of a level of n trips. -/
def atEnd (n : Nat) : State := ks.modSeqr (.core 0 .s) fun q => { q with loops := [(0, { act := true, n := n })] }

theorem witness_NextPlace :
    (Claims.place (ks.seqr ks.actor).pc 4 .seq = some 4 ∧ Claims.noLevelEnds (ks.seqr ks.actor) 4 ∧
      bundles ks ks.actor (.nop z) 4 = false ∧ segAt (ks.seqr ks.actor).segs 4 = segAt (ks.seqr ks.actor).segs 0) ∧
    (Claims.onlyLevelEnds ((atEnd 2).seqr ks.actor) 4 0 ∧ (sget {} ((atEnd 2).seqr ks.actor).loops 0).trip + 1 < 2) ∧
    (Claims.onlyLevelEnds ((atEnd 1).seqr ks.actor) 4 0 ∧ ¬ (sget {} ((atEnd 1).seqr ks.actor).loops 0).trip + 1 < 1) := by
  simp only [Claims.noLevelEnds, Claims.onlyLevelEnds]; decide +kernel

theorem witness_StreamOnly :
    Unhindered z (.qualF z 0) ks ∧ Unhindered z (.qualL z 0) (atEnd 2) ∧ Unhindered z (.trap z 32767) ks ∧
    Unhindered z (.idle z 262143) ct ∧ Unhindered z (.nop z) ks ∧ Unhindered z (.didle z 0) (on (.dcs 0) true) := by
  simp only [Unhindered]; decide +kernel

theorem witness_LoopStarts :
    (Unhindered z (.loop z 0 0 1 2 3) ks ∧ (ks.level 0).act = false ∧ ks.rd 1 = 0) ∧
    (Unhindered z (.loop z 0 1 1 2 3) (regs ks [(1, 4)]) ∧ ((regs ks [(1, 4)]).level 0).act = false ∧ (regs ks [(1, 4)]).rd 1 ≠ 0) ∧
    (Unhindered z (.loop z 0 0 1 2 3) (atEnd 2) ∧ ((atEnd 2).level 0).act = true) := by
  simp only [Unhindered]; decide +kernel

theorem witness_LoopBreaks :
    (Unhindered z (.lbrkC z 0) (atEnd 2) ∧ ((atEnd 2).level 0).act = true) ∧
    (Unhindered z (.lbrkD z 0) (atEnd 2) ∧ Unhindered z (.lbrkD z 1) ks ∧ (ks.level 1).act = false) := by
  simp only [Unhindered]; decide +kernel

/-- A sequencer whose next instruction a QUAL suppresses. -/
def quelled : State := ks.modSeqr (.core 0 .s) fun q => { q with qual := some false }

theorem witness_Qualified : Unhindered z (.qualF z 0) ks ∧ Unhindered z (.qualL z 5) (atEnd 2) ∧
    (Instr.mul z ⟨1, 2, 3⟩).isWord = true ∧ quelled.canIssue quelled.actor = true ∧ (quelled.seqr quelled.actor).qual = some false := by
  simp only [Unhindered]; decide +kernel

theorem witness_NopIdle : Unhindered z (.nop z) ks ∧ Unhindered z (.idle z 262143) ct ∧ Claims.noLevelEnds ks.me 4 := by
  simp only [Unhindered, Claims.noLevelEnds]; decide +kernel

theorem witness_ManagementMark : (on .mgmt).actor = .mgmt ∧ Unhindered z (.bbmark z 1 4095) (on .mgmt) := by
  simp only [Unhindered]; decide +kernel

theorem witness_SpillAndHalt : Unhindered z (.spst z 1 1023) ks ∧ Unhindered z (.halt z) lb ∧
    Unhindered z (.dsync z 255) (on (.dcs 0) true) ∧ Unhindered z (.dbg z 7) ks ∧ Unhindered z (.bbmark z 1 4095) ks ∧
    (let s := core kk 0 fun x => { x with trap := { inHandler := true } }
     Unhindered z (.eret z) s ∧ (s.core 0).trap.inHandler = true) ∧
    (Unhindered z (.safept z 1) kt ∧ kt.timedOf kt.actor = true ∧ kt.now kt.actor + 33 ≤ (kt.core 0).tsb + 256 * (1 : B16).toNat) ∧
    (let w := waited z kk
     Unhindered z (.safept z 0) kk ∧ kk.timedOf kk.actor = false ∧ (kk.task ((kk.core 0).task.getD 0)).slen = 0 ∧
      enginesIdle (w.core 0) (w.now kk.actor) = true ∧ queuesEmpty (w.core 0) = true ∧ resultsPending w 0 = false) := by
  simp only [Unhindered]; decide +kernel

/-- An instruction that waits for a token of its predecessor. -/
def waitsP : Instr := .nop ⟨true, false, false, false, 0⟩

theorem witness_TokensGateIssue : waitsP.isWord = true ∧ ks.canIssue ks.actor = true ∧ (ks.seqr ks.actor).qual ≠ some false ∧
    tokensThere (header waitsP) (ks.seqr ks.actor) = false ∧ ks.timedOf ks.actor = false ∧ ct.timedOf ct.actor = true ∧
    tokensThere (header waitsP) (ct.seqr ct.actor) = false ∧ (∃ t, exec waitsP ct = .next t) :=
  ⟨by decide +kernel, by decide +kernel, by decide +kernel, by decide +kernel, by decide +kernel, by decide +kernel,
    by decide +kernel, goes_next (by decide +kernel)⟩

theorem witness_CsrAccess : Unhindered z (.csrr z 1 0x000) ks ∧ Unhindered z (.rdclk z 1 2) ks ∧
    Claims.csrWrite (.csrc z 1 0x020) ks = some (z, 0x020, 0) ∧ Unhindered z (.csrc z 1 0x020) ks ∧
    (0x048 : Nat) ≠ 0x021 ∧ (0x3F0 : Nat) ≠ 0x021 ∧ (0x000 : Nat) ≠ 0x021 := by
  simp only [Unhindered]; decide +kernel

/-! ### Hypotheses that can be met: traps, vector and matrix instructions -/

/-- Core 0 with a trap state. -/
def trapped (t : TrapSt) (cause : DWord := 0) : State :=
  core kk 0 fun x => { x with trap := t, k := { x.k with csr := [(0x042, cause)] } }

theorem witness_TrapEntry :
    (State.reset.core 0).trap.stopAfter = none ∧
    (((trapped { stopAfter := some 5 } 0x11).core 0).trap.stopAfter = some 5 ∧
      ((trapped { stopAfter := some 5 } 0x11).core 0).trap.inHandler = false ∧
      csrNat ((trapped { stopAfter := some 5 } 0x11).core 0).k csrTrapcause % 2 ^ 16 = 0x11 ∧ causeCode .illegalOp < 0x11 ∧
      0x11 ≤ causeCode .swTrap) ∧
    (((trapped { stopAfter := some 5, inHandler := true }).core 0).trap.inHandler = true ∧
      ((trapped { stopAfter := some 5, inHandler := true }).core 0).trap.handlerDone = false) ∧
    (let s := ofUnit (trapped { stopAfter := some 0, handlerAt := some 0 }) 0
     s.held (s.partOfCore 0) = false ∧ (s.core 0).trap.inHandler = false ∧ (s.core 0).frozen = false ∧
      (s.core 0).trap.handlerAt = some 0 ∧ 0 ≤ s.sccOf (s.partOfCore 0) ∧
      resultsPending s 0 (s.core 0).trap.before = false) ∧
    (let s : State := core State.reset 0 fun x => { x with misses := 1, replays := 1 }
     State.reset.partOfCore 0 < 4 ∧ (State.reset.core 0).misses = 0 ∧ s.partOfCore 0 < 4 ∧ (s.core 0).trap.stopAfter = none ∧
      ¬((s.core 0).misses = 0 ∨ (s.core 0).replays = 0)) := by
  decide +kernel

theorem witness_TrapsAndReturns :
    (Unhindered z (.trap z 32767) ks ∧ ks.actor = .core 0 .s ∧ (ks.core 0).trap.stopAfter = none ∧ ks.checker 0 = false) ∧
    (Unhindered z (.eret z) kk ∧ (kk.core 0).trap.inHandler = false) ∧
    (let s := trapped { stopAfter := some 0, inHandler := true }
     Unhindered z (.eret z) s ∧ (s.core 0).trap.brk = false ∧ bits (csrNat (s.core 0).k csrTrapcause) 63 62 = 0 ∧
      seqOfNum (bits (csrNat (s.core 0).k csrTrapcause) 51 50) = .k) ∧
    (let s := trapped { stopAfter := some 0, inHandler := true } (3 <<< 50)
     Unhindered z (.eret z) s ∧ seqOfNum (bits (csrNat (s.core 0).k csrTrapcause) 51 50) ≠ .k) ∧
    (let s := trapped { stopAfter := some 0, inHandler := true, brk := true }
     Unhindered z (.eret z) s ∧ (s.core 0).trap.brk = true) := by
  simp only [Unhindered]; decide +kernel

/-- Core 0 runs task 0 in tokened code; with `hi` a pre-empted task of higher priority waits for it. -/
def withTask (hi : Bool) : State :=
  ({ core kk 0 (fun x => { x with task := some 0 }) with
     tasks := (0, { part := 0, st := .running, members := [0] }) ::
       (if hi then [(1, { part := 0, st := .preempted, ln := [(4, 1)] })] else []) } : State).setField (offPart 0 (rPctx 0)) 51 40 1

theorem witness_DebugMarksSafepoints :
    (let s := core ks 0 fun x => { x with k := { x.k with csr := [(0x048, 1)] } }
     Unhindered z (.dbg z 7) s ∧ s.timedOf s.actor = false ∧ (getCsr (s.core 0).k csrDbgctl).getLsbD 0 = true ∧ coreTimed (s.core 0) = false) ∧
    (Unhindered z (.dbg z 7) ct ∧ ct.timedOf ct.actor = true) ∧ (Unhindered z (.dbg z 7) ks ∧ (getCsr (ks.core 0).k csrDbgctl).getLsbD 0 = false) ∧
    (let s := core ks 0 fun x => { x with marks := List.replicate 16 ⟨.k, 0, 0, 0, 0⟩ }
     Unhindered z (.bbmark z 1 4095) s ∧ 16 < (insertMark ⟨.s, 4095, s.rd 1, s.now s.actor, s.wcc⟩ (s.core 0).marks).length) ∧
    (Unhindered z (.safept z 1) kt ∧ kt.timedOf kt.actor = true ∧ kt.now kt.actor + 33 ≤ (kt.core 0).tsb + 256 * (1 : B16).toNat) ∧
    (∀ hi, let s := withTask hi; let w := waited z s
      Unhindered z (.safept z 0) s ∧ s.timedOf s.actor = false ∧ (w.core 0).task = some 0 ∧ (w.task 0).slen = 0 ∧
      enginesIdle (w.core 0) (w.now s.actor) = true ∧ queuesEmpty (w.core 0) = true ∧ resultsPending w 0 = false ∧ preemptible w 0 = hi) := by
  simp only [Unhindered]; decide +kernel

/-- A vector addition in FP32 of v1 and v2 into v3, and one in UINT8 without a mask. -/
def vadd : Instr := .vadd z ⟨3, 1, 2⟩ ⟨1, 0, 0, false, 0, false, false, 0⟩
def vaddInt : Instr := .vadd z ⟨3, 1, 2⟩ ⟨8, 0, 0, false, 0, false, false, 0⟩
def vexp : Instr := .vexp2 z ⟨3, 1, 0⟩ ⟨1, 0, 0, false, 0, false, false, 0⟩

theorem witness_VectorIssue :
    (let n := lanesOf cc cc.actor vadd
     Claims.vector vadd = some z ∧ Unhindered z vadd cc ∧ cc.timedOf cc.actor = false ∧
       vecReady (waited z cc) cc.actor vadd n (chunksOf false vadd n) 0 = true ∧ isTrans vadd = false) ∧
    (let s := core ct 0 fun x => { x with c := { x.c with csr := [(0x00A, 1)] } }
     let n := lanesOf s s.actor vexp
     Unhindered z vexp s ∧ s.timedOf s.actor = true ∧ vecSched (waited z s) 0 vexp n (chunksOf false vexp n) 0 = none ∧
       isTrans vexp = true ∧ 1 ≤ ftvOf s s.actor ∧ ftvOf s s.actor ≤ 3) ∧
    (let n := lanesOf lb lb.actor vaddInt
     Unhindered z vaddInt lb ∧ lb.actor = .lbp 0 ∧ vecReady (waited z lb) lb.actor vaddInt n (chunksOf true vaddInt n) 0 = true) := by
  simp only [Unhindered]; decide +kernel

theorem witness_awake : Claims.allAwake (waited z cc) 0 vadd ∧ Claims.allAwake (waited z ct) 0 vexp := by
  simp only [Claims.allAwake]; decide +kernel

theorem witness_VectorFrame : (∃ t, exec vadd cc = .next t) ∧ (∃ t, exec (.mzero z ⟨0, 0, 0⟩ ⟨0, 0, false, 0, 0, 0, 0⟩) cc = .next t) :=
  ⟨goes_next (by decide +kernel), goes_next (by decide +kernel)⟩

/-- An operation in the engine on lanes 0 to n - 1. -/
def inEngine (i : Instr) (n mask : Nat) : VOp :=
  { id := 0, c := 0, i := i, org := ⟨.c, 0, 0, false, 0⟩, n := n, nch := 1, draw := 0, s1 := 0, s2 := 0, key := [], ident := 0,
    mask := mask }

def masked (mz : Bool) : XV := ⟨8, 0, 0, true, 0, mz, false, 0⟩

theorem witness_VectorLanes :
    (Claims.intLane (inEngine vaddInt 1 1).i 8 (200 : BitVec 8) 100 0).map (·.2) = some 44 ∧
    (Claims.intLane (.vmulh z ⟨3, 1, 2⟩ ⟨11, 0, 0, false, 0, false, false, 0⟩) 16 (0x8000 : BitVec 16) 0x8000 0).map (·.2) = some 0x4000 ∧
    (inEngine vaddInt 1 1).mask.testBit 0 = true ∧ (inEngine vaddInt 1 0).mask.testBit 0 = false ∧
    xvOf (.vadd z ⟨3, 1, 2⟩ (masked true)) = some (masked true) ∧ (masked true).mz = true ∧ (masked false).mz = false ∧ (masked true).men = true := by
  decide +kernel

theorem witness_VectorResults :
    vdest (inEngine vaddInt 2048 0).i = some 3 ∧ (3 : Code).toNat < 48 ∧ (inEngine vaddInt 2048 0).dead = none ∧
    (inEngine vaddInt 2048 0).drop.contains 3 = false ∧ 2047 < (inEngine vaddInt 2048 0).n ∧ (State.reset.core 0).vrf.wf = true := by
  decide +kernel

theorem witness_VectorScalars :
    (Unhindered z (.vsetvl z ⟨1, 2, 0⟩ ⟨1, 0, 0, false, 0, false, false, 0⟩) cc ∧ cc.timedOf cc.actor = false ∧
      landsLast ((waited z cc).pendingRegs cc.actor) 1 0 = true) ∧
    (Unhindered z (.vsetvl z ⟨1, 2, 0⟩ ⟨1, 0, 0, false, 0, false, false, 0⟩) lb) ∧
    (Unhindered z (.dcount z ⟨1, 0, 0⟩ ⟨1, 0, 0, false, 0, false, false, 0⟩) ct) ∧ Unhindered z (.mstat z 1 3) ct := by
  simp only [Unhindered]; decide +kernel

def mm (d : Nat) : Instr := .mmul z ⟨0, 1, 2⟩ ⟨BitVec.ofNat 12 d, 0, false, 0, 0, 0, 0⟩

theorem witness_MatrixIssue :
    (Claims.matrix (mm 0) = some z ∧ Unhindered z (mm 0) cc ∧ meQueued ((waited z cc).core 0) (strOf (mm 0)) < 8 ∧
      (vecScalar (waited z cc) (mm 0) 1).toNat = 0 ∧ (vecScalar (waited z cc) (mm 0) 2).toNat = 0) ∧
    (let s := regs cc [(2, 1)]; Unhindered z (mm 0) s ∧ (vecScalar (waited z s) (mm 0) 2).toNat % 64 ≠ 0) ∧
    (let i : Instr := .mwbd z ⟨0, 1, 2⟩ ⟨0, 0, false, 0, 0, 0, 0⟩; let s := regs cc [(2, 3)]
     Unhindered z i s ∧ (vecScalar (waited z s) i 1).toNat ≤ 127 ∧ 2 < (vecScalar (waited z s) i 2).toNat) ∧
    (let i : Instr := .mrd z ⟨0, 1, 0⟩ ⟨0, 0, false, 0, 1, 0, 0⟩; let s := regs cc [(1, 128)]
     Unhindered z i s ∧ 128 < (vecScalar (waited z s) i 1).toNat + mrdRows 1) := by
  simp only [Unhindered]; decide +kernel

theorem witness_matrixFits : Claims.matrixFits (waited z cc) 0 (mm 0) 0 0 ∧ Claims.allAwake (waited z cc) 0 (mm 0) :=
  ⟨⟨by decide +kernel, by decide +kernel, by decide +kernel⟩, by simp only [Claims.allAwake]; decide +kernel⟩

/-- A command of the matrix engine in stream 0. -/
def meCmd (i : Instr) (done : Option Nat) : MCmd :=
  { id := 1, i := i, org := ⟨.c, 0, 0, false, 0⟩, c := 0, stamp := none, s1 := 0, s2 := 0, draw := 0, key := [], ident := 0,
    gated := false, iter := 0, seq := 0, levs := [],
    doneAt := done }

def withMe (i : Instr) (done : Option Nat) : State :=
  { core State.reset 0 fun x => { x with mcmds := [(0, [meCmd i done])] } with parts := [(0, { scc := 1 })], worked := done.isSome }

def mz0 : Instr := .mzero z ⟨0, 0, 0⟩ ⟨0, 0, false, 0, 0, 0, 0⟩

theorem witness_MatrixEvents :
    (let s := ofUnit (withMe mz0 none) 0
     meMayStart s s.unit s.sub = true ∧ (meHead (s.core s.unit) s.sub).isSome = true ∧ strOf mz0 = 0) ∧
    (let s := ofUnit (withMe mz0 (some 1)) 0
     s.worked = true ∧ (meDone s s.unit s.sub).isSome = true ∧ (s.core s.unit).cq.length < 64 ∧
      ((s.core s.unit).cqWait.all fun e => e.1 ≠ s.sub) = true ∧ s.sub < 4) := by
  decide +kernel

/-- Core 0 in schedule cycle c, and a command of its matrix engine that started in cycle 0. -/
def inCycle (c : Nat) : State := { State.reset with parts := [(0, { scc := c })] }
def started (i : Instr) : MCmd := { meCmd i none with s := some 0 }

theorem witness_MatrixWrites :
    ((started mz0).s = some 0 ∧ (inCycle 9).sccOf ((inCycle 9).partOfCore 0) = 0 + 9 ∧ (1 : Nat) < 8 ∧
      (inCycle 3).sccOf ((inCycle 3).partOfCore 0) = 0 + 2 + 1) ∧
    ((started (.mchk z ⟨0, 1, 0⟩ ⟨0, 0, true, 0, 0, 0, 0⟩)).s = some 0 ∧ (started (.mwbd z ⟨0, 1, 2⟩ ⟨0, 0, false, 0, 0, 0, 0⟩)).s = some 0 ∧
      (inCycle 0).sccOf ((inCycle 0).partOfCore 0) = 0) := by
  decide +kernel

/-! ### Hypotheses that can be met: row and memory instructions -/

/-- The LBP of `lb` with changed fields, owned by partition 0. -/
def lbWith (f : Lbp → Lbp) (rs : SMap DWord := []) : State :=
  let s : State := (lb.setLbp 0 (f (lb.lbp 0))).setField (offPart 0 rPlbp) 0 0 1
  s.modSeqr (.lbp 0) fun q => { q with regs := rs }

/-- A ring of rows of partition 0 that takes the rows of LBP 0's chain, and slice 0 with ingress. -/
def rowRing (s : State) : State :=
  ((((((s.setField (offPart 0 rPtsmask) 0 0 1).setField (offPart 0 rPtsmask) 32 32 1).setField (offLbpcfg 0) 23 16 0x80).setField
    (offRing 0 5) 51 48 15).setField (offRing 0 5) 52 52 1).setField (offRing 0 5) 59 53 1).setField (offRing 0 5 + 8) 23 0 4

theorem witness_RowsIn :
    (let s := lbWith (fun l => { l with ain := 1 })
     s.actor = .lbp 0 ∧ Unhindered z (.rowinWait z 1 2) s ∧ (s.rd 2).toNat < (s.lbp 0).ain) ∧
    (let s := lbWith (fun l => l); Unhindered z (.rowinWait z 1 2) s ∧ (s.lbp 0).ain ≤ (s.rd 2).toNat) ∧
    (let s := lbWith (fun l => { l with ain := 2 }) [(1, 2)]; Unhindered z (.rowinRel z 1) s ∧ (s.rd 1).toNat ≤ (s.lbp 0).ain - (s.lbp 0).rin) ∧
    (let s := lbWith (fun l => { l with ain := 2 }) [(1, 3)]; Unhindered z (.rowinRel z 1) s ∧ (s.lbp 0).ain - (s.lbp 0).rin < (s.rd 1).toNat) ∧
    (Unhindered z (.rowinCnt z 1) lb) ∧
    (let i : Instr := .tap z ⟨1, 2, 3⟩ true 0 8 1 1 0
     let s := (lbWith (fun l => l) [(2, 127 * 65536)]).setField (offLbpcfg 0) 15 8 2
     let w := waited z s
     Unhindered z i s ∧
       vecReady w s.actor i (lanesOf w s.actor i) (chunksOf true i (lanesOf w s.actor i)) (namedLane true i (vecScalar w i 2)) = true ∧
       tapSlotsOk w 0 (vecScalar w i 1) 1 = true ∧ slotComing w 0 (vecScalar w i 1) 1 = false) := by
  simp only [Unhindered]; and_intros <;> decide +kernel

/-- A stage whose next stage is LBP 1, with the row (1) and the row index and width (2) of a ROWOUT.NEXT. -/
def toNext (q x : DWord) (m : Nat := 1) : State :=
  (lbWith (fun l => { l with ain := 1 }) [(1, q), (2, x)]).setField (offLbpcfg 0) 31 24 m

theorem witness_RowsOut :
    (let s := toNext 0 (4096 <<< 16); let i : Instr := .rowoutNext z 1 2
     Unhindered z i s ∧ s.sendBusy 0 = false ∧ lbpNext s 0 < 64 ∧ nextFull (waited z s) 1 = false ∧
      bits (s.rd 2).toNat 28 16 = 4096 ∧ (s.lbp 0).holds (s.rd 1).toNat = true) ∧
    (let s := toNext 0 0 0xFF; Unhindered z (.rowoutNext z 1 2) s ∧ s.sendBusy 0 = false ∧ 64 ≤ lbpNext s 0) ∧
    (let s := toNext 0 (4097 <<< 16); Unhindered z (.rowoutNext z 1 2) s ∧ 4096 < bits (s.rd 2).toNat 28 16) ∧
    (let s := toNext 1 (1 <<< 16); Unhindered z (.rowoutNext z 1 2) s ∧ (s.lbp 0).holds (s.rd 1).toNat = false) ∧
    (let s := (lbWith (fun l => l) [(1, 4096), (2, 127)]).setField (offLbpcfg 0) 15 8 127
     Unhindered z (.rowoutSlot z 1 2) s ∧ lbpNin s 0 ≤ bits (s.rd 2).toNat 6 0 ∧ bits (s.rd 1).toNat 12 0 ≤ 4096) ∧
    (let s := lbWith (fun l => l) [(1, 4096), (2, 127)]; Unhindered z (.rowoutSlot z 1 2) s ∧ bits (s.rd 2).toNat 6 0 < lbpNin s 0) ∧
    (let s := (lbWith (fun l => l) [(1, 4097), (2, 127)]).setField (offLbpcfg 0) 15 8 2
     Unhindered z (.rowoutSlot z 1 2) s ∧ lbpNin s 0 ≤ bits (s.rd 2).toNat 6 0 ∧ 4096 < bits (s.rd 1).toNat 12 0) := by
  simp only [Unhindered]; and_intros <;> decide +kernel

/-- A row of w samples for TILEOUT to ring 5, which has reported a free unit. -/
def tiles (w : DWord) : State := { rowRing (lbWith (fun l => l) [(2, w <<< 16)]) with freeSeen := [(5, (1, 100))] }

theorem witness_Tileout :
    (let s := tiles 16; let r := reportFree (waited z s) 0 5
     Unhindered z (.tileout z 1 2 11 5 0) s ∧ s.partOf (.lbp 0) = 0 ∧ s.sendBusy 0 = false ∧ r.1 ≠ 0 ∧
      tileBad r.2 0 0 5 (bits (s.rd 2).toNat 28 16) = none) ∧
    (let s := tiles 0; let r := reportFree (waited z s) 0 5
     Unhindered z (.tileout z 1 2 11 5 0) s ∧ r.1 ≠ 0 ∧ tileBad r.2 0 0 5 (bits (s.rd 2).toNat 28 16) = some 2) := by
  simp only [Unhindered]; and_intros <;> decide +kernel

/-- Register 1 of a sequencer holds an address in core 0's scratchpad. -/
def atSpad (s : State) (off : DWord) : State := regs s [(1, 0x40000000 + off)]

theorem witness_LoadsAndStores :
    (let s := atSpad kk 0x7FFF8; let i : Instr := .ldD z 2 1 0
     s.actor = .core 0 .k ∧ Unhindered z i s ∧ Claims.load i s = some (z, 2, 8, 0x4007FFF8) ∧ badByte s 0 0x4007FFF8 8 = none ∧
      destFree (waited z s) 2 (accLat s 0 0x4007FFF8 8) = true) ∧
    (let s := atSpad kt 4; let i : Instr := .stWX z 2 1 (-4)
     Unhindered z i s ∧ Claims.store i s = some (z, 2, 4, 0x40000000) ∧ badByte s 0 0x40000000 4 = none) ∧
    (let s := atSpad kk 1; let i : Instr := .ldH z 2 1 0; Unhindered z i s ∧ Claims.load i s = some (z, 2, 2, 0x40000001)) ∧
    (let s := regs kk [(1, 0)]; let i : Instr := .stB z 2 1 0
     Unhindered z i s ∧ Claims.store i s = some (z, 2, 1, 0) ∧ badByte s 0 0 1 = some 0) := by
  simp only [Unhindered]; and_intros <;> decide +kernel

theorem witness_ManagementAccesses :
    (let s := regs (on .mgmt) [(1, 0x7FFFF8)]; let i : Instr := .ldD z 2 1 0
     s.actor = .mgmt ∧ Unhindered z i s ∧ Claims.load i s = some (z, 2, 8, 0x7FFFF8) ∧ s.me.fences = [] ∧
      destFree (waited z s) 2 1 = true) ∧
    (let s := regs (on .mgmt) [(1, 0x3FFFFC)]
     Unhindered z (.stW z 2 1 0) s ∧ Claims.store (.stW z 2 1 0) s = some (z, 2, 4, 0x3FFFFC) ∧ s.me.fences = []) ∧
    (let s := regs (on .mgmt) [(1, 0x400000)]
     Unhindered z (.stD z 2 1 0) s ∧ Claims.store (.stD z 2 1 0) s = some (z, 2, 8, 0x400000) ∧ s.me.fences = []) ∧
    (let s := (on .mgmt).modSeqr .mgmt fun q => { q with fences := [{ id := 0, scope := 4, v := 1 }] }
     Unhindered z (.stD z 2 1 0) s ∧ Claims.store (.stD z 2 1 0) s = some (z, 2, 8, 0) ∧ s.me.fences ≠ []) ∧
    (let s := regs (on .mgmt) [(1, 0x800000)]; Unhindered z (.ldB z 2 1 0) s ∧ Claims.load (.ldB z 2 1 0) s = some (z, 2, 1, 0x800000)) ∧
    (let s := regs (on .mgmt) [(1, 3)]; Unhindered z (.ldW z 2 1 0) s ∧ Claims.load (.ldW z 2 1 0) s = some (z, 2, 4, 3)) := by
  simp only [Unhindered]; and_intros <;> decide +kernel

theorem witness_MemoryFrame : Claims.memory (.ldD z 2 1 0) = true ∧ ∃ t, exec (.ldD z 2 1 0) (atSpad kk 0) = .next t :=
  ⟨by decide, goes_next (by decide +kernel)⟩

/-- A filled block of one line at L1D line 1, for the tile-store line at 0x100. -/
def filled : L1Ent := { valid := true, flag := true, nm1 := 0, line := 1, base := 0x100 }

theorem witness_AccessesPerform :
    (coreEccAt kk 0 0x40000000 8 = none ∧ eccOf kk 0x40000000 8 ≠ 1 ∧ l1Serves (kk.core 0) 0x40000000 8 = none) ∧
    (let s := core kk 0 fun x => { x with l1Dir := [(7, filled)] }
     coreEccAt s 0 0x178 8 = none ∧ l1Serves (s.core 0) 0x178 8 = some 7) ∧
    (let s : State := { kk with tsEcc := [(0, 2)] }; coreEccAt s 0 4 4 = some 4) ∧
    eccAt kk 0x40000000 8 = none := by
  decide +kernel

def xl : XL := ⟨false, 0, false, 0⟩
def xvLoad : XV := ⟨8, 0, 0, false, 0, false, false, 0⟩

theorem witness_VectorMemory :
    (let s := atSpad kk 0; let w := waited z s; let i : Instr := .vld z ⟨2, 1, 0⟩ xl
     Unhindered z i s ∧ s.timedOf s.actor = false ∧
      portReady w 0 [] ((List.range 8).map fun k => (2, k, s.now s.actor + chunkLat w 0 (chunkRuns w 1 0 xl 0) + k)) = true ∧
      boundsOf (runFaults w 0 64 ((List.range 8).flatMap fun k => bare (chunkRuns w 1 0 xl k)) true ++ tagFaults w 0 xl) = none) ∧
    (let s := atSpad ct 0; let w := waited z s; let i : Instr := .vst z ⟨2, 1, 0⟩ xl
     Unhindered z i s ∧ checkRuns w 0 64 ((List.range 8).flatMap fun k => bare (chunkRuns w 1 0 xl k)) true = none) ∧
    (let s := (atSpad ct 0).modSeqr (.core 0 .c) fun q => { q with csr := [(0x020, 2)] }; let w := waited z s
     let i : Instr := .vldx z ⟨2, 1, 3⟩ xvLoad; let els := indexed w 0 (lanesOf w (.core 0 .c) i) 1 1 3 xvLoad
     Unhindered z i s ∧ indexHeld w 0 2 (s.now s.actor) 3 false = true ∧ checkIndexed w 0 1 true els = none ∧ els.length = 2) ∧
    (let s := (atSpad ct 0).modSeqr (.core 0 .c) fun q => { q with csr := [(0x020, 2)] }; let w := waited z s
     let i : Instr := .vstx z ⟨2, 1, 3⟩ xvLoad; let els := indexed w 0 (lanesOf w (.core 0 .c) i) 1 1 3 xvLoad
     Unhindered z i s ∧ indexHeld w 0 2 (s.now s.actor) 3 false = true ∧ checkIndexed w 0 1 true els = none ∧
      (lastAt els).length = 1) ∧
    (let s := atSpad kk 0; let w := waited z s
     Unhindered z (.rdq z ⟨48, 1, 0⟩ xl) s ∧ portFree w 0 = true ∧ queueRoom w 0 0 1 = true ∧
      boundsOf (runFaults w 0 64 (bare (chunkRuns w 1 0 xl 0)) true ++ tagFaults w 0 xl) = none) ∧
    (let w := waited z kk
     Unhindered z (.wrq z 48 2 7 0) kk ∧ portReady w 0 ((List.range 8).map fun j => (2, j, kk.now kk.actor + j)) [] = true ∧
      wrqHeld w 0 8 (kk.now kk.actor) 2 = true ∧ queueRoom w 0 0 8 = true) ∧
    (let w := waited z ct
     Unhindered z (.wrq z 48 2 7 0) ct ∧ ct.timedOf ct.actor = true ∧ wrqHeld w 0 1 (ct.now ct.actor) 2 = true ∧ ((w.core 0).queue 0).length - popsNow w 0 0 0 < 16) := by
  simp only [Unhindered]; and_intros <;> decide +kernel

/-- Register 1 names entry 7, 2 the block at 0x100 of slice 0, 3 two lines from line 6,142. -/
def block (r3 : DWord := 6142 + 65536) (x : SMap L1Ent := []) : State :=
  core (rowRing (regs kk [(1, 7), (2, 0x100), (3, r3)])) 0 fun y => { y with l1Dir := x }

theorem witness_LoadBlocks :
    (let s := block; let w := waited z s; let i : Instr := .lblk z ⟨1, 2, 3⟩ xl
     Unhindered z i s ∧ (s.rd 3).toNat % 8192 + 2 ≤ 6144 ∧
      boundsOf (runFaults w 0 128 [(0x100, 256)] true ++ tagFaults w 0 xl) = none ∧ regionOf 0x100 = .tile 0) ∧
    (Unhindered z (.lblk z ⟨1, 2, 3⟩ xl) (block (6143 + 65536)) ∧ 6144 < 6143 + 2) ∧
    (Unhindered z (.lbinv z 1) block) ∧
    (Unhindered z (.lbwb z 1) block ∧ (sget {} (block.core 0).l1Dir 7).valid = false) ∧
    (let s := block 0 [(7, filled)]; Unhindered z (.lbwb z 1) s ∧ (sget {} (s.core 0).l1Dir 7).valid = true ∧ Unhindered z (.lbst z 4 1) s) := by
  simp only [Unhindered]; and_intros <;> decide +kernel

theorem witness_BlockEntries : filled.valid = true ∧ look (core kk 0 fun x => { x with l1Dir := [(7, filled)] }).cores 0 ≠ none ∧
    look [((7 : Nat), filled)] 7 = some filled ∧ filled.line + filled.nm1 < 2 := by decide +kernel

def xs : XS := ⟨1, 5⟩

theorem witness_Rings :
    (let s := regs kk [(1, 2 ^ 48 - 1)]
     Unhindered z (.rclaim z ⟨2, 1, 0⟩ xs) s ∧ (s.rd 1).toNat < 2 ^ 48 ∧ (s.ring (s.partOfCore 0) xs.ring.toNat).home = dieOf 0 ∧
      destFree (waited z s) 2 4 = true ∧ destFree (waited z s) 39 4 = true) ∧
    (Unhindered z (.rpub z ⟨0, 1, 0⟩ xs) (regs kt [(1, 2 ^ 48)]) ∧ 2 ^ 48 ≤ ((regs kt [(1, 2 ^ 48)]).rd 1).toNat) ∧
    Unhindered z (.rrel z ⟨0, 1, 0⟩ xs) kt ∧
    (let s := kk.setField (offRing 0 5 + 8) 23 0 4; let r := s.ring 0 5
     ringBad s 0 5 0 4 = none ∧ 4 ≤ r.cap - (r.claim - r.rel) ∧ r.cap - (r.claim - r.rel) < 5 ∧ ringBad s 0 5 1 0 = none ∧
      ringBad s 0 5 2 0 = none) ∧ (ringBad kk 0 5 0 1).isSome = true := by
  simp only [Unhindered]; and_intros <;> decide +kernel

theorem witness_Awaits :
    (Unhindered z (.awfill z ⟨0, 1, 0⟩ xs) kt ∧ kt.timedOf kt.actor = true ∧
      ¬ ((kt.core 0).tsb + 256 * xs.bnd.toNat < kt.now kt.actor + 33 ∨ 8 ≤ (kt.core 0).awaits.length)) ∧
    (Unhindered z (.awwin z ⟨0, 1, 0⟩ ⟨0, 5⟩) kt ∧ (kt.core 0).tsb + 256 * 0 < kt.now kt.actor + 33) ∧
    (let s := atSpad kk 0; let i : Instr := .awcmp z .eq ⟨0, 2, 1⟩ ⟨0, 0⟩; let w := waited z s
     Unhindered z i s ∧ s.timedOf s.actor = false ∧ checkRuns w 0 8 [((s.rd 1).toNat, 8)] false = none ∧
      awaitBad w 0 4 0 = false ∧ awaitTrue w 0 .k 4 0 (s.rd 2) (s.rd 1).toNat = true ∧
      awaitTrue w 0 .k 5 0 (s.rd 2) (s.rd 1).toNat = false ∧ Unhindered z (.awcmp z .ne ⟨0, 2, 1⟩ ⟨0, 0⟩) s ∧ s.me.fences = []) ∧
    (let s := kk.modSeqr (.core 0 .k) fun q => { q with fences := [{ id := 0, scope := 3, v := 1 }] }
     Unhindered z (.awfill z ⟨0, 1, 0⟩ xs) s ∧ s.timedOf s.actor = false ∧ s.me.fences ≠ []) ∧
    (Unhindered z (.awfree z ⟨0, 1, 0⟩ ⟨0, 5⟩) kk ∧ awaitBad (waited z kk) 0 1 5 = true ∧ awaitBad (waited z kk) 0 2 5 = true) := by
  simp only [Unhindered]; and_intros <;> decide +kernel

theorem witness_PhasesFencesMonitors :
    Unhindered z (.phase z 3) kk ∧ Unhindered z (.pset z 1 true 7 1 2) kt ∧ Unhindered z (.fence z 4 3) kk ∧ Unhindered z (.fence z 4 3) kt ∧
    Unhindered z (.monwait z 1) kk ∧ Unhindered z (.monwait z 1) ct ∧
    (let s := atSpad kk 8; Unhindered z (.brmw z ⟨2, 1, 3⟩ ⟨6, 3, 4, false⟩) s ∧ (s.rd 1).toNat % 8 = 0 ∧ badByte s 0 (s.rd 1).toNat 8 = none ∧
      destFree (waited z s) 2 (rmwLat 0 (s.rd 1).toNat + 2) = true) ∧
    (let s := atSpad kk 4; Unhindered z (.brmw z ⟨2, 1, 3⟩ ⟨6, 3, 4, false⟩) s ∧ (s.rd 1).toNat % 8 ≠ 0) ∧
    (let s := kk.modSeqr (.core 0 .k) fun q => { q with park := some ⟨0, 0⟩ }
     s.me.park = some ⟨0, 0⟩ ∧ 0 ≤ s.now s.actor ∧ s.unitRuns s.actor = true) := by
  simp only [Unhindered]; and_intros <;> decide +kernel

theorem witness_PushAndPop :
    (Unhindered z (.push z ⟨1, 2, 0⟩ ⟨0, 3, false, 0, 0, 0, 0⟩) kk ∧ ceQueued (kk.core 0) 3 < 8) ∧
    (let cmd : CCmd := { id := 0, org := ⟨.k, 0, 0, false, 0⟩, str := 3, c := 0, stamp := none, d := [], iter := 0, seq := 0, levs := [] }
     let s := core kk 0 fun x => { x with ccmds := [(3, List.replicate 8 cmd)] }
     Unhindered z (.push z ⟨1, 2, 0⟩ ⟨0, 3, false, 0, 0, 0, 0⟩) s ∧ 8 ≤ ceQueued (s.core 0) 3) ∧
    (Unhindered z (.pop z 1 true) kk ∧ popsBefore (waited z kk) 0 .k = 0) ∧
    (let s := core kk 0 fun x => { x with cq := [{ word := 1 }] }
     Unhindered z (.pop z 1 false) s ∧ popsBefore (waited z s) 0 .k < (s.core 0).cq.length - popsMade (s.core 0) .k) ∧
    (let l : Landing := ⟨0, 1, ⟨.k, 0, 0, false, 0⟩, .cqPop .k 1 true, []⟩
     let s := core kk 0 fun x => { x with pend := [l] }
     (1 : Code) ≠ 39 ∧ (1 : Code) + 1 ≠ 39 ∧ (s.core 0).pend = [l] ∧ l.due = s.sccOf (s.partOfCore 0)) := by
  simp only [Unhindered]; and_intros <;> decide +kernel

/-! ### Hypotheses that can be met: DRAM, copies, holds, tasks -/

def dc : State := on (.dcs 0) true
def q0 : DQ := ⟨1, false, 3⟩
/-- A pin command of quarter-slot 1 in the first cycle. -/
def pin0 (kind bank : Nat) : PinCmd := ⟨kind, 0, bank, 1, 1, false⟩

theorem witness_DramCommands :
    (dc.actor = .dcs 0 ∧ Claims.pins (.dact z q0 7) = some (z, 0, 1, 0, 3) ∧ Unhindered z (.dact z q0 7) dc ∧
      violations (waited z dc) 0 ((waited z dc).dcsAt 0) (pin0 0 3) = []) ∧
    (Claims.pins (.drd z q0 0 0) = some (z, 1, 1, 0, 3) ∧ Unhindered z (.drd z q0 0 0) (rowRing dc |>.setField (offPart 0 rChown) 0 0 1) ∧
      ownsTile (rowRing dc |>.setField (offPart 0 rChown) 0 0 1) ((rowRing dc |>.setField (offPart 0 rChown) 0 0 1).partOf (.dcs 0)) 0 = true ∧
      violations (waited z dc) 0 ((waited z dc).dcsAt 0) (pin0 1 3) = [0x12]) := by
  simp only [Unhindered]; and_intros <;> decide +kernel

theorem witness_RowsOpenAndClose :
    (Unhindered z (.dpre z q0) dc ∧ violations (waited z dc) 0 ((waited z dc).dcsAt 0) (pin0 3 3) = []) ∧
    (Unhindered z (.dprea z 1 false) dc ∧ violations (waited z dc) 0 ((waited z dc).dcsAt 0) (pin0 4 0) = []) := by
  simp only [Unhindered]; and_intros <;> decide +kernel

theorem witness_IdleAndSync : Unhindered z (.didle z 262143) dc ∧ Unhindered z (.dsync z 255) dc := by
  simp only [Unhindered]; and_intros <;> decide +kernel

theorem witness_DramTimingAndData :
    (pin0 0 3).own = false ∧ (∀ p ∈ [pin0 0 3], p.own = false) ∧
    (let o : ColOp := { c := 0, wr := true, burst := 0, wb := none, addr := 0, due := 0 }; o.wr = true ∧ o.due = dc.now (.dcs 0)) ∧
    (let o : ColOp := { c := 0, wr := false, burst := 0, wb := some 3, addr := 0, due := 9, data := some [1] }
     o.wr = false ∧ o.data = some [1] ∧ o.wb = some 3 ∧ o.bad = false) := by
  and_intros <;> decide +kernel

/-- Channel 0 with tREFI 1 of its profile loaded, in wall cycle c. -/
def refr (c : Nat) (f : Dcs → Dcs) : State :=
  let s : State := { State.reset with wcc := c }
  (s.setDcs 0 (f (s.dcsAt 0))).setField (offDcs 0 (rDtim 2)) 11 0 1

/-- A migration of entry 5 of bank 3 in sub-channel A of channel 0 is under way. -/
def moving (dirty : Nat) : State :=
  (((refr 1 fun d => { d with mig := some (0, 3, 5) }).setField (offDcs 0 rMigctl) 9 0 (512 + 3 * 16 + 5)).setField (offDcs 0 (rDirty 0 3 5)) 63 0 dirty).setField
    (offDcs 0 (rRemap 0 3 5)) 19 17 5

theorem witness_DramEvents :
    (refreshDue (ofUnit (refr 100 fun d => d) 0) 0 0 = true) ∧
    (let s := ofUnit (refr 1 fun d => { d with owed := [(0, 1)] }) 0; (idleRefreshDue s s.unit s.sub).isSome = true) ∧
    (let s : State := { ofUnit (refr 1 fun d => { d with owed := [(0, 1)] }) 0 with parts := [(0, { hold := { held := true } })] }
     let t := s.setField (offPart 0 rChown) 0 0 1
     (holdRefreshDue t t.unit t.sub).isSome = true) ∧
    (pollDue (refr 0 fun d => d) 0 = true) ∧
    (switchDue (moving 0) 0 = some (0, 3, 5)) ∧
    (switchDue (moving 1) 0 = none ∧ (passDue (moving 1) 0).isSome = true ∧ migEntry (moving 1) 0 = some (0, 3, 5) ∧
      ((moving 1).dcsAt 0).mem.wf = true) := by
  and_intros <;> decide +kernel

/-- A command of the copy engine in stream 0, with its code in D0. -/
def ceCmd (d0 : DWord) (f : CCmd → CCmd := id) : CCmd :=
  f { id := 1, org := ⟨.k, 0, 0, false, 0⟩, str := 0, c := 0, stamp := none, d := [d0, 0, 0, 0, 0, 0, 0, 0], iter := 0, seq := 0, levs := [] }

def withCe (d0 : DWord) (f : CCmd → CCmd := id) (scc : Nat := 1) : State :=
  { core State.reset 0 fun x => { x with ccmds := [(0, [ceCmd d0 f])] } with parts := [(0, { scc := scc })], wcc := 1000000 }

theorem witness_CopyCommands :
    (let s := withCe 0; Claims.starts .copy1d = some 0 ∧ ceMayStart s s.unit s.sub = some (ceCmd 0) ∧ (ceCmd 0).code = 0 ∧
      (ceCmd 0).bad = 0 ∧ (ceCmd 0).str = s.sub) ∧
    (let f : CCmd → CCmd := fun c => { c with bad := 2, doneAt := none }
     let s := withCe 7 f; Claims.starts .coll = some 7 ∧ ceMayStart s s.unit s.sub = some (ceCmd 7 f) ∧ (ceCmd 7 f).code = 7) ∧
    (let f : CCmd → CCmd := fun c => { c with remote := true }
     let s := withCe 7 f; ceMayStart s s.unit s.sub = some (ceCmd 7 f) ∧ (ceCmd 7 f).bad = 0 ∧ (ceCmd 7 f).peer = false) ∧
    (let f : CCmd → CCmd := fun c => { c with doneAt := some 1 }
     let s : State := { withCe 0 f with worked := true }
     ceDone s s.unit s.sub = some (ceCmd 0 f) ∧ (ceCmd 0 f).status < 2 ^ 16 ∧ (s.core s.unit).cq.length < 64 ∧
      ((s.core s.unit).cqWait.all fun e => e.1 ≠ 4 + s.sub) = true) ∧
    (let s : State := { core State.reset 0 fun x => { x with cqWait := [(4, { word := 1 })] } with worked := true }
     wordDue s s.unit = true ∧ (s.core s.unit).cqWait = [(4, { word := 1 })] ∧ ∀ f ∈ (s.core s.unit).cqWait, f.1 < 8) ∧
    (let f : CCmd → CCmd := fun c => { c with s := some 0 }
     let s := withCe 7 f; collLate s s.unit s.sub = some (ceCmd 7 f)) := by
  and_intros <;> decide +kernel

theorem witness_CopyData :
    (let c := ceCmd (257 <<< 32); c.code = 0 ∧ bits (c.dn 0) 63 32 = 257 ∧ c.dn 1 + 257 ≤ 2 ^ 64 ∧ c.dn 2 + 257 ≤ 2 ^ 64 ∧ 256 < 257) ∧
    (let c := ceCmd (2 + (1 <<< 32)); c.code = 2 ∧ 0 < bits (c.dn 0) 63 32) ∧
    (let x := (ceCmd (1 <<< 32)).group 0; x.kind = .bytes ∧ x.last = 8 ∧ x.len = x.n ∧ ([7] : Bytes).length = x.n ∧ 0 < x.n) ∧
    (let f : CCmd → CCmd := fun c => { c with s := some 0, groups := 1, doneAt := none, fly := [(0, [7])] }
     let c := ceCmd (1 <<< 32) f
     let s := withCe (1 <<< 32) f (c.ls + c.ld)
     let st := ceCmd (1 <<< 32) fun c => { f c with stamp := some 0 }
     let u := withCe (1 <<< 32) (fun c => { f c with stamp := some 0 }) (c.ls + c.ld)
     c.writeNow (s.sccOf (s.partOfCore 0)) = some 0 ∧ c.moving = true ∧ (c.data 0).length = (c.group 0).n ∧ c.rcdAt = none ∧
      (s.core 0).ccmds = [(0, [c])] ∧ ereqOf s c.id = none ∧
      st.writeNow (u.sccOf (u.partOfCore 0)) = some 0 ∧ st.moving = true ∧ st.stamp.isSome = true ∧ st.stall = false ∧
      allCe (u.core 0) = [st]) ∧
    (let s := rowRing (withCe 0); let f : CCmd → CCmd := fun c => { c with s := some 0, groups := 1, fly := [(0, [7])] }
     ceBadNow s 0 (ceCmd (1 <<< 32) f) ((ceCmd (1 <<< 32) f).ls + (ceCmd (1 <<< 32) f).ld) = none) ∧
    (let e : EReq := { id := 0, g := 0, agent := 400, arrive := 0, parts := [], orig := origCd 0 }
     e.org = none ∧ dieOf e.g < 2 ∧ e.orig = origCd (dieOf e.g)) := by
  and_intros <;> decide +kernel

/-- Partition 0 with changed fields, named for an event. -/
def part0 (f : Part → Part) : State := { State.reset with parts := [(0, f {})] }
/-- Core 0 of a running task has registered an await of kind 4 for offset 256, on a value that is not there. -/
def awaiting (s : State) : State :=
  core { s with tasks := [(0, { part := 0, st := .running, members := [0] })] } 0 fun x =>
    { x with task := some 0, st := .body, awaits := [⟨256, 256, 4, 0, 1, 0x40000000, ⟨.k, 0, 0, true, 0⟩⟩] }

theorem witness_HorizonsAndHolds :
    (let s := awaiting (part0 fun x => { x with scc := 224 })
     horizonDue s 0 = true ∧ (∀ e ∈ awaitsFor s 0 256, awaitStop s e.1 e.2.kind e.2.ring e.2.addr (e.2.org.w0.setWidth 64) = none) ∧ (awaitsFor s 0 256).length = 1) ∧
    (boundaryDue (part0 fun x => { x with scc := 256 }) 0 = true) ∧
    (levelDue (part0 fun x => { x with scc := 256, boundDone := 256, newLevel := [(3, 200)] }) 0 = some 3) ∧
    (let s := part0 fun x => { x with scc := 256, boundDone := 256, horizonDone := 256, awHit := true, slotHit := true, hold := { awaitOpen := true } }
     holdDue s 0 = true ∧ mustHold s 0 = true ∧ (s.part 0).awHit = true ∧ (s.part 0).slotHit = true) ∧
    (let s : State := { part0 fun x => { x with retry := [(0, 0)], scc := 1 } with wcc := 1 }; holdDue s 0 = true ∧ mustHold s 0 = false) := by
  and_intros <;> decide +kernel

theorem witness_HoldsEnd :
    (decideDue (part0 fun x => { x with hold := { held := true, awaitOpen := true } }) 0 = true) ∧
    (slotEndDue (part0 fun x => { x with hold := { held := true, slotEnd := some 0 } }) 0 = true) ∧
    (releaseDue (part0 fun x => { x with hold := { held := true } }) 0 = true ∧ (({ held := true } : Hold)).off = false) ∧
    (let s := awaiting { part0 fun x => { x with scc := 256, hold := { held := true, awaitOpen := true, b := 256, horizon := 7200000 } } with wcc := 8000000 }
     (awaitLapse s 0).isSome = true ∧ budgetDue s 0 = true ∧ (s.part 0).hold.awaitOpen = true) ∧
    (let s : State := { kk with wcc := 800000 }.modSeqr (.core 0 .k) fun q => { q with blocked := true, wait0 := some 0 }
     awaitLapse s 0 = none ∧ tokenedLapse s 0 = some (.core 0 .k)) := by
  and_intros <;> decide +kernel

/-- READY is set, partition 0 owns slice 0, and a launch is pending by the loop-nest record at 0, whose image stands at
0x1000; the record's bytes are given where they are not 0. -/
def launching (rec : Mem) (k : Task) : State :=
  let m : Mem := (rec ++ [(33, 0x10)]) ++ [(0x1000, 0x39), (0x1001, 0x4D), (0x1002, 0x4E), (0x1003, 0x4C), (0x1004, 1)]
  let s : State := { State.reset with view0 := m, view1 := m, tasks := [(0, k)], taskNo := 1 }
  (s.setField offStatus 0 0 1).setField (offPart 0 rPtsmask) 0 0 1

theorem witness_TasksRun :
    (let s := bar0Write State.reset (offTrig 0 5) [0x16]; wccDue s 0 5 = true ∧ activeTask s 0 5 = false) ∧
    (let s := launching [] { part := 0 }
     launchNext s 0 = some 0 ∧ launchBad s (s.task 0) (nestOf s (s.task 0)) = none ∧ nestKt (nestOf s (s.task 0)) ≠ 0 ∧
      (domainOf s (nestOf s (s.task 0))) = [0]) ∧
    (let s := launching [(0, 1)] { part := 0 }
     launchNext s 0 = some 0 ∧ launchBad s (s.task 0) (nestOf s (s.task 0)) = none ∧ nestKt (nestOf s (s.task 0)) = 0) ∧
    (let s := launching [(0, 7)] { part := 0 }
     launchNext s 0 = some 0 ∧ (launchBad s (s.task 0) (nestOf s (s.task 0))).isSome = true) ∧
    (launchNext (launching [] { part := 0, st := .preempted }) 0 = some 0 ∧
      launchNext (launching [] { part := 0, st := .preempted, restartMark := true }) 0 = some 0) := by
  and_intros <;> decide +kernel

/-- Core 0 of task 0 with changed fields, in partition 0 at scc. -/
def member (k : Task) (f : Core → Core) (scc : Nat := 1) : State :=
  let s : State := { State.reset with tasks := [(0, k)], parts := [(0, { scc := scc })] }
  core s 0 fun x => f { x with task := some 0, st := .body }

def run0 : Task := { part := 0, st := .running, members := [0], kt := 1 }

theorem witness_IterationsRun :
    (let s : State := { member run0 id with worked := true }; mayRetire s 0 = true ∧ sget 0 (s.task 0).nextK 0 < (s.task 0).kt) ∧
    (let s : State := { member { run0 with nextK := [(0, 1)] } id with worked := true }
     mayRetire s 0 = true ∧ (s.task 0).kt ≤ sget 0 (s.task 0).nextK 0) ∧
    (tsbDue (member run0 fun x => { x with st := .entry }) 0 = true) ∧
    (let s : State := ({ member { run0 with slen := 1 } id with wcc := 10000 } : State).setField (offFctl 0) 23 16 1
     lateIteration s 0 = true) := by
  and_intros <;> decide +kernel

theorem witness_Preemption :
    (let s := member run0 fun x => { x with safept := some 0 }; preemptDue s 0 = true ∧ notEmpty s 0 = false) ∧
    (let s := member run0 fun x => { x with safept := some 0, dq := [0] }; preemptDue s 0 = true ∧ notEmpty s 0 = true) ∧
    (saveDone (member { run0 with st := .saving } id) 0 = true) ∧
    (let s := member { run0 with st := .restoring, ctx := [(0, { st := .body, iter := 3 })] } id
     restoreDone s 0 = true ∧ ctxBad s 0 = false) ∧
    (let s := member { run0 with st := .restoring, ctx := [(0, { st := .body })] } id
     let t : State := { s with tsEcc := [(ctxSlot s 0 0 / 8, 2)] }
     restoreDone t 0 = true ∧ ctxBad t 0 = true) := by
  and_intros <;> decide +kernel

def asked (a : Nat) (r : Nat := 0) : State := member { run0 with broken := true, dead := [(0, a)], restarts := r } id

theorem witness_BreaksAndRecovery :
    (breakDue (member run0 fun x => { x with trap := { breakAt := some 1 } }) 0 = some (0, 1)) ∧
    (recoveryDue (asked 2) 0 = true ∧ actionOf (asked 2) 0 = 1) ∧ (recoveryDue (asked 3) 0 = true ∧ actionOf (asked 3) 0 = 2) ∧
    (recoveryDue (asked 3 1) 0 = true ∧ actionOf (asked 3 1) 0 = 3) ∧
    (let s := member run0 (fun x => { x with phWait := some 0 }) 10; phaseDue s 0 = some (0, [0]) ∧
      firstOverlap (overlaps (([0] : List Nat).flatMap (declared s))) = none) ∧
    (let s := member run0 (fun x => { x with phWait := some 0, psets := [(0, (0, 8)), (8, (0, 8)), (40, (4, 8))] }) 10
     phaseDue s 0 = some (0, [0]) ∧ (firstOverlap (overlaps (([0] : List Nat).flatMap (declared s)))).isSome = true) ∧
    (wakeDone (member run0 fun x => { x with wake := [(0, (1, 1))] }) 0 0 = true) ∧
    (let s : State := { member run0 (fun x => { x with s := { run := true, len := 64, segs := [⟨0, false, 0⟩, ⟨8, true, 1⟩] } }) with
       actor := .core 0 .s }
     deadlineDue s s.actor = some ⟨8, true, 1⟩ ∧ (s.core 0).trap.stopAfter = none) ∧
    (let s : State := { member run0 (fun x => { x with marks := [⟨.k, 1, 2, 3, 4⟩] }) with worked := true }
     markDue s 0 = some ⟨.k, 1, 2, 3, 4⟩ ∧ s.csPend = []) := by
  and_intros <;> decide +kernel

/-! ### Hypotheses that can be met: sensors, host, management, time -/

/-- Port p has configuration v, belongs to partition 0, and is in state x. -/
def ported (p : Nat) (v : Nat) (x : Port) : State :=
  let s : State := State.reset.setPort p x
  (s.setField (if p < 16 then offCamcfg p else offLidcfg (p - 16)) 63 0 v).setField (offPart 0 rPport) p p 1

/-- A camera port: EN, virtual channel 2, data type RAW8, 3 samples a row, 2 rows. -/
def camera : Nat := 1 + 2 * 2 ^ 20 + 0x2A * 2 ^ 26 + 3 * 2 ^ 32 + 2 * 2 ^ 48
/-- A lidar port: EN, 2 rows, column index at byte 4, 1 point a row of 2 bytes, UDP port 7. -/
def lidar : Nat := 1 + 2 * 2 + 4 * 2 ^ 16 + 1 * 2 ^ 32 + 2 * 2 ^ 40 + 7 * 2 ^ 48

theorem witness_SensorRows :
    (let s := ported 0 camera {}; portOn s 0 = true ∧ (2 : Nat) = bits (portCfg s 0) 23 20 ∧ (3 : Nat) ≠ bits (portCfg s 0) 23 20) ∧
    (portOn State.reset 0 = false) ∧
    (let s := ported 0 camera { open_ := true }; let di := 0x2A + 64 * 2
     sampleBits (di % 64) = some 8 ∧ portOn s 0 = true ∧ di % 64 = bits (portCfg s 0) 31 26 ∧ di / 64 = bits (portCfg s 0) 23 20 ∧
      (s.port 0).open_ = true ∧ (s.port 0).ix < portRows s 0 ∧ (s.port 0).na ≤ (s.port 0).ix ∧ (s.port 0).lost = [] ∧
      ([1, 2, 3, 4, 5, 6] : Bytes).length = 2 * portWid s 0 ∧ firstStage s 0 = some 0 ∧ ringFull s 0 = false) ∧
    (let s := ported 0 camera { open_ := true, ix := 2 }; portOn s 0 = true ∧ portRows s 0 ≤ (s.port 0).ix) ∧
    (let s := ported 16 lidar {}; portOn s 16 = true ∧ (7 : Nat) = bits (portCfg s 16) 63 48 ∧ bits (portCfg s 16) 23 16 + 2 ≤ 6) ∧
    (let s : State := { (ported 0 camera { open_ := true }).setField (offPtim 0) 47 32 1 with worked := true, tb := 1001 * 2 ^ 28 }
     s.worked = true ∧ deadlinePassed s 0 = true) ∧
    (let s : State := { ported 0 camera { lost := [(0, 1)] } with worked := true }; overrunDue s 0 = some (0, 0, 1)) ∧
    (let s : State := { State.reset.setLbp 0 { State.reset.lbp 0 with sends := [(0, .publish 5 0 0 {})] } with worked := true }
     publishDue s 0 = some (0, .publish 5 0 0 {})) := by
  and_intros <;> decide +kernel

/-- A fusion set of port 0 alone, which is its reference, with candidates. -/
def fusing (x : FusionSet) (worked : Bool) : State :=
  { (State.reset.setFset 0 x).setField (offFscfg 0) 63 0 (1 + 2 ^ 29) with worked := worked }

theorem witness_ShutterSteps :
    (decidable? (fusing { cands := [⟨0, 5, 0⟩] } false) 0 = some ⟨0, 5, 0⟩) ∧
    (let s := ((fusing { due := [(0, [7])] } true).setField (offRing 0 0 + 8) 23 0 4)
     decidable? s 0 = none ∧ windowDue s 0 = some [7]) ∧
    (deadDue (fusing { cands := List.replicate 5 ⟨0, 5, 0⟩ } false) 0 = some ⟨0, 5, 0⟩) := by
  and_intros <;> decide +kernel

/-- Queue 3 of partition 0, TAIL 1, is bound to slot 2; the partition translates, and page 0 of host space is cached on CD0. -/
def queued (cached : Bool) : State :=
  let s : State := { part0 (fun x => { x with slots := [(2, 4)], xl0 := if cached then [⟨0x8000000000, 4096, 0, 15⟩] else [] }) with taskNo := 9 }
  ((((s.setField (offQdesc 3 + 16) 31 0 1).setField (offPart 0 rPtroot) 0 0 1).setField (offQdesc 3) 63 0 0x8000000000).setField
    (offPart 0 rPhwin) 63 0 0xFFFFFFFFFFFFFFFF).setField (offPart 0 rPtsmask) 0 0 1

theorem witness_HostQueues :
    ((64 : Nat) % 64 = 0 ∧ (65 : Nat) % 64 ≠ 0) ∧
    (bindDue { State.reset with notified := [0] } 0 = true) ∧
    (slotDue (queued false) 0 2 = some 3 ∧ (queued false).hostUp = true) ∧
    (let s : State := { queued false with hostUp := false }; slotDue s 0 2 = some 3) ∧
    (cdaDue { State.reset with cdaWait := [(3, 1, 2)] } 3 = some (1, 2)) ∧
    ((cdaDue { State.reset with cdaWait := [(3, 1, 0)] } 3).isSome = true) ∧
    ((walkDone { State.reset with walks := [⟨1, 0, 0, 0, 1, .slot 0 2, some ⟨0, 4096, 0, 15⟩, none⟩] } 0).isSome = true) ∧
    (outstTag State.reset 1 = none) ∧
    (let s : State := { queued true with outst := [⟨1, 0, .entry 0 2⟩], wcc := 400000 }
     outstTag s 1 = some ⟨1, 0, .entry 0 2⟩ ∧ sget 0 (s.part 0).slots 2 = 3 + 1 ∧ timedOut s 1 = some ⟨1, 0, .entry 0 2⟩) := by
  and_intros <;> decide +kernel

/-- BAR2 maps its first 2 MiB to slice 0 of partition 0, with atomics; HSLOT has two slots. -/
def mapped : State :=
  (((State.reset.setField (offPart 0 rPtsmask) 0 0 1).setField (offBar2map 0) 63 62 3).setField (offPart 0 rHslot) 15 8 2)

theorem witness_OutsideRequests :
    (bar2Fits 0 4096 = true ∧ bar2Maps mapped 0 4096 = true ∧ bar2Maps State.reset 0 4096 = false) ∧
    (barFits (2 ^ 28 + 2 ^ 22 + 2 ^ 16 - 4) 4 = true) ∧
    (bar2Fits 8 8 = true ∧ bar2Maps mapped 8 8 = true ∧ mapped.fieldOf (offBar2map 0) 62 62 = 1 ∧
      2 ≤ mapped.fieldOf (offPart (bar2Part mapped 8) rHslot) 15 8) ∧
    (let s := mapped.setField (offPart 0 rPtsmask) 0 0 0
     bar2Maps s 8 8 = false ∧ s.fieldOf (offBar2map 0) 62 62 = 1 ∧ 2 ≤ s.fieldOf (offPart (bar2Part s 8) rHslot) 15 8) ∧
    (let s : State := { mapped with peerUp := true }
     s.peerUp = true ∧ inSlices s 0 0x40 4 = true ∧ inSlices State.reset 0 0x40 4 = false ∧
      inSlices s 0 (s.fieldOf (offPart 0 rPmsga) 47 0) 16 = true) ∧
    (let s := bar0Write State.reset (offTrig 0 5) [0x14]
     recArm (launchRec s 0 5) = true ∧ recSrc (launchRec s 0 5) = 4 ∧ recTag (launchRec s 0 5) = (s.part 0).msgTag ∧
      activeTask s 0 5 = false) := by
  and_intros <;> decide +kernel

theorem witness_RegisterWrites :
    ((State.reset.setField offCfglock 0 0 1).locked 0 = true) ∧
    (let s := State.reset.setField offTbctl 7 5 4; s.fieldOf offTbctl 7 5 = 4 ∧ State.reset.fieldOf offTbctl 7 5 = 0) ∧
    (let s := State.reset.setField (offPart 0 rPlbp) 63 63 1
     (s.lbpOwner 63).isSome = true ∧ (s.lbp 63).seqr.run = false ∧ (s.lbpOwner 62).isSome = false ∧ (lb.lbp 0).seqr.run = true) ∧
    (windowCore (State.reset.setField offCfglock 0 0 1) = some 0 ∧ windowCore State.reset = none) ∧
    (offPart 3 rAwaitLimit + 8 ≤ 0x100000 ∧ ((0x1234 : DWord).toNat < 2 ^ 32)) ∧
    (State.reset.fieldOf (offDcs 0 rMigctl) 9 9 = 0 ∧ (moving 0).fieldOf (offDcs 0 rMigctl) 9 9 = 1) ∧
    (let s := State.reset.setField (offFring 4) 15 0 3
     (3 + 2 ^ 16 - s.fieldOf (offFring 4) 31 16) % 2 ^ 16 ≤ (s.fieldOf (offFring 4) 15 0 + 2 ^ 16 - s.fieldOf (offFring 4) 31 16) % 2 ^ 16 ∧
      (s.fieldOf (offFring 4) 15 0 + 2 ^ 16 - s.fieldOf (offFring 4) 31 16) % 2 ^ 16 < (4 + 2 ^ 16 - s.fieldOf (offFring 4) 31 16) % 2 ^ 16) ∧
    ((State.reset.setField offFpin 20 20 1).fieldOf offFpin 20 20 = 1) ∧ (offFpin + 8 ≤ 0x100000) := by
  and_intros <;> decide +kernel

theorem witness_LocksResetsLinks :
    (let s := State.reset.setField offStatus 0 0 1; ready s = true ∧ lockOverlap s 0 = false ∧ ready State.reset = false) ∧
    (let s := (State.reset.setField (offPart 0 rPlbp) 0 0 1).setField (offPart 1 rPlbp) 0 0 1; lockOverlap s 0 = true) ∧
    (resetEnds (part0 fun x => { x with resetting := some 400000 }) 0 = true) ∧
    (let s : State := { State.reset with linkGone := [(2, true)] }; s.gone 2 = true ∧ State.reset.gone 2 = false) ∧
    (let s := State.reset.setField (offPart 0 rPslot) 15 0 1; s.fieldOf (offPart 0 rPslot) 15 0 ≠ 0) ∧
    (let s : State := { State.reset with linkRetry := [(0, 16)] }; trainDue s 0 = true ∧ 16 ≤ sget 0 s.linkRetry 0) ∧
    (let s : State := { State.reset with linkRetry := [(0, 17)], linkTrain := [(0, 2)] }
     sget 0 s.linkRetry 0 = 17 ∧ 2 ≤ sget 0 s.linkTrain 0 ∧ sget 0 State.reset.linkTrain 0 < 2) := by
  and_intros <;> decide +kernel

theorem witness_DeviceResetAndBoot :
    State.reset.csPend = [] ∧ ready State.reset = false ∧ State.reset.bootAt = none ∧ State.reset.reg32 offBootSram ≠ 0x4C424D39 ∧
    ready (State.reset.setField offStatus 0 0 1) = true ∧
    (let s : State := { State.reset with bootAt := some 0 }; s.bootAt = some 0 ∧ 0 ≤ s.wcc) := by
  and_intros <;> decide +kernel

/-- A load that waits for its bank, and a write that CD1's view has not taken. -/
def waiting : UReq :=
  { id := 7, own := .core 0 .k, org := ⟨.k, 0, 0, false, 0⟩, after := [], arrive := 0, parts := [0x40000000], op := .load 1 0x40000000 8 }
def coming1 : VWrite :=
  { id := 8, own := .core 0 .k, part := 0, origin := 1, num := 1, stamp := [0, 1, 0, 0], due := 0, left0 := none, left1 := some [(64, 5)] }

theorem witness_UntimedAndViews :
    (let s : State := { kk with reqs := [waiting], unit := 7 }
     s.reqs.find? (fun r => r.id = s.unit && (reqNow s r).isSome) = some waiting ∧ reqNow s waiting = some [0x40000000]) ∧
    (let s : State := { kk with vwrites := [coming1], unit := 8, sub := 1 }
     s.vwrites.find? (fun w => w.id = s.unit && applyDue s w s.sub) = some coming1 ∧ coming1.left s.sub = some [(64, 5)]) := by
  and_intros <;> decide +kernel

/-- An instruction that decoding answers. -/
def decodes (k : SeqKind) (timed : Bool) (w0 w1 : W32) (i : Instr) : Bool :=
  match decode k 0 timed w0 w1 with
  | .ok j => j = i
  | .error _ => false

theorem decodes_ok {k : SeqKind} {timed : Bool} {w0 w1 : W32} {i : Instr} (h : decodes k timed w0 w1 i = true) :
    decode k 0 timed w0 w1 = .ok i := by
  unfold decodes at h
  split at h
  · rename_i j hj; rw [hj, of_decide_eq_true h]
  · simp at h

theorem witness_DecodeChecks :
    reservedMajor 0x4C = true ∧ reservedMajor 0x5F = true ∧ reservedMajor 0x77 = true ∧ reservedMajor 0x7B = true ∧
    reservedMajor 0x7F = true ∧ reservedMajor 0x7A = false ∧ inProfile (.tile .k) 0x7A 0 = false ∧
    reservedMajor 0x01 = false ∧ inProfile (.tile .k) 0x01 0 = true ∧ wordsAgree 0x01 true = false ∧
    (opOf 0x02440000).toNat = 0x11 ∧ reservedMajor 0x11 = false ∧ inProfile (.tile .k) 0x11 0 = true ∧ wordsAgree 0x11 true = true ∧
    (build 0x02440000 0x0F000000).isSome = false ∧ (build 0x02440000 0x15003070).isSome = true ∧ (fld (0x15003070 : W32) 28 4 : B4) ≠ 0 := by
  and_intros <;> decide +kernel

theorem witness_DecodeEncode :
    let i : Instr := .bext z 7 3 63 63
    i.wf (.tile .k) 0 false = true ∧ inProfile (.tile .k) (opOf ((encode i).headD 0)).toNat (fld ((encode i).headD 0) 15 3 : B3).toNat = true ∧
      decodes (.tile .k) false ((encode i).headD 0) ((encode i).getD 1 0) i = true := by
  decide +kernel

theorem witness_OneEncoding : decode (.tile .k) 0 false 0x024470C0 0x05003070 = .ok (.bext z 7 3 12 7) :=
  decodes_ok (by decide +kernel)

/-- K of core 0 stands at ADD s1, s2, s3, whose bytes lie least significant first; HALT comes next. -/
theorem witness_StepRunsDecoded :
    (let s := State.reset.withWords 0x00041083 0x01F10000
     s.worked = false ∧ s.readDone = false ∧ takeInput s.wcc isInput s.inputs = none ∧ dueEarly s = none ∧
      nextSeqr s = some (.core 0 .k) ∧ checking s (.core 0 .k) = none ∧
      (∀ j < 4, (codeOf s (.core 0 .k)).1.byte ((codeOf s (.core 0 .k)).2 + (s.seqr (.core 0 .k)).pc + j) = (wordBytes 0x00041083).getD j 0) ∧
      (∀ j < 4, (codeOf s (.core 0 .k)).1.byte ((codeOf s (.core 0 .k)).2 + (s.seqr (.core 0 .k)).pc + 4 + j) = (wordBytes 0x01F10000).getD j 0) ∧
      (s.seqr (.core 0 .k)).pc < (s.seqr (.core 0 .k)).len ∧
      decodes (.tile .k) (s.timedOf (.core 0 .k)) 0x00041083 0x01F10000 (.add z ⟨1, 2, 3⟩) = true) ∧
    (let s := (State.reset.withWords 0x00041083 0).modSeqr (.core 0 .k) fun q => { q with len := 0 }
     s.worked = false ∧ takeInput s.wcc isInput s.inputs = none ∧ dueEarly s = none ∧ nextSeqr s = some (.core 0 .k) ∧
      (s.seqr (.core 0 .k)).len ≤ (s.seqr (.core 0 .k)).pc) ∧
    (decodes (.tile .k) false 0x01300000 0 (.nop z) = false) ∧
    (let s : State := { State.reset with inputs := [(0, .hostLinkUp)] }; s.worked = false ∧ (takeInput s.wcc isInput s.inputs).isSome = true) ∧
    (let s := refr 100 fun d => d; s.worked = false ∧ takeInput s.wcc isInput s.inputs = none ∧ (dueEarly s).isSome = true) ∧
    (let s := State.reset; s.worked = false ∧ s.readDone = false ∧ takeInput s.wcc isInput s.inputs = none ∧ dueEarly s = none ∧
      nextSeqr s = none) ∧
    (let s : State := { State.reset with readDone := true }; s.worked = false ∧ (firstClaim s).isNone = true ∧ dueMid s = none) ∧
    (let s : State := { State.reset with readDone := true, vwrites := [coming1], wcc := 100 }
     (firstClaim s).isNone = true ∧ (dueMid s).isSome = true) ∧
    (let s : State := { kk with reqs := [waiting], readDone := true }
     match firstClaim s with
     | some (.req r secs) => r = waiting ∧ secs = [0x40000000]
     | _ => False) ∧
    (let e : EReq := { id := 3, g := 0, agent := 400, arrive := 0, parts := [0x40000000], orig := origCd 0, rd := [(0x40000000, 0, 4)] }
     let s : State := { kk with ereqs := [e], readDone := true }
     match firstClaim s with
     | some (.ereq x secs) => x = e ∧ secs = [0x40000000]
     | _ => False) ∧
    (let e : Trail := { at_ := 0, org := ⟨.k, 0, 0, false, 0⟩, move := [(.k, {})] }
     let s : State := { core State.reset 0 fun x => { x with trail := [e] } with parts := [(0, { scc := 2 })] }
     checking s (.core 1 .k) = some e ∧ nextSeqr s = some (.core 1 .k) ∧ dueEarly s = none) ∧
    (let s : State := { State.reset with worked := true }; takeInput s.wcc isSensor s.inputs = none ∧ dueLate s = none) := by
  and_intros <;> decide +kernel

theorem witness_CycleEnds : State.reset.held 0 = false ∧ (part0 fun x => { x with hold := { held := true } }).held 0 = true := by
  decide +kernel

theorem witness_StepCompletes : InputsOk State.reset ∧ InputsOk { State.reset with inputs := [(0, .lbpGo 63)] } := by
  simp only [InputsOk]; decide +kernel

theorem witness_MemoryLaws : Mem.wf [(3, 1), (4, 2)] = true ∧ (3 : Nat) + 1 ≤ 4 ∧ ∀ c ∈ ([(3, 1)] : Mem), c.1 ≠ 4 := by
  decide +kernel

theorem witness_StepKeepsMemoryForm : MemoryWf State.reset ∧ ∃ t, step State.reset = .next t :=
  ⟨⟨by decide +kernel, by decide +kernel, by decide +kernel⟩, goes_next (by decide +kernel)⟩

/-! ### Hypotheses that can be met: traps, waits and refusals of what issues -/

theorem witness_SpillUncorrectable :
    let s := ks.modSeqr (.core 0 .s) fun q => { q with spillEcc := [(1023, true)] }
    Unhindered z (.spld z 1 1023) s ∧ sget false s.me.spillEcc 1023 = true := by
  simp only [Unhindered]; decide +kernel

theorem witness_TargetsOutside :
    (Unhindered z (.bqs z 48 2 (-1)) ks ∧ queueHead ks 0 48 = none ∧ ¬ Claims.inStream ks (-4)) ∧
    (Unhindered z (.jal z (-1)) ks ∧ ¬ Claims.inStream ks (-4)) ∧
    (let s := regs ks [(1, 16384)]; Unhindered z (.jr z 1) s ∧ (s.rd 1).toNat % 2 ^ 32 % 4 = 0 ∧ s.me.len ≤ (s.rd 1).toNat % 2 ^ 32) := by
  simp only [Unhindered, Claims.inStream]; decide +kernel

/-- A sequencer at the end of a level of two trips that has a stride of -1 on register 31. -/
def striding : State := ks.modSeqr (.core 0 .s) fun q => { q with loops := [(0, { act := true, n := 2, pairs := [(31, -1)] })] }

theorem witness_Strides : Claims.onlyLevelEnds (striding.seqr striding.actor) 4 0 ∧ (∀ x, striding.actor ≠ .dcs x) ∧
    (31, -1) ∈ (sget {} (striding.seqr striding.actor).loops 0).pairs := by
  refine ⟨by simp only [Claims.onlyLevelEnds]; decide +kernel, ?_, by decide +kernel⟩
  rw [show striding.actor = .core 0 .s by decide +kernel]; exact nofun

theorem witness_Suppressed : Claims.noLevelEnds quelled.me 4 ∧ (∀ x, quelled.actor ≠ .dcs x) ∧ (Instr.qualF z 0).isWord = true := by
  refine ⟨by simp only [Claims.noLevelEnds]; decide +kernel, ?_, by decide +kernel⟩
  rw [show quelled.actor = .core 0 .s by decide +kernel]; exact nofun

/-- A NOP that waits for its successor's token, and one that signals both neighbours, whose queues hold 15 tokens. -/
def waitsN : Instr := .nop ⟨false, true, false, false, 0⟩
def signals : Instr := .nop ⟨false, false, true, true, 0⟩
def fullUp : State := (kt.modSeqr (.core 0 .s) fun q => { q with tokN := List.replicate 15 {} }).modSeqr (.core 0 .l) fun q =>
  { q with tokP := List.replicate 15 {} }

def streamOnlyOk (i : Instr) : Bool := (Claims.streamOnly i kt).isSome

theorem witness_SchedDetails :
    ((streamOnlyOk waitsP = true ∧ ct.timedOf ct.actor = true ∧ (header waitsP).wp = true ∧ ct.me.tokP = []) ∧
      (streamOnlyOk waitsN = true ∧ tokensThere (header waitsN) ct.me = false ∧ (header waitsN).wp = false)) ∧
    (let s := fullUp
     s.actor = .core 0 .k ∧ s.canIssue s.actor = true ∧ s.me.qual ≠ some false ∧ s.timedOf s.actor = true ∧ s.me.turn ≠ .granted ∧
      streamOnlyOk signals = true ∧ tokensThere (header signals) s.me = true ∧
      ((header signals).sp = true ∧ 15 ≤ ((s.core 0).seqr (predOf .k)).tokN.length ∧ mayStill s (.core 0 (predOf .k)) = false) ∧
      ((header signals).sn = true ∧ 15 ≤ ((s.core 0).seqr (succOf .k)).tokP.length ∧ mayStill s (.core 0 (succOf .k)) = false)) := by
  and_intros <;> decide +kernel

/-- Partition 0 runs cores 0 and 1 as a lockstep pair. -/
theorem witness_Lockstep :
    let s := State.reset.setField (offPart 0 rLsmask) 0 0 1
    s.leads 0 = true ∧ s.partOfCore 0 < 4 ∧ (s.core 0).trap.stopAfter = none := by decide +kernel

/-- A result for s1 that lands in cycle 9 is on its way in C of core 0. -/
def lateResult : State := core cc 0 fun x => { x with pend := [⟨9, 0, ⟨.c, 0, 0, false, 0⟩, .reg .c 1 7, []⟩] }

theorem witness_LandsInOrder :
    (Claims.landsInOrder z 1 cc ∧ ¬ Claims.landsInOrder z 1 lateResult ∧ lateResult.actor = .core 0 .c ∧ Claims.landsInOrder z 1 ct) ∧
    (Unhindered z (.dcount z ⟨1, 0, 0⟩ ⟨1, 0, 0, false, 0, false, false, 0⟩) lateResult ∧ Unhindered z (.mstat z 1 3) lateResult ∧
      Unhindered z (.vsetvl z ⟨1, 2, 0⟩ ⟨1, 0, 0, false, 0, false, false, 0⟩) lateResult) ∧
    (let l := ((lb.setLbp 0 { lb.lbp 0 with pend := [⟨9, 0, ⟨.k, 0, 0, false, 0⟩, .reg .k 1 7, []⟩] }))
     Unhindered z (.vsetvl z ⟨1, 2, 0⟩ ⟨1, 0, 0, false, 0, false, false, 0⟩) l ∧ ¬ Claims.landsInOrder z 1 l) := by
  simp only [Unhindered, Claims.landsInOrder]; decide +kernel

def xm (ta : B4) : XM := ⟨0, 0, false, 0, ta, 0, 0⟩

/-- What is asked of each matrix command at the edge of its stores: s(a) and s(b), and what is refused. -/
theorem witness_MatrixRefused :
    let a (x y : DWord) : State := regs cc [(1, x), (2, y)]
    let answers (i : Instr) (x y : DWord) (r : Option (Cause × Nat × DWord)) : Prop :=
      Unhindered z i (a x y) ∧ meQueued ((waited z (a x y)).core 0) (strOf i) < 8 ∧ operandReady (waited z (a x y)) i = true ∧
        Claims.matrixRefused (waited z (a x y)) 0 i x.toNat y.toNat = r
    let mmuls : Instr := .mmuls z ⟨0, 1, 2⟩ (xm 3)
    let msacc : Instr := .msacc z ⟨0, 1, 2⟩ (xm 0)
    let mwbl : Instr := .mwbl z ⟨0, 1, 2⟩ (xm 0)
    let mwbd : Instr := .mwbd z ⟨0, 1, 2⟩ (xm 0)
    let mscl : Instr := .mscl z ⟨0, 1, 2⟩ (xm 0)
    let mchk : Instr := .mchk z ⟨0, 1, 0⟩ (xm 0)
    answers mmuls 0 524288 (some (.illegalOperand, 0x0602, word0Val mmuls)) ∧ answers (mm 0) 0 (524288 - 64) (some (.illegalOperand, 0x0602, word0Val (mm 0))) ∧
    answers msacc 32641 0 (some (.illegalOperand, 0x0601, word0Val msacc)) ∧ answers msacc 32640 32641 (some (.illegalOperand, 0x0602, word0Val msacc)) ∧
    answers msacc 32640 32640 none ∧
    answers mwbl 0x40000020 0 (some (.bounds, 2, 0x40000020)) ∧ answers mwbl 0x40000000 520256 (some (.illegalOperand, 0x0602, word0Val mwbl)) ∧
    answers mwbl 0x4007F040 0 (some (.bounds, 1, 0x40080000)) ∧ answers mwbl 0x4007F000 520192 none ∧
    answers mwbd 128 0 (some (.illegalOperand, 0x0601, word0Val mwbd)) ∧ answers mwbd 127 3 (some (.illegalOperand, 0x0602, word0Val mwbd)) ∧
    answers mscl 0x40000000 16 (some (.illegalOperand, 0x0602, word0Val mscl)) ∧ answers mscl 0x40000000 32256 none ∧
    answers mchk 0x7F800000 0 (some (.illegalOperand, 0x0601, word0Val mchk)) ∧ answers mchk 0x7F7FFFFF 0 none := by
  simp only [Unhindered]; and_intros <;> decide +kernel

/-! ### Hypotheses that can be met: values -/

theorem witness_Values :
    ((⟨1, 0, 4, false, 0, false, false, 0⟩ : XV).t.toNat ≤ 2 ∧ (inEngine vadd 1 1).i = vadd) ∧
    (let v := inEngine (.vshuf z 4 ⟨3, 1, 2⟩ ⟨1, 0, 0, false, 0, false, false, 0⟩) 3 5
     0 < v.n / 2 ∧ 63 < capOf false 1 / 64 ∧ v.mask.testBit 2 = true ∧ 2 < v.n ∧ (List.range v.n).countP (fun k => v.mask.testBit k) ≤ 2) ∧
    (([1, 2] : List Nat).length = 2 ^ 1 ∧ ([1, 2, 3] : List Nat).length < 2 ^ 13) ∧
    (isNanCode 0 0x7F800001 = true ∧ 128 * 1 ≤ 128 ∧ 150 * 1 < 151 ∧ 16 * 1 ≤ 16 ∧ 4 * 1 ≤ 4) := by decide +kernel

theorem witness_TreePads : ∀ k, ([1, 2, 3] : List Nat).length ≠ 2 ^ k := by
  intro k h
  match k with
  | 0 => simp at h
  | 1 => simp at h
  | k + 2 => simp [Nat.pow_succ] at h; omega

theorem witness_Products :
    (let l : List Line := List.replicate 128 ⟨[1], false⟩; l.length = 128 ∧ 127 < 128 ∧ (l.getD 127 ⟨[], false⟩).poi = false) ∧
    bits (csrNat (State.reset.core 0).k csrDiaginj) 63 63 = 0 ∧
    (let m : MCmd := { started (mm 0) with apoi := 2 ^ 512 - 1 }
     m.ecc = false ∧ (latchOf State.reset 0 m).col = 0xFF ∧ (latchOf State.reset 0 m).row = 0xFF) := by
  and_intros <;> decide +kernel

theorem witness_Accumulates :
    (let m := started (.msacc z ⟨0, 1, 2⟩ (xm 0))
     m.s = some 0 ∧ m.status = 0 ∧ (inCycle 9).sccOf ((inCycle 9).partOfCore 0) = 0 + 2 + 7 ∧ sget false ((inCycle 9).core 0).accEcc 16383 = false ∧
      sget false m.rpoi 16383 = false ∧ elem 11 m.abuf 127 % 512 ≠ 0x1FF) ∧
    (let m : MCmd := { started (.macc z ⟨0, 0, 0⟩ (xm 0)) with rpoi := [(14336, true)] }; sget false m.rpoi 14336 = true) := by
  and_intros <;> decide +kernel

/-- A SHAPE of INT8 tiles of one row and three columns, on a tensor of one row and two columns. -/
def shaped : CCmd := ceCmd 4 fun c => { c with rcd := [(6, 8), (8, 1), (12, 2), (24, 1), (26, 3), (28, 1)] }

theorem witness_OtherCopies :
    (let x := shpOf shaped.rcdNat
     shaped.code = 4 ∧ bits (shaped.dn 0) 16 16 = 0 ∧ fmtBits x.fmt = 8 * 1 ∧ 2 < x.tc * 1 ∧ 0 * x.tr + 0 < x.rows ∧
      1 < (x.cols - 0 * x.tc) * 1 ∧ ¬ 2 < (x.cols - 0 * x.tc) * 1 ∧ x.padz = true) ∧
    ((shaped.group 0).last = 8) ∧
    (bits ((ceCmd (5 + 65536)).dn 0) 16 16 = 1 ∧ bits ((ceCmd 5).dn 0) 16 16 = 0 ∧ 2 * 0 + 1 < ([1, 2] : Bytes).length) ∧
    (let e : EReq := { id := 0, g := 0, arrive := 0, parts := [], atom := some (0x100, 6, false, 1, 2), rd := [(0x100, 0, 8)] }
     e.atom = some (0x100, 6, false, 1, 2) ∧ e.rd = [(0x100, 0, 8)] ∧ eccBad State.reset 0x100 8 = false) ∧
    (collOp (ceCmd (7 + 2 * 65536)) ≤ 2 ∧ collOp (ceCmd (7 + 3 * 65536)) = 3 ∧ collOp (ceCmd (7 + 4 * 65536)) = 4) := by
  and_intros <;> decide +kernel

def windowOk (s : State) (v : VOp) (src : Bool) : Bool :=
  match tapWindow s 0 v src 1 0 0 with
  | .ok _ => true
  | .error _ => false

theorem witness_Stencils :
    windowOk lb (inEngine vadd 1 1) true = true ∧ windowOk (lbWith fun l => { l with ain := 1 }) (inEngine vadd 1 1) false = true := by
  decide +kernel

/-! ### Hypotheses that can be met: awaits, holds, the host, the order of a cycle -/

theorem witness_AwaitUncorrectable :
    let s : State := { atSpad kk 0 with tsEcc := [(0x8000000, 2)] }
    let i : Instr := .awcmp z .eq ⟨0, 2, 1⟩ ⟨0, 0⟩
    let w := waited z s
    Unhindered z i s ∧ s.timedOf s.actor = false ∧ s.me.fences = [] ∧ checkRuns w 0 8 [((s.rd 1).toNat, 8)] false = none ∧
      awaitBad w 0 4 0 = false ∧ eccAt w (s.rd 1).toNat 8 = some 0x40000000 ∧ eccAt (waited z (atSpad kk 0)) (s.rd 1).toNat 8 = none := by
  simp only [Unhindered]; and_intros <;> decide +kernel

/-- Core 0's await, of a value that is not there or, for its negation, that is. -/
def holding (kind : Nat) : State :=
  core { (awaiting (part0 fun x => { x with scc := 256, hold := { held := true, awaitOpen := true, b := 256 } })) with unit := 0 } 0 fun x =>
    { x with awaits := [⟨256, 256, kind, 0, 1, 0x40000000, ⟨.k, 0, 0, true, 0⟩⟩] }

theorem witness_Releases :
    (let s := holding 5
     let h := (s.part s.unit).hold
     s.unit < 4 ∧ s.held s.unit = true ∧ h.off = false ∧ h.awaitOpen = true ∧ h.decided = none ∧ (awaitsFor s s.unit h.b).length = 1 ∧
      ∀ e ∈ awaitsFor s s.unit h.b, awaitTrue s e.1 e.2.org.q e.2.kind e.2.ring e.2.x e.2.addr = true) ∧
    (decideDue (holding 5) 0 = true ∧ decideDue (holding 4) 0 = false) ∧
    (let s : State := { part0 fun x => { x with hold := { held := true, decided := some 3 } } with wcc := 35 }
     s.held s.unit = true ∧ (s.part s.unit).retry = [] ∧ (s.part s.unit).hold.slotEnd = none ∧ (s.part s.unit).hold.awaitOpen = false ∧
      3 + 32 ≤ s.wcc ∧ releaseDue s 0 = true) ∧
    (let s : State := part0 fun x => { x with hold := { held := true, off := true } }; s.held 0 = true ∧ (s.part 0).hold.off = true) := by
  and_intros <;> decide +kernel

theorem witness_LinkDown :
    let s : State := { queued true with outst := [⟨1, 0, .entry 0 2⟩] }
    s.outst = [⟨1, 0, .entry 0 2⟩] ∧ sget 0 (s.part 0).slots 2 = 3 + 1 ∧ 3 < 1024 := by decide +kernel

theorem witness_OrderOfCycle :
    (let s : State := { ported 0 camera { lost := [(0, 1)] } with worked := true }; (overruns s).isSome = true) ∧
    (overruns { State.reset with worked := true } = none) ∧
    (let s := (kt.modSeqr (.core 0 .k) fun q => { q with blocked := true, turn := .kept none })
     s.worked = false ∧ s.readDone = false ∧ dueEarly s = none ∧ nextSeqr s = none ∧ keptCore s = some 0) ∧
    keptCore State.reset = none ∧
    (let w : W32 := 0x81300000
     let s := State.reset.withWords w 0
     let q := s.seqr (.core 0 .k)
     (tokensThere (hdrOf w) q = false ∧ s.timedOf (.core 0 .k) = false ∧ q.qual ≠ some false ∧ q.pc < q.len ∧
       decodes (.tile .k) false w 0 (.nop z) = false) ∧ nextSeqr s = some (.core 0 .k)) := by
  and_intros <;> decide +kernel

/-! ### Words written out from the tables of R152, R156, R159, R160, R162 and R164

Each word is OP << 18, 1 << 25 where an extension follows, and the fields at the places that its format gives. -/

/-- OP 0x00, SN, PAD 3; OP 0x08: i0 ← s31, zero; OP 0x0C; OP 0x0D, imm12 [7:6] = 2; the listing of R189: 0x0038240A; OP 0x0F;
OP 0x10: lr ← s3; OP 0x11, FN 0x15; OP 0x11, FN 0x1C; OP 0x11, FN 0x12. -/
theorem test_decode_scalar :
    decodes (.tile .k) false 0x1C000000 0x00000000 (.nop ⟨false, false, false, true, 3⟩) = true ∧
    decodes (.tile .k) false 0x002207E7 0x00000000 (.sra z ⟨32, 31, 39⟩) = true ∧
    decodes (.tile .l) false 0x0031F800 0x00000000 (.xori z 31 0x800) = true ∧
    decodes (.tile .s) false 0x003440BF 0x00000000 (.srai z 4 63) = true ∧
    decodes (.tile .s) false 0x0038240A 0x00000000 (.lim z 2 0x40A) = true ∧
    decodes (.tile .k) false 0x023C9DEF 0x00000ABC (.lih z 9 0xDEF 0xABC) = true ∧
    decodes (.tile .k) false 0x004260C0 0x00000000 (.mov z 38 3) = true ∧
    decodes (.tile .k) false 0x02441083 0x0540F070 (.bins z ⟨1, 2, 3⟩ 60 7) = true ∧
    decodes (.tile .k) false 0x02441083 0x07040000 (.sel z ⟨1, 2, 3⟩ 4) = true ∧
    decodes (.tile .k) false 0x02441080 0x04800000 (.popc z 1 2) = true := by decide +kernel

/-- OP 0x14, three words back; OP 0x15, CC 3; OP 0x16, mq, CND 3; OP 0x17, one word back; OP 0x18, lr. -/
theorem test_decode_branch :
    decodes (.tile .k) false 0x00505FFD 0x00000000 (.bnz z 5 0xFFD) = true ∧
    decodes (.tile .k) false 0x025410B0 0x00000007 (.bgeu z 1 2 7) = true ∧
    decodes (.tile .k) false 0x025B8300 0x00000004 (.bqs z 56 3 4) = true ∧
    decodes (.tile .k) false 0x005FFFFF 0x00000000 (.jal z 0x3FFFF) = true ∧
    decodes (.tile .k) false 0x00600980 0x00000000 (.jr z 38) = true := by decide +kernel

/-- OP 0x1A, M 1; the listing of R189: 0x006C4000; the listing of 06: 0x0070001E. -/
theorem test_decode_loop :
    decodes (.tile .k) false 0x006AC000 0x00000000 (.lbrkD z 5) = true ∧
    decodes (.tile .k) false 0x006C4000 0x00000000 (.qualL z 0) = true ∧
    decodes (.tile .c) true 0x0070001E 0x00000000 (.idle z 30) = true := by decide +kernel

/-- OP 0x1D, bit 11; OP 0x1E, [11:10] = 3; OP 0x1F, SCC - TSB. -/
theorem test_decode_spill_csr :
    decodes (.tile .k) false 0x007429FF 0x00000000 (.spst z 2 511) = true ∧
    decodes (.tile .k) false 0x00782C30 0x00000000 (.csrc z 2 0x030) = true ∧
    decodes (.tile .k) false 0x007C2002 0x00000000 (.rdclk z 2 2) = true := by decide +kernel

/-- OP 0x24, FN 2, BF16, RM 3; OP 0x27, FN 2; OP 0x28; OP 0x2B, FN 2, INT16; OP 0x2C, GT, INT32; OP 0x2D. -/
theorem test_decode_vector_arithmetic :
    decodes (.tile .c) false 0x02904C3A 0x0110303F (.vfnma z ⟨4, 48, 58⟩ ⟨2, 0, 3, false, 0, false, false, 63⟩) = true ∧
    decodes (.tile .c) false 0x029C4140 0x01400000 (.vnot z ⟨4, 5, 0⟩ ⟨8, 0, 0, false, 0, false, false, 0⟩) = true ∧
    decodes (.tile .c) false 0x02A04146 0x00000007 (.vclamp z ⟨4, 5, 6⟩ ⟨0, 0, 0, false, 0, false, false, 7⟩) = true ∧
    decodes (.tile .c) false 0x02AC4146 0x01580000 (.vsra z ⟨4, 5, 6⟩ ⟨11, 0, 0, false, 0, false, false, 0⟩) = true ∧
    decodes (.tile .c) false 0x02B07146 0x02600000 (.vcmp z 4 ⟨7, 5, 6⟩ ⟨12, 0, 0, false, 0, false, false, 0⟩) = true ∧
    decodes (.tile .c) false 0x02B44146 0x00000500 (.vsel z ⟨4, 5, 6⟩ ⟨0, 0, 0, false, 5, false, false, 0⟩) = true := by decide +kernel

/-- OP 0x31: VCVT.BF16.F32; OP 0x33, E4M3 from FP16; OP 0x36, FN 4; OP 0x3A, XOR. -/
theorem test_decode_vector_convert :
    decodes (.tile .c) false 0x02C41080 0x00100000 (.vcvt z ⟨1, 2, 0⟩ ⟨2, 0, 0, false, 0, false, false, 0⟩) = true ∧
    decodes (.tile .c) false 0x02CC1080 0x00188009 (.vqnt z ⟨1, 2, 0⟩ ⟨3, 1, 0, false, 0, false, false, 9⟩) = true ∧
    decodes (.tile .c) false 0x02D81080 0x02400000 (.vshuf z 4 ⟨1, 2, 0⟩ ⟨8, 0, 0, false, 0, false, false, 0⟩) = true ∧
    decodes (.tile .c) false 0x02E81080 0x02E00000 (.vred z 5 ⟨1, 2, 0⟩ ⟨12, 0, 0, false, 0, false, false, 0⟩) = true := by decide +kernel

/-- OP 0x3E, FN 3; OP 0x3F, FN 1; OP 0x43, two live values; OP 0x46, FN 8. -/
theorem test_decode_mask :
    decodes (.tile .c) false 0x02F81080 0x01800000 (.mnot z ⟨1, 2, 0⟩ ⟨0, 0, 0, false, 0, false, false, 0⟩) = true ∧
    decodes (.tile .c) false 0x02FC1080 0x00A00000 (.mfirst z ⟨1, 2, 0⟩ ⟨4, 0, 0, false, 0, false, false, 0⟩) = true ∧
    decodes (.tile .c) false 0x030C0146 0x01000A00 (.defer z 2 ⟨0, 5, 6⟩ ⟨0, 0, 0, true, 2, false, false, 0⟩) = true ∧
    decodes (.tile .c) false 0x03181080 0x04000000 (.verf z ⟨1, 2, 0⟩ ⟨0, 0, 0, false, 0, false, false, 0⟩) = true := by decide +kernel

/-- OP 0x49, FN 1; OP 0x4A, IN 1, FP16; OP 0x4B, RAW, ring 0x42, four channels. -/
theorem test_decode_row :
    decodes .lbp false 0x03240083 0x00400000 (.rowoutNext z 2 3) = true ∧
    decodes .lbp false 0x03281783 0x00440000 (.remap z ⟨1, 30, 3⟩ 1 1) = true ∧
    decodes .lbp false 0x032C0083 0x003C0342 (.tileout z 2 3 15 0x42 3) = true := by decide +kernel

/-- OP 0x51, E5M2 by INT8; OP 0x55, to mq; OP 0x5A, bank 3. -/
theorem test_decode_matrix :
    decodes (.tile .c) false 0x03440FC4 0x0000D240 (.mmuls z ⟨0, 63, 4⟩ ⟨0, 3, false, 2, 4, 8, 0⟩) = true ∧
    decodes (.tile .c) true 0x03578100 0x0FFF1904 (.mrd z ⟨56, 4, 0⟩ ⟨4095, 0, false, 3, 2, 0, 4⟩) = true ∧
    decodes (.tile .c) false 0x01686003 0x00000000 (.mstat z 6 3) = true := by decide +kernel

/-- OP 0x64, offset -1; OP 0x61, X. -/
theorem test_decode_scalar_memory :
    decodes (.tile .s) false 0x019010BF 0x00000000 (.stB z 1 2 63) = true ∧
    decodes (.tile .k) false 0x03841080 0x00000006 (.ldHX z 1 2 6) = true := by decide +kernel

/-- OP 0x69, strided; OP 0x6B; OP 0x6C, tag in s30; OP 0x6D, four chunks from 4; OP 0x6F, [5:4] = 1. -/
theorem test_decode_vector_memory :
    decodes (.tile .s) false 0x03A45187 0x0017FFFF (.vst z ⟨5, 6, 7⟩ ⟨false, 0, true, 0x7FFFF⟩) = true ∧
    decodes (.tile .s) false 0x03AC5187 0x00580E00 (.vstx z ⟨5, 6, 7⟩ ⟨11, 0, 0, true, 6, false, false, 0⟩) = true ∧
    decodes (.tile .l) false 0x03B37180 0x0BC00001 (.rdq z ⟨55, 6, 0⟩ ⟨true, 30, false, 1⟩) = true ∧
    decodes (.tile .l) false 0x01B7019C 0x00000000 (.wrq z 48 6 3 4) = true ∧
    decodes (.tile .l) false 0x01BC0190 0x00000000 (.lbwb z 6) = true := by decide +kernel

/-- OP 0x70, FN 2; OP 0x71, FN 6, boundary 500. -/
theorem test_decode_ring_await :
    decodes (.tile .k) false 0x03C00180 0x000002FF (.rrel z ⟨0, 6, 0⟩ ⟨0, 255⟩) = true ∧
    decodes (.tile .k) true 0x03C40187 0x001F4600 (.awcmp z .ge ⟨0, 6, 7⟩ ⟨500, 0⟩) = true := by decide +kernel

/-- OP 0x72; OP 0x73, CE, write set 7; the listing of 06: FENCE.P.R, 0x01D0000D; OP 0x76; OP 0x79, not-ready. -/
theorem test_decode_order :
    decodes (.tile .k) false 0x01C80002 0x00000000 (.phase z 2) = true ∧
    decodes (.tile .k) false 0x01CEF0C4 0x00000000 (.pset z 2 true 7 3 4) = true ∧
    decodes (.tile .c) true 0x01D0000D 0x00000000 (.fence z 3 1) = true ∧
    decodes (.tile .k) false 0x01D80240 0x00000000 (.monwait z 9) = true ∧
    decodes (.tile .k) false 0x01E5E001 0x00000000 (.pop z 30 true) = true := by decide +kernel

/-- OP 0x7A, FN 2; OP 0x7A, FN 6; OP 0x7A, FN 10. -/
theorem test_decode_dram :
    decodes .dcs true 0x03E8BFFE 0x003FFFFF (.dwr z ⟨3, true, 15⟩ 63 false 0x3FFFFF) = true ∧
    decodes .dcs true 0x03E99000 0x00000D5A (.dmrw z 1 false 13 0x5A) = true ∧
    decodes .dcs true 0x03EA8000 0x000000C3 (.dsync z 0xC3) = true := by decide +kernel

/-- OP 0x7C, FN 0; OP 0x7C, FN 3; OP 0x7D; OP 0x7E. -/
theorem test_decode_system :
    decodes (.tile .k) false 0x01F07FFF 0x00000000 (.trap z 0x7FFF) = true ∧
    decodes .mgmt false 0x01F18005 0x00000000 (.dbg z 5) = true ∧
    decodes (.tile .k) true 0x01F40011 0x00000000 (.safept z 17) = true ∧
    decodes (.tile .k) false 0x01F84123 0x00000000 (.bbmark z 4 0x123) = true := by decide +kernel

/-! ### Words and instructions that a check refuses (R428), the first that fails -/

/-- The cause and DETAIL with which words are refused. -/
def refused (k : SeqKind) (timed : Bool) (w0 w1 : W32) : Option (Cause × B16) :=
  match decode k 0 timed w0 w1 with
  | .ok _ => none
  | .error r => some (r.cause, r.detail)

/-- Major 0x4C is reserved. -/
theorem test_refuse_check1 : refused (.tile .k) false 0x01300000 0 = some (.illegalOp, 1) := by decide +kernel
/-- VADD in K. -/
theorem test_refuse_check2 : refused (.tile .k) false 0x02802105 0x00080B80 = some (.illegalOp, 3) := by decide +kernel
/-- ADD with X = 1. -/
theorem test_refuse_check3 : refused (.tile .k) false 0x02043042 0 = some (.illegalOp, 4) := by decide +kernel
/-- Major 0x11 with FN 7. -/
theorem test_refuse_check4 : refused (.tile .k) false 0x02443042 0x01C00000 = some (.illegalOp, 2) := by decide +kernel
/-- MUL with bit 28 of the extension word. -/
theorem test_refuse_check5 : refused (.tile .k) false 0x02443042 0x10000000 = some (.illegalExt, 1) := by decide +kernel
/-- MUL with a C field. -/
theorem test_refuse_check6 : refused (.tile .k) false 0x02443042 0x00010000 = some (.illegalExt, 2) := by decide +kernel
/-- MOV with a nonzero b field: field 2. -/
theorem test_refuse_check7 : refused (.tile .k) false 0x004030C1 0 = some (.illegalOperand, 0x0402) := by decide +kernel
/-- ADD with d = 40: field 0; i0 in L: field 1. -/
theorem test_refuse_check8 : refused (.tile .k) false 0x00068042 0 = some (.illegalOperand, 0x0100) ∧
    refused (.tile .l) false 0x00041802 0 = some (.illegalOperand, 0x0101) := by decide +kernel
/-- VADD with T = 15, and with T = E4M3: field 4. -/
theorem test_refuse_check9 : refused (.tile .c) false 0x02802105 0x00780000 = some (.illegalOperand, 0x0204) ∧
    refused (.tile .c) false 0x02802105 0x00180000 = some (.illegalOperand, 0x0204) := by decide +kernel
/-- VADD with RM = 7. -/
theorem test_refuse_check10 : refused (.tile .c) false 0x02802105 0x00007000 = some (.illegalOperand, 0x0306) := by decide +kernel
/-- LOOP with level 6, and with a body of 0 words; WRQ of four chunks from 5. -/
theorem test_refuse_check11 : refused (.tile .k) false 0x02670042 3 = some (.illegalOperand, 0x0508) ∧
    refused (.tile .k) false 0x02641042 0 = some (.illegalOperand, 0x0509) ∧
    refused (.tile .l) false 0x01B7019D 0 = some (.illegalOperand, 0x0508) := by decide +kernel

/-- An ill-formed term for each check that looks at fields, and one that no word stands for. -/
theorem test_illFormed :
    (Instr.rdclk z 1 3).wf (.tile .k) 0 false = false ∧
    (Instr.brmw z ⟨1, 2, 3⟩ ⟨7, 2, 0, false⟩).wf (.tile .k) 0 false = false ∧
    (Instr.fence z 5 1).wf (.tile .k) 0 false = false ∧
    (Instr.vadd z ⟨1, 2, 3⟩ ⟨0, 0, 0, false, 1, false, false, 0⟩).wf (.tile .c) 0 false = false ∧
    (Instr.mzero z ⟨1, 0, 0⟩ ⟨0, 0, false, 0, 0, 0, 0⟩).wf (.tile .c) 0 false = false ∧
    (Instr.add z ⟨40, 1, 2⟩).wf (.tile .k) 0 false = false ∧
    (Instr.vadd z ⟨1, 2, 3⟩ ⟨15, 0, 0, false, 0, false, false, 0⟩).wf (.tile .c) 0 false = false ∧
    (Instr.vadd z ⟨1, 2, 3⟩ ⟨0, 0, 7, false, 0, false, false, 0⟩).wf (.tile .c) 0 false = false ∧
    (Instr.loop z 6 0 1 0 1).wf (.tile .k) 0 false = false ∧
    (Instr.dact ⟨true, false, false, false, 0⟩ ⟨0, false, 0⟩ 0).wf .dcs 0 true = false ∧
    (Instr.lbpGo 0).wf .mgmt 0 false = false := by
  and_intros <;> decide +kernel

/-! ### Steps whose results stand in the spec or are worked out by hand -/

/-- What K's one instruction will write, the values and their registers. -/
def results (i : Instr) (l : SMap DWord) : List Eff := ((after i (regs kk l)).core 0).pend.map Landing.eff

/-- R189's example: BEXT s7, s3, 12, 8 of 0xABC123 is 0xBC. -/
theorem test_bext : results (.bext z 7 3 12 7) [(3, 0xABC123)] = [.reg .k 7 0xBC] := by decide +kernel
/-- 2^63 + 2^63 wraps to 0, and (-2^63) / (-1) is -2^63 with remainder 0 (R178, R181). -/
theorem test_wraps : results (.add z ⟨1, 2, 3⟩) [(2, 0x8000000000000000), (3, 0x8000000000000000)] = [.reg .k 1 0] ∧
    results (.div z ⟨1, 2, 3⟩) [(2, 0x8000000000000000), (3, 0xFFFFFFFFFFFFFFFF)] = [.reg .k 1 0x8000000000000000] ∧
    results (.rem z ⟨1, 2, 3⟩) [(2, 0x8000000000000000), (3, 0xFFFFFFFFFFFFFFFF)] = [.reg .k 1 0] := by decide +kernel
/-- A shift takes s(b)[5:0]: by 64 nothing moves (R178). -/
theorem test_shift : results (.shl z ⟨1, 2, 3⟩) [(2, 5), (3, 64)] = [.reg .k 1 5] ∧
    results (.sra z ⟨1, 2, 3⟩) [(2, 0x8000000000000000), (3, 63)] = [.reg .k 1 0xFFFFFFFFFFFFFFFF] := by decide +kernel
/-- LIM sign-extends 12 bits; with an extension it sign-extends 40 (R180). -/
theorem test_lim : results (.lim z 1 0x800) [] = [.reg .k 1 0xFFFFFFFFFFFFF800] ∧
    results (.limX z 1 0x123 0xABCDEF0) [] = [.reg .k 1 0xFFFFFFABCDEF0123] := by decide +kernel
/-- IDLE 30 issues its successor 31 cycles later (R35, R190). -/
theorem test_idle : ((after (.idle z 30) kt).seqr (.core 0 .k)).nextAt = 31 ∧ ((after (.idle z 30) kt).seqr (.core 0 .k)).pc = 4 := by
  decide +kernel
end Sys2Proof.Tests
end

/-! SUPPORT. The memory-mapped registers after device reset: each reads its reset value, so a field of a register is a field
of that value (13: R346, R361). -/

namespace Sys2Proof.Machine

/-! ### Reading a register after device reset -/

@[simp] theorem bar0Byte_reset (off : Nat) : State.reset.bar0Byte off = bar0Reset off := sget_nil _ _

/-- Byte k of a register's reset value, least significant first. -/
theorem bar0Reset_add {off k : Nat} (h : 8 ∣ off) (hk : k < 8) :
    bar0Reset (off + k) = BitVec.ofNat 8 (regReset off / 256 ^ k) := by
  have hbase : (off + k) / 8 * 8 = off := by omega
  have hplace : (off + k) % 8 = k := by omega
  have hpow : 2 ^ (8 * k) = 256 ^ k := Nat.pow_mul 2 8 k
  rw [bar0Reset, hbase, hplace, hpow]

/-- The bytes of a register from byte k on are those of its reset value. -/
theorem bar0Read_reset {off : Nat} (h : 8 ∣ off) (n k : Nat) (hk : k + n ≤ 8) :
    bar0Read State.reset (off + k) n = natLe n (regReset off / 256 ^ k) := by
  induction n generalizing k with
  | zero => rfl
  | succ n ih =>
    have htail := ih (k + 1) (by omega)
    rw [Nat.pow_succ, ← Nat.div_div_eq_div_mul] at htail
    rw [bar0Read, natLe, bar0Byte_reset, bar0Reset_add h (by omega), Nat.add_assoc, htail]

theorem reg_reset {off : Nat} (h : 8 ∣ off) : State.reset.reg off = regReset off % 2 ^ 64 := by
  have hbytes : bar0Read State.reset off 8 = natLe 8 (regReset off / 256 ^ 0) := bar0Read_reset h 8 0 (by omega)
  rw [Nat.pow_zero, Nat.div_one] at hbytes
  rw [State.reg, hbytes]
  exact leNat_natLe 8 (regReset off)

/-- A field of a register after device reset is that field of the register's reset value v. -/
theorem fieldOf_reset {off v : Nat} (h : 8 ∣ off) (hv : regReset off = v) (hi lo : Nat) :
    State.reset.fieldOf off hi lo = bits (v % 2 ^ 64) hi lo := by
  rw [State.fieldOf, reg_reset h, hv]

theorem fieldOf_reset_zero {off : Nat} (h : 8 ∣ off) (hz : regReset off = 0) (hi lo : Nat) :
    State.reset.fieldOf off hi lo = 0 := by
  rw [fieldOf_reset h hz, bits, Nat.zero_mod, Nat.zero_div, Nat.zero_mod]

/-! ### Reset values by register -/

/-- The reset column of partition p's block (13: R351, R361; 02: R43, R57). -/
theorem regReset_part {p r : Nat} (hp : p < 4) (hr : r < 0x1000) :
    regReset (offPart p r) =
      if r = rHoldLimit then 8000000 else if r = rAwaitLimit then 800000 else if r = rHslot then 0x4E0 else 0 := by
  have hrange : 0x10000 ≤ offPart p r ∧ offPart p r < 0x14000 := by simp only [offPart]; omega
  have hplace : offPart p r % 0x1000 = r := by simp only [offPart]; omega
  have htb : offPart p r ≠ offTbctl := by simp only [offTbctl]; omega
  have hpin : offPart p r ≠ offFpin := by simp only [offFpin]; omega
  simp [regReset, htb, hpin, hrange, hplace]

/-- LBPCFG of each LBP (12: R330). -/
theorem regReset_lbpcfg {n : Nat} (hn : n < 64) : regReset (offLbpcfg n) = lbpcfgReset n := by
  have hrange : 0x60000 ≤ offLbpcfg n ∧ offLbpcfg n < 0x60200 := by simp only [offLbpcfg]; omega
  have hplace : (offLbpcfg n - 0x60000) / 8 = n := by simp only [offLbpcfg]; omega
  have htb : offLbpcfg n ≠ offTbctl := by simp only [offTbctl]; omega
  have hpin : offLbpcfg n ≠ offFpin := by simp only [offFpin]; omega
  have hpart : ¬offLbpcfg n < 0x14000 := by omega
  simp [regReset, htb, hpin, hpart, hrange, hplace]

/-- DMR of each core: every core belongs to partition 0 (02: R45). -/
theorem regReset_dmr {g : Nat} (hg : g < 96) : regReset (offDmr g) = 0 := by
  have hrange : 0x40000 ≤ offDmr g ∧ offDmr g < 0x40300 := by simp only [offDmr]; omega
  have htb : offDmr g ≠ offTbctl := by simp only [offTbctl]; omega
  have hpin : offDmr g ≠ offFpin := by simp only [offFpin]; omega
  have hpart : ¬offDmr g < 0x14000 := by omega
  have hlbp : ¬0x60000 ≤ offDmr g := by omega
  have hdcs : ¬0x80000 ≤ offDmr g := by omega
  have hmsix : ¬offDmr g < 0x9200 := by omega
  simp [regReset, htb, hpin, hpart, hlbp, hdcs, hmsix]

/-- The default chains stand above NIN in LBPCFG, whatever they are. -/
theorem lbpcfgReset_nin (n : Nat) : bits (lbpcfgReset n % 2 ^ 64) 15 8 = 128 := by
  simp only [lbpcfgReset, bits]
  omega

/-! ### The fields that the statement names -/

theorem locked_reset (p : Nat) : State.reset.locked p = false := by
  have hfield : State.reset.fieldOf offCfglock p p = 0 := fieldOf_reset_zero (by decide) rfl p p
  simp [State.locked, hfield]

theorem ready_reset : ready State.reset = false := by
  have hfield : State.reset.fieldOf offStatus 0 0 = 0 := fieldOf_reset_zero (by decide) rfl 0 0
  simp [ready, hfield]

theorem holdLimit_reset {p : Nat} (hp : p < 4) : State.reset.fieldOf (offPart p rHoldLimit) 31 0 = 8000000 :=
  fieldOf_reset (by simp only [offPart, rHoldLimit]; omega) (regReset_part hp (by decide)) 31 0

theorem awaitLimit_reset {p : Nat} (hp : p < 4) : State.reset.fieldOf (offPart p rAwaitLimit) 31 0 = 800000 :=
  fieldOf_reset (by simp only [offPart, rAwaitLimit]; omega) (regReset_part hp (by decide)) 31 0

/-- Every field of HSLOT is that field of its reset value. -/
theorem hslot_reset {p : Nat} (hp : p < 4) (hi lo : Nat) :
    State.reset.fieldOf (offPart p rHslot) hi lo = bits (0x4E0 % 2 ^ 64) hi lo :=
  fieldOf_reset (by simp only [offPart, rHslot]; omega) (regReset_part hp (by decide)) hi lo

theorem lbpcfgNin_reset {n : Nat} (hn : n < 64) : State.reset.fieldOf (offLbpcfg n) 15 8 = 128 := by
  rw [fieldOf_reset (by simp only [offLbpcfg]; omega) (regReset_lbpcfg hn), lbpcfgReset_nin]

theorem partOfCore_reset {g : Nat} (hg : g < 96) : State.reset.partOfCore g = 0 :=
  fieldOf_reset_zero (by simp only [offDmr]; omega) (regReset_dmr hg) 7 6

theorem tbctlInc_reset : State.reset.fieldOf offTbctl 63 32 = 0x28000000 :=
  fieldOf_reset (v := 0x2800000000000000) (by decide) rfl 63 32

/-- Every field of FPIN is that field of its reset value (16: R397). -/
theorem fpin_reset (hi lo : Nat) : State.reset.fieldOf offFpin hi lo = bits (0x1001F03 % 2 ^ 64) hi lo :=
  fieldOf_reset (by decide) rfl hi lo

/-! ### Units, sequencers and memories -/

/-- Every sequencer is as a sequencer is by default: it has no stream and lists no register. -/
theorem seqr_reset (a : Actor) : State.reset.seqr a = {} := by
  cases a with
  | core g q => cases q <;> rfl
  | lbp n => rfl
  | dcs h => rfl
  | mgmt => rfl

theorem readS_default (c : Code) : readS {} c = 0 := by
  rw [readS]
  split
  · rfl
  · exact sget_nil _ _

theorem memoryWf_reset : MemoryWf State.reset := ⟨rfl, rfl, rfl⟩

end Sys2Proof.Machine

namespace Sys2Proof.Proofs

open Sys2Proof.Machine

/-- Settles O60: every unit is as it is by default, and every register of the map reads its reset value. -/
theorem resetState : Obligations.ResetState := by
  unfold Obligations.ResetState
  refine ⟨rfl, fun p _ => ⟨rfl, rfl⟩, fun a => by rw [seqr_reset], rfl, rfl, rfl, rfl, rfl, rfl, rfl, ready_reset,
    fun p hp => ⟨locked_reset p, holdLimit_reset hp, awaitLimit_reset hp, hslot_reset hp 7 0, hslot_reset hp 15 8⟩,
    fun n hn => lbpcfgNin_reset hn, fun h _ => rfl, tbctlInc_reset, fpin_reset 0 0, fpin_reset 1 1,
    fun g hg => partOfCore_reset hg, fun a c => ?_, memoryWf_reset⟩
  rw [seqr_reset, readS_default]

end Sys2Proof.Proofs

/-! SUPPORT. What the vector engine computes on element codes and which lane each lane takes, one rule for each operation
(05: R127, R134, R144; 08: R204, R211 to R216, R226 to R231). -/

namespace Sys2Proof.Machine

/-! ### Integer elements as bits (05: R127) -/

theorem sx_eq_toInt {w : Nat} (hw : 0 < w) (x : Nat) : sx x w = (BitVec.ofNat w x).toInt := by
  obtain ⟨n, rfl⟩ : ∃ n, w = n + 1 := ⟨w - 1, by omega⟩
  simp only [sx, BitVec.toInt_eq_toNat_cond, BitVec.toNat_ofNat, Nat.add_sub_cancel, Nat.pow_succ]
  split <;> split <;> omega

theorem wrap_eq_toNat (w : Nat) (z : Int) : wrap w z = (BitVec.ofInt w z).toNat := by
  simp only [wrap, BitVec.toNat_ofInt]

theorem ofInt_sub (w : Nat) (a b : Int) : BitVec.ofInt w (a - b) = BitVec.ofInt w a - BitVec.ofInt w b := by
  rw [Int.sub_eq_add_neg, BitVec.ofInt_add, BitVec.ofInt_neg, BitVec.sub_eq_add_neg]

theorem lane_lt (v : VOp) (f j : Nat) : v.lane f j < 2 ^ fmtBits (srcFmt v.i f) :=
  Nat.mod_lt _ (Nat.two_pow_pos _)

/-- A W-bit integer format of the vector engine: 8, 16 or 32 bits to an element (05: R124). -/
structure IntFmt (t w : Nat) : Prop where
  bits : fmtBits t = w
  pos : 0 < w
  narrow : isWide t = false

theorem intFmt_of_named {t : B4} {w : Nat} (h : (t = 8 ∧ w = 8) ∨ (t = 11 ∧ w = 16) ∨ (t = 12 ∧ w = 32)) :
    IntFmt t.toNat w := by
  rcases h with ⟨rfl, rfl⟩ | ⟨rfl, rfl⟩ | ⟨rfl, rfl⟩ <;> exact ⟨rfl, by decide, rfl⟩

section
variable {t w : Nat} (f : IntFmt t w) (x y z : Nat)
include f

theorem varith_int_add (rm u : Nat) : varith 0 t rm u x y z = (BitVec.ofNat w x + BitVec.ofNat w y).toNat := by
  simp [varith, f.narrow, f.bits, sx_eq_toInt f.pos, wrap_eq_toNat, BitVec.ofInt_add]

theorem varith_int_sub (rm u : Nat) : varith 1 t rm u x y z = (BitVec.ofNat w x - BitVec.ofNat w y).toNat := by
  simp [varith, f.narrow, f.bits, sx_eq_toInt f.pos, wrap_eq_toNat, ofInt_sub, -BitVec.toNat_sub]

theorem varith_int_mul (rm u : Nat) : varith 2 t rm u x y z = (BitVec.ofNat w x * BitVec.ofNat w y).toNat := by
  simp [varith, f.narrow, f.bits, sx_eq_toInt f.pos, wrap_eq_toNat, BitVec.ofInt_mul]

theorem varith_int_fma (rm u : Nat) :
    varith 3 t rm u x y z = (BitVec.ofNat w x * BitVec.ofNat w y + BitVec.ofNat w z).toNat := by
  simp [varith, f.narrow, f.bits, sx_eq_toInt f.pos, wrap_eq_toNat, BitVec.ofInt_mul, BitVec.ofInt_add]

theorem varith_int_fms (rm u : Nat) :
    varith 4 t rm u x y z = (BitVec.ofNat w x * BitVec.ofNat w y - BitVec.ofNat w z).toNat := by
  simp [varith, f.narrow, f.bits, sx_eq_toInt f.pos, wrap_eq_toNat, BitVec.ofInt_mul, ofInt_sub, -BitVec.toNat_sub]

theorem varith_int_fnma (rm u : Nat) :
    varith 5 t rm u x y z = (BitVec.ofNat w z - BitVec.ofNat w x * BitVec.ofNat w y).toNat := by
  simp [varith, f.narrow, f.bits, sx_eq_toInt f.pos, wrap_eq_toNat, BitVec.ofInt_mul, Int.add_comm, ← Int.sub_eq_add_neg,
    ofInt_sub, -BitVec.toNat_sub]

omit f in
/-- Digit 1 of a number in base m, from the number mod m². -/
theorem ediv_of_emod_sq (z : Int) {m : Int} (hm : 0 < m) : z % (m * m) / m = z / m % m := by
  have hmm : 0 < m * m := Int.mul_pos hm hm
  have hz : z = z % (m * m) + m * (m * (z / (m * m))) := by rw [← Int.mul_assoc, Int.emod_add_mul_ediv]
  have hlo : 0 ≤ z % (m * m) := Int.emod_nonneg _ (Int.ne_of_gt hmm)
  have hhi : z % (m * m) < m * m := Int.emod_lt_of_pos _ hmm
  conv => rhs; rw [hz, Int.add_mul_ediv_left _ _ (Int.ne_of_gt hm), Int.add_mul_emod_self_left]
  exact (Int.emod_eq_of_lt (Int.ediv_nonneg hlo (Int.le_of_lt hm)) (Int.ediv_lt_of_lt_mul hm hhi)).symm

omit f in
theorem toNat_emod_sq_div (z : Int) {m : Nat} (hm : 0 < m) :
    (z % (m * m : Nat)).toNat / m % m = (z / (m : Int) % (m : Int)).toNat := by
  have hpos : (0 : Int) < m := Int.natCast_pos.mpr hm
  have hsq : (0 : Int) ≤ z % (m * m : Nat) := Int.emod_nonneg _ (Int.ne_of_gt (Int.natCast_pos.mpr (Nat.mul_pos hm hm)))
  apply Int.ofNat.inj
  show (((z % (m * m : Nat)).toNat / m % m : Nat) : Int) = ((z / (m : Int) % (m : Int)).toNat : Nat)
  rw [Int.natCast_emod, Int.natCast_ediv, Int.toNat_of_nonneg hsq, Int.toNat_of_nonneg (Int.emod_nonneg _ (Int.ne_of_gt hpos)),
    Int.natCast_mul, ediv_of_emod_sq z hpos, Int.emod_emod]

omit f in
/-- Bits w and up of a product of two signed numbers, from the product of their extensions to 2w bits. -/
theorem toNat_mulHigh (a b : BitVec w) :
    (((a.signExtend (2 * w) * b.signExtend (2 * w)) >>> w).setWidth w).toNat = wrap w (a.toInt * b.toInt / (2 ^ w : Nat)) := by
  have hm : a.signExtend (2 * w) * b.signExtend (2 * w) = BitVec.ofInt (2 * w) (a.toInt * b.toInt) := by
    apply BitVec.eq_of_toInt_eq
    rw [BitVec.toInt_mul, BitVec.toInt_signExtend_of_le (by omega), BitVec.toInt_signExtend_of_le (by omega), BitVec.toInt_ofInt]
  have hsq : 2 ^ (2 * w) = 2 ^ w * 2 ^ w := by rw [Nat.two_mul, Nat.pow_add]
  rw [hm, BitVec.toNat_setWidth, BitVec.toNat_ushiftRight, BitVec.toNat_ofInt, Nat.shiftRight_eq_div_pow, hsq, wrap]
  exact toNat_emod_sq_div _ (Nat.two_pow_pos w)

theorem vmin2_int : vmin2 t x y = if (BitVec.ofNat w x).sle (BitVec.ofNat w y) then x else y := by
  simp [vmin2, f.narrow, f.bits, sx_eq_toInt f.pos, BitVec.sle]

theorem vmax2_int : vmax2 t x y = if (BitVec.ofNat w y).sle (BitVec.ofNat w x) then x else y := by
  simp [vmax2, f.narrow, f.bits, sx_eq_toInt f.pos, BitVec.sle]

theorem vabsOf_int :
    vabsOf t x = (if (BitVec.ofNat w x).slt 0 then -BitVec.ofNat w x else BitVec.ofNat w x).toNat := by
  simp only [vabsOf, f.narrow, f.bits, sx_eq_toInt f.pos, wrap_eq_toNat]
  generalize BitVec.ofNat w x = a
  by_cases h : a.toInt < 0
  · have e : ((a.toInt.natAbs : Nat) : Int) = -a.toInt := by omega
    simp [BitVec.slt, h, e, BitVec.ofInt_neg]
  · have e : ((a.toInt.natAbs : Nat) : Int) = a.toInt := by omega
    simp [BitVec.slt, h, e]

theorem vnegOf_int : vnegOf t x = (-BitVec.ofNat w x).toNat := by
  simp [vnegOf, f.narrow, f.bits, sx_eq_toInt f.pos, wrap_eq_toNat, BitVec.ofInt_neg]

theorem vsraOf_int (k : Nat) : vsraOf t x k = ((BitVec.ofNat w x).sshiftRight k).toNat := by
  simp [vsraOf, f.bits, sx_eq_toInt f.pos, wrap_eq_toNat, BitVec.sshiftRight, Int.shiftRight_eq_div_pow]

omit f in
theorem xor_ones {x : Nat} (hx : x % 2 ^ w = x) : x ^^^ (2 ^ w - 1) = (~~~BitVec.ofNat w x).toNat := by
  rw [← BitVec.xor_allOnes, BitVec.toNat_xor, BitVec.toNat_allOnes, BitVec.toNat_ofNat, hx]

end

/-! ### The lanes of the integer instructions (08: R204, R212 to R216) -/

theorem intLane_fields {i : Instr} {w : Nat} {a b c r : BitVec w} {x : XV} (h : Claims.intLane i w a b c = some (x, r)) :
    xvOf i = some x ∧ ignoresMask i = false ∧ ∀ f, srcFmt i f = x.t.toNat := by
  unfold Claims.intLane at h
  split at h <;> cases h <;> exact ⟨rfl, rfl, fun _ => rfl⟩

theorem value_of_intLane {v : VOp} {w : Nat} {x : XV} {r : BitVec w} (a : Actor) (j : Nat) (f : IntFmt x.t.toNat w)
    (h : Claims.intLane v.i w (BitVec.ofNat w (v.lane 1 j)) (BitVec.ofNat w (v.lane 2 j)) (BitVec.ofNat w (v.lane 3 j)) =
      some (x, r)) : v.value a j = some r.toNat := by
  have lane_mod (k : Nat) : v.lane k j % 2 ^ w = v.lane k j := by
    obtain ⟨-, -, hfmt⟩ := intLane_fields h
    have hlt := lane_lt v k j
    rw [hfmt, f.bits] at hlt
    exact Nat.mod_eq_of_lt hlt
  unfold Claims.intLane at h
  split at h
  · next hi => cases h; simp only [VOp.value, hi, varith_int_add f]
  · next hi => cases h; simp only [VOp.value, hi, varith_int_sub f]
  · next hi => cases h; simp only [VOp.value, hi, varith_int_mul f]
  · next hi => cases h; simp only [VOp.value, hi, toNat_mulHigh, f.bits, sx_eq_toInt f.pos]
  · next hi => cases h; simp only [VOp.value, hi, varith_int_fma f]
  · next hi => cases h; simp only [VOp.value, hi, varith_int_fms f]
  · next hi => cases h; simp only [VOp.value, hi, varith_int_fnma f]
  · next hi => cases h; simp only [VOp.value, hi, vmin2_int f, apply_ite BitVec.toNat, BitVec.toNat_ofNat, lane_mod]
  · next hi => cases h; simp only [VOp.value, hi, vmax2_int f, apply_ite BitVec.toNat, BitVec.toNat_ofNat, lane_mod]
  · next hi => cases h; simp only [VOp.value, hi, vabsOf_int f]
  · next hi => cases h; simp only [VOp.value, hi, vnegOf_int f]
  · next hi => cases h; simp only [VOp.value, hi, f.bits, xor_ones (lane_mod 1)]
  · next hi => cases h; simp only [VOp.value, hi, BitVec.toNat_ofNat, lane_mod]
  · next hi => cases h; simp only [VOp.value, hi, BitVec.toNat_and, BitVec.toNat_ofNat, lane_mod]
  · next hi => cases h; simp only [VOp.value, hi, BitVec.toNat_or, BitVec.toNat_ofNat, lane_mod]
  · next hi => cases h; simp only [VOp.value, hi, BitVec.toNat_xor, BitVec.toNat_ofNat, lane_mod]
  · next hi =>
    cases h
    simp only [VOp.value, hi, shiftAmt, f.bits, BitVec.toNat_shiftLeft, BitVec.toNat_ofNat, lane_mod, Nat.shiftLeft_eq]
  · next hi =>
    cases h
    simp only [VOp.value, hi, shiftAmt, f.bits, BitVec.toNat_ushiftRight, BitVec.toNat_ofNat, lane_mod, Nat.shiftRight_eq_div_pow]
  · next hi => cases h; simp only [VOp.value, hi, shiftAmt, f.bits, vsraOf_int f, BitVec.toNat_ofNat, lane_mod]
  · cases h

/-- Each instruction of `intLane` gives every lane a value. -/
theorem value_isSome_of_intLane {v : VOp} {w : Nat} {p q r : BitVec w} (a : Actor) (j : Nat)
    (h : Claims.intLane v.i w p q r ≠ none) : (v.value a j).isSome := by
  unfold Claims.intLane at h
  split at h
  case h_20 => exact absurd rfl h
  all_goals next hi => simp only [VOp.value, hi, Option.isSome_some]

/-! ### Masks (08: R204) -/

theorem laneOut_active {v : VOp} (a : Actor) {j : Nat} (hj : v.mask.testBit j = true) : v.laneOut a j = v.value a j := by
  simp [VOp.laneOut, VOp.active, hj]

theorem laneOut_inactive {v : VOp} (a : Actor) {j : Nat} {x : XV} (hi : ignoresMask v.i = false) (hx : xvOf v.i = some x)
    (hj : v.mask.testBit j = false) : v.laneOut a j = if x.mz then (v.value a j).map fun _ => 0 else none := by
  simp [VOp.laneOut, VOp.active, hj, hi, hx]

/-- A number that is given its bits one by one has those bits and no other. -/
theorem testBit_foldl_bits (p : Nat → Prop) [DecidablePred p] (n : Nat) :
    let z := (List.range n).foldl (fun z k => if p k then z + 2 ^ k else z) 0
    z < 2 ^ n ∧ ∀ j, z.testBit j = (decide (j < n) && decide (p j)) := by
  induction n with
  | zero => simp
  | succ n ih =>
    obtain ⟨hlt, hbit⟩ := ih
    simp only [List.range_succ, List.foldl_append, List.foldl_cons, List.foldl_nil]
    generalize (List.range n).foldl (fun z k => if p k then z + 2 ^ k else z) 0 = z at hlt hbit
    by_cases hp : p n
    · refine ⟨by simp only [hp, if_true, Nat.pow_succ]; omega, fun j => ?_⟩
      rw [if_pos hp, Nat.add_comm]
      rcases Nat.lt_trichotomy j n with h | rfl | h
      · rw [Nat.testBit_two_pow_add_gt h, hbit]; simp [h, Nat.lt_succ_of_lt h]
      · rw [Nat.testBit_two_pow_add_eq, Nat.testBit_lt_two_pow hlt]; simp [hp]
      · rw [Nat.testBit_lt_two_pow (Nat.lt_of_lt_of_le (by omega : 2 ^ n + z < 2 ^ (n + 1)) (Nat.pow_le_pow_right (by omega) h))]
        simp; omega
    · refine ⟨by simp only [hp, if_false, Nat.pow_succ]; omega, fun j => ?_⟩
      rw [if_neg hp, hbit]
      by_cases h : j = n
      · subst h; simp [hp]
      · simp only [show j < n + 1 ↔ j < n by omega]

theorem testBit_activeBits (s : State) (a : Actor) {i : Instr} {x : XV} (hx : xvOf i = some x) {n j : Nat} (hj : j < n) :
    (activeBits s a i n).testBit j = (!x.men || (s.maskOf a x.msk.toNat).testBit (laneBit (maskWidth i) j)) := by
  cases hm : x.men
  · simp [activeBits, hx, hm, Nat.testBit_two_pow_sub_one, hj]
  · obtain ⟨-, hbit⟩ := testBit_foldl_bits (fun k => (s.maskOf a x.msk.toNat).testBit (laneBit (maskWidth i) k) = true) n
    simp only [activeBits, hx, hm, if_true, hbit, hj]
    simp

/-! ### Exact values (05: R134) -/

@[simp] theorem Val.den_fin (s : Bool) (n d : Nat) : (Val.fin s n d).den = d := rfl

/-- A finite value of integer z over d, as sums and products build it. -/
theorem Val.num_ofInt (z : Int) (d : Nat) : (Val.fin (decide (z < 0)) z.natAbs d).num = z := by
  simp only [Val.num, decide_eq_true_eq]
  split <;> omega

theorem Val.num_zero (s : Bool) (d : Nat) : (Val.fin s 0 d).num = 0 := by cases s <;> rfl

/-- A sum of two fractions, cross-multiplied. -/
theorem Val.num_add (m : Nat) (p q : Bool) (a b c d : Nat) :
    (Val.add m (.fin p a b) (.fin q c d)).num * (b * d) =
      ((Val.fin p a b).num * d + (Val.fin q c d).num * b) * (Val.add m (.fin p a b) (.fin q c d)).den := by
  simp only [Val.add]
  generalize (Val.fin p a b).num * d + (Val.fin q c d).num * b = z
  split
  · next hz => split <;> simp [Val.num_zero, hz]
  · simp [Val.num_ofInt]

/-- A product of two fractions. -/
theorem Val.num_mul (p q : Bool) (a b c d : Nat) :
    (Val.mul (.fin p a b) (.fin q c d)).num = (Val.fin p a b).num * (Val.fin q c d).num := by
  cases p <;> cases q
  · exact Int.natCast_mul a c
  · exact (congrArg Neg.neg (Int.natCast_mul a c)).trans (Int.mul_neg _ _).symm
  · exact (congrArg Neg.neg (Int.natCast_mul a c)).trans (Int.neg_mul _ _).symm
  · exact (Int.natCast_mul a c).trans (Int.neg_mul_neg _ _).symm

/-! ### Float lanes (08: R211, R212, R214) -/

theorem floatValue_ne_nan (t c : Nat) : floatValue t c ≠ .nan := by
  simp only [floatValue, Val.dyadic]
  split <;> split <;> exact Val.noConfusion

theorem decode5_eq_nan {t : Nat} (ht : isWide t = true) (c : Nat) : decode5 t c = .nan ↔ isNanCode t c = true := by
  simp only [decode5, isNanCode, ht, if_true, Bool.true_and, decide_eq_true_eq]
  split
  · simp [*]
  · next h => split <;> simp [floatValue_ne_nan, h]

theorem isNanCode_eq_false {t : Nat} (ht : isWide t = true) {c : Nat} (h : decode5 t c ≠ .nan) : isNanCode t c = false := by
  rwa [Ne, decode5_eq_nan ht, Bool.not_eq_true] at h

/-! ### Which lane each lane takes (08: R226 to R229) -/

theorem popBelow_eq_countP (x n : Nat) : popBelow x n = (List.range n).countP fun k => x.testBit k := by
  induction n with
  | zero => rfl
  | succ n ih => simp [popBelow, ih, List.range_succ, List.countP_append, List.countP_cons]

/-- An active lane stands among the active lanes behind those below it. -/
theorem actives_getElem?_countP (v : VOp) {i : Nat} (hi : i < v.n) (ha : v.mask.testBit i = true) :
    v.actives[(List.range i).countP fun k => v.mask.testBit k]? = some i := by
  obtain ⟨m, hm⟩ : ∃ m, v.n = i + (m + 1) := ⟨v.n - i - 1, by omega⟩
  have hact : v.active = fun k => v.mask.testBit k := rfl
  rw [VOp.actives, hact, hm, List.range_add, List.range_succ_eq_map, List.filter_append, List.countP_eq_length_filter,
    List.getElem?_append_right (Nat.le_refl _), Nat.sub_self]
  simp [ha]

theorem actives_length (v : VOp) : v.actives.length = (List.range v.n).countP fun k => v.mask.testBit k := by
  rw [VOp.actives, List.countP_eq_length_filter]; rfl

/-! ### VSHUF (08: R227) -/

theorem value_vshuf {v : VOp} {h : Hdr} {fn : B3} {o : A3} {x : XV} (a : Actor) (hi : v.i = .vshuf h fn o x) (j : Nat) :
    v.value a j = v.shuf (isLbp a) fn.toNat x.t.toNat j := by
  simp only [VOp.value, hi]

section
variable (v : VOp) (lbp : Bool) (t : Nat) {i : Nat} (hi : i < v.n / 2)
include hi

theorem shuf_interleaveLow :
    v.shuf lbp 0 t (2 * i) = some (v.lane 1 i) ∧ v.shuf lbp 0 t (2 * i + 1) = some (v.lane 2 i) := by
  simp [VOp.shuf, show 2 * i < 2 * (v.n / 2) by omega, show 2 * i + 1 < 2 * (v.n / 2) by omega,
    show (2 * i + 1) % 2 = 1 by omega, show (2 * i + 1) / 2 = i by omega]

theorem shuf_interleaveHigh :
    v.shuf lbp 1 t (2 * i) = some (v.lane 1 (v.n / 2 + i)) ∧ v.shuf lbp 1 t (2 * i + 1) = some (v.lane 2 (v.n / 2 + i)) := by
  simp [VOp.shuf, show 2 * i < 2 * (v.n / 2) by omega, show 2 * i + 1 < 2 * (v.n / 2) by omega,
    show (2 * i + 1) % 2 = 1 by omega, show (2 * i + 1) / 2 = i by omega]

theorem shuf_gatherEven :
    v.shuf lbp 2 t i = some (v.lane 1 (2 * i)) ∧ v.shuf lbp 2 t (v.n / 2 + i) = some (v.lane 2 (2 * i)) := by
  simp [VOp.shuf, show i < 2 * (v.n / 2) by omega, show v.n / 2 + i < 2 * (v.n / 2) by omega,
    show ¬ v.n / 2 + i < v.n / 2 by omega, hi]

theorem shuf_gatherOdd :
    v.shuf lbp 3 t i = some (v.lane 1 (2 * i + 1)) ∧ v.shuf lbp 3 t (v.n / 2 + i) = some (v.lane 2 (2 * i + 1)) := by
  simp [VOp.shuf, show i < 2 * (v.n / 2) by omega, show v.n / 2 + i < 2 * (v.n / 2) by omega,
    show ¬ v.n / 2 + i < v.n / 2 by omega, hi]

end

theorem shuf_transpose (v : VOp) (lbp : Bool) (t : Nat) {c r : Nat} (hc : c < capOf lbp t / 64) (hr : r < 64) :
    v.shuf lbp 4 t (c * 64 + r) = some (v.lane 1 (r * (capOf lbp t / 64) + c)) := by
  simp [VOp.shuf, show c * 64 + r < 64 * (capOf lbp t / 64) by omega, show (c * 64 + r) % 64 = r by omega,
    show (c * 64 + r) / 64 = c by omega]

/-! ### The tree of R144 -/

section
variable {α : Type} (op : α → α → α)

theorem treeFold_succ (k : Nat) (l : List α) : treeFold op (k + 1) l = pairUp op (treeFold op k l) := by
  induction k generalizing l with
  | zero => rfl
  | succ k ih => exact ih (pairUp op l)

theorem pairUp_append (n : Nat) (l m : List α) (h : l.length = 2 * n) : pairUp op (l ++ m) = pairUp op l ++ pairUp op m := by
  induction n generalizing l with
  | zero => rw [List.length_eq_zero_iff.mp h]; rfl
  | succ n ih =>
    match l, h with
    | x :: y :: l, h =>
      have hl : l.length = 2 * n := by simp only [List.length_cons] at h; omega
      simp only [List.cons_append, pairUp, ih l hl]

theorem length_pairUp (n : Nat) (l : List α) (h : l.length = 2 * n) : (pairUp op l).length = n := by
  induction n generalizing l with
  | zero => rw [List.length_eq_zero_iff.mp h]; rfl
  | succ n ih =>
    match l, h with
    | x :: y :: l, h =>
      have hl : l.length = 2 * n := by simp only [List.length_cons] at h; omega
      simp only [pairUp, List.length_cons, ih l hl]

/-- Levels of the tree over 2^k values work on them alone. -/
theorem treeFold_append (k : Nat) (l m : List α) (h : l.length = 2 ^ k) :
    treeFold op k (l ++ m) = treeFold op k l ++ treeFold op k m := by
  induction k generalizing l m with
  | zero => rfl
  | succ k ih =>
    have hl : l.length = 2 * 2 ^ k := by rw [h, Nat.pow_succ, Nat.mul_comm]
    simp only [treeFold, pairUp_append op _ l m hl]
    exact ih _ _ (length_pairUp op _ l hl)

/-- The tree over 2^k values leaves one value. -/
theorem treeFold_pow (k : Nat) (l : List α) (h : l.length = 2 ^ k) : ∃ x, treeFold op k l = [x] := by
  induction k generalizing l with
  | zero => exact List.length_eq_one_iff.mp h
  | succ k ih => exact ih _ (length_pairUp op _ l (by rw [h, Nat.pow_succ, Nat.mul_comm]))

theorem powAtLeast_pow {k : Nat} (h : k ≤ 13) : powAtLeast (2 ^ k) = k := by
  have hfind : (List.range 14).find? (fun j => decide (2 ^ k ≤ 2 ^ j)) = some k := by
    rw [List.find?_range_eq_some]
    refine ⟨by simp, by simp; omega, fun j hj => ?_⟩
    simp [Nat.pow_lt_pow_right (by decide : 1 < 2) hj]
  rw [powAtLeast, hfind, Option.getD_some]

theorem le_pow_powAtLeast {n : Nat} (h : n ≤ 2 ^ 13) : n ≤ 2 ^ powAtLeast n := by
  cases hfind : (List.range 14).find? fun k => decide (n ≤ 2 ^ k) with
  | none => exact absurd (List.find?_eq_none.mp hfind 13 (by decide)) (by simpa using h)
  | some k => rw [powAtLeast, hfind]; simpa using List.find?_some hfind

theorem powAtLeast_succ {n : Nat} (h : ∀ k, n ≠ 2 ^ k) : powAtLeast (n + 1) = powAtLeast n := by
  have hle (k : Nat) : n + 1 ≤ 2 ^ k ↔ n ≤ 2 ^ k := by have := h k; omega
  simp only [powAtLeast, hle]

theorem tree_singleton (e x : α) : tree op e [x] = x := rfl

theorem tree_of_pow (e : α) {k : Nat} (hk : k ≤ 13) (l : List α) (h : l.length = 2 ^ k) : tree op e l = (treeFold op k l).headD e := by
  simp [tree, h, powAtLeast_pow hk]

/-- Two halves of 2^k values: the two results combined. -/
theorem tree_append (e : α) {k : Nat} (hk : k < 13) (l m : List α) (hl : l.length = 2 ^ k) (hm : m.length = 2 ^ k) :
    tree op e (l ++ m) = op (tree op e l) (tree op e m) := by
  obtain ⟨x, hx⟩ := treeFold_pow op k l hl
  obtain ⟨y, hy⟩ := treeFold_pow op k m hm
  rw [tree_of_pow op e (Nat.le_of_lt hk) l hl, tree_of_pow op e (Nat.le_of_lt hk) m hm,
    tree_of_pow op e (Nat.succ_le_of_lt hk) (l ++ m) (by rw [List.length_append, hl, hm, Nat.pow_succ, Nat.mul_two]),
    treeFold_succ, treeFold_append op k l m hl, hx, hy]
  rfl

/-- A number of values that is no power of two: as with one identity more. -/
theorem tree_pad (e : α) (l : List α) (hlen : l.length < 2 ^ 13) (hpow : ∀ k, l.length ≠ 2 ^ k) :
    tree op e l = tree op e (l ++ [e]) := by
  have hroom : l.length < 2 ^ powAtLeast l.length := Nat.lt_of_le_of_ne (le_pow_powAtLeast (Nat.le_of_lt hlen)) (hpow _)
  have hpad : List.replicate (2 ^ powAtLeast l.length - l.length) e =
      e :: List.replicate (2 ^ powAtLeast l.length - (l.length + 1)) e := by
    rw [← List.replicate_succ]; congr 1; omega
  simp only [tree, List.length_append, List.length_singleton, powAtLeast_succ hpow, hpad, List.append_assoc, List.singleton_append]

end

/-! ### Reductions (08: R230, R231) -/

theorem foldl_add_eq_sum {β : Type} (f : β → Int) (l : List β) : l.foldl (fun z j => z + f j) 0 = (l.map f).sum := by
  rw [List.sum_eq_foldl, List.foldl_map]

/-- A sum of integers is exact. -/
theorem redResult_sum (v : VOp) {t : Nat} (rm : Nat) (ht : isWide t = false) :
    v.redResult 0 t rm = BitVec.ofInt 64 (v.actives.map fun j => sx (v.lane 1 j) (fmtBits t)).sum := by
  simp [VOp.redResult, ht, foldl_add_eq_sum]

/-- An extremum of integers is a signed number. -/
theorem redResult_signed (v : VOp) {fn t : Nat} (rm : Nat) (hfn : fn = 1 ∨ fn = 2) (ht : isWide t = false) :
    v.redResult fn t rm = BitVec.ofInt 64 (sx (tree (redOp fn t rm) (redIdent fn t) (v.redLanes fn t v.n)) (fmtBits t)) := by
  rcases hfn with rfl | rfl <;> simp [VOp.redResult, ht]

/-- Every other reduction is the code that the tree leaves. -/
theorem redResult_code (v : VOp) {fn t : Nat} (rm : Nat) (h : 3 ≤ fn ∨ isWide t = true) :
    v.redResult fn t rm = BitVec.ofNat 64 (tree (redOp fn t rm) (redIdent fn t) (v.redLanes fn t v.n)) := by
  rcases h with h | h
  · simp [VOp.redResult, show fn ≠ 0 by omega, show fn ≠ 1 by omega, show fn ≠ 2 by omega]
  · simp [VOp.redResult, h]

theorem dotResult_sum (v : VOp) {t : Nat} (rm : Nat) (ht : isWide t = false) :
    v.dotResult t rm =
      BitVec.ofInt 64 (v.actives.map fun j => sx (v.lane 1 j) (fmtBits t) * sx (v.lane 2 j) (fmtBits t)).sum := by
  simp [VOp.dotResult, ht, foldl_add_eq_sum]

theorem redOp_add_float {t : Nat} (rm : Nat) (ht : isWide t = true) :
    redOp 0 t rm = fun x y => rnd t (Val.add rm (decode5 t x) (decode5 t y)) rm 0 := by
  funext x y
  simp [redOp, varith, ht]

theorem redIdent_wide {t : Nat} (ht : isWide t = true) :
    redIdent 0 t = signBit t ∧ redIdent 1 t = signBit t + infCode t ∧ redIdent 2 t = infCode t := by
  simp [redIdent, ht]

theorem redIdent_int {t : Nat} (ht : isWide t = false) : redIdent 1 t = signBit t ∧ redIdent 2 t = signBit t - 1 := by
  simp [redIdent, ht]

/-! ### Special inputs of the transcendental functions (05: R150) -/

theorem f32_of_isNanCode {c : Nat} (h : isNanCode 0 c = true) : f32 c = .nan := (decode5_eq_nan rfl c).mpr h

theorem f32_posZero : f32 0 = .fin false 0 (2 ^ 149) := by decide +kernel
theorem f32_negZero : f32 0x80000000 = .fin true 0 (2 ^ 149) := by decide +kernel
theorem f32_posInf : f32 0x7F800000 = .inf false := by decide +kernel
theorem f32_negInf : f32 0xFF800000 = .inf true := by decide +kernel

theorem nan32_eq : nan32 = 0x7FC00000 := by decide

/-- Every function gives the canonical NaN for a NaN. -/
theorem transOf_nan (i : Instr) (ver : Nat) {c : Nat} (h : isNanCode 0 c = true) : transOf i ver c = nan32 := by
  unfold transOf
  split <;> rw [f32_of_isNanCode h] <;> rfl

/-- VEXP2 from 128 up overflows. -/
theorem tExp2_overflow (ver : Nat) {n d : Nat} (h : 128 * d ≤ n) : tExp2 ver (.fin false n d) = inf32 false := by
  have hz : (128 * d : Int) ≤ n := by exact_mod_cast h
  simp [tExp2, Val.num, hz]

/-- VEXP2 below -150 is zero. -/
theorem tExp2_underflow (ver : Nat) {n d : Nat} (h : 150 * d < n) : tExp2 ver (.fin true n d) = 0 := by
  have hlo : -(n : Int) < -150 * (d : Int) := by omega
  have hhi : ¬ 128 * (d : Int) ≤ -(n : Int) := by omega
  simp only [tExp2, Val.num, if_true, ge_iff_le, hhi, hlo, if_false]

theorem tLog2_neg (ver : Nat) {n : Nat} (d : Nat) (h : 0 < n) : tLog2 ver (.fin true n d) = nan32 := by
  simp [tLog2, Nat.ne_of_gt h]

theorem tRsq_neg (ver : Nat) {n : Nat} (d : Nat) (h : 0 < n) : tRsq ver (.fin true n d) = nan32 := by
  simp [tRsq, Nat.ne_of_gt h]

theorem tTanh_large (ver : Nat) (p : Bool) {n d : Nat} (h : 16 * d ≤ n) (hn : 0 < n) : tTanh ver (.fin p n d) = one32 p := by
  simp [tTanh, h, Nat.ne_of_gt hn]

theorem tErf_large (ver : Nat) (p : Bool) {n d : Nat} (h : 4 * d ≤ n) (hn : 0 < n) : tErf ver (.fin p n d) = one32 p := by
  simp [tErf, h, Nat.ne_of_gt hn]

theorem tSigm_large (ver : Nat) (p : Bool) {n d : Nat} (h : 128 * d ≤ n) :
    tSigm ver (.fin p n d) = if p then 0 else one32 false := by
  simp [tSigm, h]

end Sys2Proof.Machine

namespace Sys2Proof.Proofs

open Sys2Proof.Machine

theorem vectorIntegerLanes : Claims.VectorIntegerLanes :=
  fun a _ j _ _ _ hfmt h => value_of_intLane a j (intFmt_of_named hfmt) h

theorem vectorMasking : Claims.VectorMasking := by
  refine ⟨fun a v j w x r p q hlane hx => ?_, fun s a i n j x hx hj => ?_⟩
  · obtain ⟨y, hy⟩ := Option.ne_none_iff_exists'.mp hlane
    obtain ⟨-, hmask, -⟩ := intLane_fields hy
    obtain ⟨c, hc⟩ := Option.isSome_iff_exists.mp (value_isSome_of_intLane a j hlane)
    refine ⟨laneOut_active a, fun hj hz => ?_, fun hj hz => ?_⟩
    · rw [laneOut_inactive a hmask hx hj, hz]; rfl
    · rw [laneOut_inactive a hmask hx hj, hz, hc]; rfl
  · refine ⟨fun hm => ?_, fun hm => ?_⟩
    · rw [testBit_activeBits s a hx hj, hm]; rfl
    · rw [testBit_activeBits s a hx hj, hm]; rfl

theorem exactValues : Claims.ExactValues := fun m p q a b c d =>
  ⟨Val.num_add m p q a b c d, by rw [Val.num_mul]; simp [Val.mul], by cases p <;> rfl, rfl, rfl⟩

theorem vectorFloatLanes : Claims.VectorFloatLanes := by
  intro a v j x ht t rm A B C is h o
  have hw : isWide x.t.toNat = true := by simp [isWide, ht]
  have hnan (c : Nat) : decode5 x.t.toNat c = .nan ↔ isNanCode x.t.toNat c = true := decode5_eq_nan hw c
  refine ⟨fun hi => ?_, fun hi => ?_, fun hi => ?_, fun hi => ?_, fun hi => ?_, fun hi => ?_, fun hi hA => ?_, fun hi hA => ?_,
    fun hi hA => ?_, fun hi => ⟨fun hA hB => ?_, fun hA hB => ?_, fun hA hB => ?_⟩⟩
  iterate 6
    · simp only [is, VOp.value, hi, varith, hw, if_true]
      rfl
  · simp [VOp.value, hi, vabsOf, hw, isNanCode_eq_false hw hA, t]
  · simp [VOp.value, hi, vnegOf, hw, isNanCode_eq_false hw hA, t]
  · rcases hi with hi | hi <;> simp [VOp.value, hi, vabsOf, vnegOf, hw, (hnan _).mp hA, t]
  · rcases hi with hi | hi <;> simp [VOp.value, hi, vmin2, vmax2, hw, (hnan _).mp hA, (hnan _).mp hB, t]
  · rcases hi with hi | hi <;> simp [VOp.value, hi, vmin2, vmax2, hw, (hnan _).mp hA, isNanCode_eq_false hw hB]
  · rcases hi with hi | hi <;> simp [VOp.value, hi, vmin2, vmax2, hw, isNanCode_eq_false hw hA, (hnan _).mp hB]

theorem vectorPermutes : Claims.VectorPermutes := by
  intro g q v x h o a below
  have hbelow (j : Nat) : below j = popBelow v.mask j := (popBelow_eq_countP v.mask j).symm
  refine ⟨fun hi j => ?_, fun fn i hi hlt => ⟨fun hfn => ?_, fun hfn => ?_, fun hfn => ?_, fun hfn => ?_⟩, fun c r hi hc hr => ?_,
    fun hi j => ?_, fun hi => ⟨fun i hin hact => ?_, fun i hle => ?_⟩, fun hi j => ?_⟩
  · simp only [VOp.value, hi, a, isLbp]
  · subst hfn; simp only [value_vshuf a hi]; exact shuf_interleaveLow v _ _ hlt
  · subst hfn; simp only [value_vshuf a hi]; exact shuf_interleaveHigh v _ _ hlt
  · subst hfn; simp only [value_vshuf a hi]; exact shuf_gatherEven v _ _ hlt
  · subst hfn; simp only [value_vshuf a hi]; exact shuf_gatherOdd v _ _ hlt
  · rw [value_vshuf a hi]; exact shuf_transpose v _ _ hc hr
  · simp only [VOp.value, hi, a, isLbp, VOp.rotBy, chunkBytes, Bool.false_eq_true, if_false]
  · simp only [VOp.value, hi]
    rw [actives_getElem?_countP v hin hact]
  · simp only [VOp.value, hi]
    rw [List.getElem?_eq_none (by rw [actives_length]; exact hle)]
  · rw [hbelow]; simp only [VOp.value, hi]; rfl

theorem vectorReductions : Claims.VectorReductions := by
  refine ⟨fun op e => ⟨tree_singleton op e, fun k l m hk hl hm => tree_append op e hk l m hl hm, tree_pad op e⟩,
    fun v t rm => ?_⟩
  have wide (h : t ≤ 2) : isWide t = true := by simp [isWide, h]
  have narrow (h : ¬ t ≤ 2) : isWide t = false := by simp [isWide, h]
  refine ⟨fun h => ?_, fun h => ?_, fun h => ?_, fun h => redResult_sum v rm (narrow h), fun h => ?_, fun h => ?_,
    fun _ => redResult_code v rm (.inl (by decide)), fun _ => redResult_code v rm (.inl (by decide)),
    fun _ => redResult_code v rm (.inl (by decide)), fun h => dotResult_sum v rm (narrow h)⟩
  · obtain ⟨hid, -, -⟩ := redIdent_wide (wide h)
    rw [redResult_code v rm (.inr (wide h)), redOp_add_float rm (wide h), VOp.redLanes, hid]; rfl
  · obtain ⟨-, hid, -⟩ := redIdent_wide (wide h)
    rw [redResult_code v rm (.inr (wide h)), VOp.redLanes, hid]; rfl
  · obtain ⟨-, -, hid⟩ := redIdent_wide (wide h)
    rw [redResult_code v rm (.inr (wide h)), VOp.redLanes, hid]; rfl
  · obtain ⟨hid, -⟩ := redIdent_int (narrow h)
    rw [redResult_signed v rm (.inl rfl) (narrow h), VOp.redLanes, hid]; rfl
  · obtain ⟨-, hid⟩ := redIdent_int (narrow h)
    rw [redResult_signed v rm (.inr rfl) (narrow h), VOp.redLanes, hid]; rfl

theorem specialInputs : Claims.SpecialInputs := by
  intro i ver c n d
  rw [f32_posZero, f32_negZero, f32_posInf, f32_negInf]
  refine ⟨fun h => transOf_nan i ver h, ⟨rfl, rfl, tExp2_overflow ver, tExp2_underflow ver⟩,
    ⟨rfl, rfl, rfl, rfl, tLog2_neg ver d⟩, ⟨rfl, rfl, rfl, rfl⟩, ⟨rfl, rfl, rfl, rfl, tRsq_neg ver d⟩,
    fun b => ⟨rfl, rfl⟩, rfl, fun p => ⟨tTanh_large ver p, tErf_large ver p, rfl, rfl, rfl, rfl⟩,
    rfl, rfl, fun h => ⟨tSigm_large ver false h, tSigm_large ver true h⟩⟩

/-- Settles O16, part by part: each lane is the rule of its operation applied to the codes of its operands, and the model's
`tree` takes halves of 2^k values apart and pads any other number of values with identities. -/
theorem vectorLanes : Obligations.VectorLanes := by
  unfold Obligations.VectorLanes
  exact ⟨vectorIntegerLanes, vectorMasking, exactValues, vectorFloatLanes, vectorPermutes, vectorReductions, specialInputs⟩

end Sys2Proof.Proofs

/-! SUPPORT. The completion word of a matrix command (09: R243; 10: R294), and a state in which a status wider than its field
of 16 bits changes the field above it. -/

namespace Sys2Proof.Machine

/-! ### The word that a completion gives to cq -/

/-- The word of a command that has completed enters cq, where cq has room and no word of its stream waits. -/
theorem cq_meComplete {s : State} {g str : Nat} {m : MCmd} (hm : meDone s g str = some m) (hroom : (s.core g).cq.length < 64)
    (hwait : ((s.core g).cqWait.all fun e => e.1 ≠ str) = true) :
    ((meComplete s g str).core g).cq = (s.core g).cq ++
      [{ word := cqWordOf 1 str (meCode m.i) 0 (if m.status = 0 && m.ecc then 9 else m.status) m.iter m.seq m.count }] := by
  simp only [meComplete, hm, State.modCore_eq, State.core_setCore]
  rw [offerWord, if_pos (by simp only [setMCmd, capCq, hroom, hwait]; rfl)]
  rfl

theorem exec_meCommandComplete {s : State} (hw : s.worked = true) {m : MCmd} (hm : meDone s s.unit s.sub = some m) :
    exec .meCommandComplete s = .next (meComplete s s.unit s.sub) := by
  show execMeCommandComplete s = _
  simp [execMeCommandComplete, hw, hm]

/-- Bits 32 to 55 of a number. -/
theorem toNat_extract_iter (x : Nat) : ((BitVec.ofNat 128 x).extractLsb' 32 24).toNat = x / 2 ^ 32 % 2 ^ 24 := by
  simp only [BitVec.extractLsb'_toNat, BitVec.toNat_ofNat, Nat.shiftRight_eq_div_pow]
  omega

/-- ITER of a completion word: the iteration, and what of the status lies above the 16 bits of STATUS. -/
theorem iter_cqWordOf {str code : Nat} (hs : str < 4) (hc : code < 16) (status iter seq count : Nat) :
    ((cqWordOf 1 str code 0 status iter seq count).extractLsb' 32 24).toNat = (iter + status / 2 ^ 16) % 2 ^ 24 := by
  rw [cqWordOf, toNat_extract_iter]
  generalize count % 2 ^ 64 = c
  omega

/-- An MZERO of stream 0 that has completed with status 2^16 in iteration 0. -/
def statusPastField : MCmd where
  id := 1
  i := .mzero ⟨false, false, false, false, 0⟩ ⟨0, 0, 0⟩ ⟨0, 0, false, 0, 0, 0, 0⟩
  org := ⟨.c, 0, 0, false, 0⟩
  c := 0
  stamp := none
  s1 := 0
  s2 := 0
  draw := 0
  key := []
  ident := 0
  gated := false
  iter := 0
  seq := 0
  levs := []
  doneAt := some 1
  status := 2 ^ 16

/-- Core 0 in schedule cycle 1, with that command as the only one of its matrix engine. -/
def completesPastField : State :=
  { State.reset with cores := [(0, { mcmds := [(0, [statusPastField])] })], parts := [(0, { scc := 1 })], worked := true }

theorem meDone_completesPastField : meDone completesPastField 0 0 = some statusPastField := by decide +kernel

end Sys2Proof.Machine

namespace Sys2Proof.Proofs

open Sys2Proof.Machine

/-- Refutes O20: it gives ITER of the completion word as the command's iteration mod 2^24 for every status, and not only for one
below 2^16; a command of iteration 0 that completes with status 2^16 gives a word whose ITER is 1. -/
theorem not_matrixEvents : ¬ Obligations.MatrixEvents := by
  unfold Obligations.MatrixEvents
  rintro ⟨-, -, -, -, -, -, hcomplete⟩
  obtain ⟨t, w, hexec, hcq, -, -, -, -, -, -, hiter, -, -⟩ :=
    hcomplete completesPastField statusPastField rfl meDone_completesPastField (by decide +kernel) (by decide +kernel) (by decide +kernel)
  have ht : meComplete completesPastField 0 0 = t :=
    Host.Outcome.next.inj ((exec_meCommandComplete rfl meDone_completesPastField).symm.trans hexec)
  have hw : [({ word := cqWordOf 1 0 4 0 (2 ^ 16) 0 0 0 } : CqWord)] = [{ word := w }] :=
    (cq_meComplete meDone_completesPastField (by decide +kernel) (by decide +kernel)).symm.trans (ht ▸ hcq)
  obtain ⟨⟨rfl, -⟩, -⟩ := hw
  rw [iter_cqWordOf (by decide) (by decide)] at hiter
  exact absurd hiter (by decide)

end Sys2Proof.Proofs

/-! SUPPORT. The issue of a command of the matrix engine: what its checks answer, and the command that joins its stream
(09: R241; 17: R415; 18: R436). -/

namespace Sys2Proof.Machine

/-! ### Registers that are awake (17: R415) -/

theorem powerTrap_awake {s : State} {g : Nat} {i : Instr} (timed : Bool) (h : Claims.allAwake s g i) :
    powerTrap s g timed i = none := by
  rw [powerTrap, List.findSome?_eq_none_iff]
  intro r hr
  simp [h r hr]

theorem gatedRecords_awake {s : State} {g : Nat} {i : Instr} (pc : Nat) (h : Claims.allAwake s g i) :
    gatedRecords s g i pc = s := by
  refine List.foldlRecOn (motive := fun t => t = s) _ _ rfl ?_
  rintro _ rfl r hr
  simp [h r hr]

/-- With every register awake, check 15 neither refuses nor records. -/
theorem withPower_awake {s : State} {g : Nat} {i : Instr} (f : State → Body) (h : Claims.allAwake s g i) :
    withPower s g i f = f s := by
  simp [withPower, powerTrap_awake _ h, gatedRecords_awake _ h]

/-! ### The checks of the operands (18: R436) -/

/-- The body that a refusal is. -/
def trapOf (r : Cause × Nat × DWord) : Body := .trap r.1 r.2.1 r.2.2

/-- What R436 answers to a source of n bytes at address a: alignment, bounds, one region. -/
def sourceRefused (s : State) (g a n : Nat) : Option (Cause × Nat × DWord) :=
  if a % 64 ≠ 0 then some (.bounds, 2, BitVec.ofNat 64 a)
  else match badByte s g a n with
    | some x => some (.bounds, 1, BitVec.ofNat 64 x)
    | none => if regionOf a = regionOf (a + n - 1) then none else some (.bounds, 3, BitVec.ofNat 64 a)

theorem sourceCheck_eq (s : State) (g a n : Nat) : meCheck.sourceCheck s g a n = (sourceRefused s g a n).map trapOf := by
  unfold meCheck.sourceCheck sourceRefused
  split
  · rfl
  · cases badByte s g a n with
    | some x => rfl
    | none => dsimp only; split <;> rfl

theorem sourceRefused_eq_none (s : State) (g a n : Nat) :
    sourceRefused s g a n = none ↔ a % 64 = 0 ∧ badByte s g a n = none ∧ regionOf a = regionOf (a + n - 1) := by
  unfold sourceRefused
  split
  · next h => simp [h]
  · next h => cases badByte s g a n <;> simp_all

theorem matrixRefused_mwbl (s : State) (g : Nat) (h : Hdr) (o : A3) (x : XM) (a b : Nat) :
    Claims.matrixRefused s g (.mwbl h o x) a b = if b % 64 ≠ 0 ∨ 520192 < b then
      some (.illegalOperand, 0x0602, word0Val (.mwbl h o x)) else sourceRefused s g a 4096 := rfl

theorem matrixRefused_mscl (s : State) (g : Nat) (h : Hdr) (o : A3) (x : XM) (a b : Nat) :
    Claims.matrixRefused s g (.mscl h o x) a b = if b % 32 ≠ 0 ∨ 32256 < b then
      some (.illegalOperand, 0x0602, word0Val (.mscl h o x)) else sourceRefused s g a (if x.ta = 0 then 1024 else 512) := rfl

theorem infCode_fp32 : infCode 0 = 0x7F800000 := by decide

theorem map_trapOf_ite (p : Prop) [Decidable p] (r : Cause × Nat × DWord) (o : Option (Cause × Nat × DWord)) :
    (if p then some r else o).map trapOf = if p then some (trapOf r) else o.map trapOf := apply_ite ..

theorem ite_some_eq_none {α : Type} (p : Prop) [Decidable p] (r : α) (o : Option α) :
    (if p then some r else o) = none ↔ ¬ p ∧ o = none := by
  split <;> simp [*]

/-- The engine's checks answer what R436 does. -/
theorem meCheck_eq (s : State) (g : Nat) {i : Instr} {h : Hdr} (hm : Claims.matrix i = some h) (s1 s2 : DWord) :
    meCheck s g i s1 s2 = (Claims.matrixRefused s g i s1.toNat s2.toNat).map trapOf := by
  unfold Claims.matrix at hm
  split at hm
  -- The last case is no matrix command; MWBL and MSCL check a source as well.
  case h_12 => cases hm
  case' h_7 => rw [matrixRefused_mwbl]
  case' h_9 => rw [matrixRefused_mscl]
  all_goals simp [meCheck, Claims.matrixRefused, meCheck.trapVal, trapOf, sourceCheck_eq, map_trapOf_ite, infCode_fp32, or_assoc]

theorem matrixRefused_eq_none (s : State) (g : Nat) {i : Instr} {h : Hdr} (hm : Claims.matrix i = some h) (a b : Nat) :
    Claims.matrixRefused s g i a b = none ↔ Claims.matrixFits s g i a b := by
  unfold Claims.matrix at hm
  split at hm
  -- The last case is no matrix command; MWBL and MSCL check a source as well.
  case h_12 => cases hm
  case' h_7 => rw [matrixRefused_mwbl]
  case' h_9 => rw [matrixRefused_mscl]
  all_goals simp [Claims.matrixRefused, Claims.matrixFits, ite_some_eq_none, sourceRefused_eq_none, and_assoc]

/-! ### A command and its stream (09: R241; 06: R161) -/

theorem exec_matrix {i : Instr} {h : Hdr} (hm : Claims.matrix i = some h) (s : State) :
    exec i s = issue h i (meBody i) s := by
  unfold Claims.matrix at hm
  split at hm <;> cases hm <;> rfl

theorem stamp_ite (std : B12) (c : Nat) :
    (if std.toNat = 0 then none else some (c + std.toNat)) = if std = 0 then none else some (c + std.toNat) :=
  ite_congr (propext (BitVec.toNat_inj (y := 0))) (fun _ => rfl) fun _ => rfl

theorem meStamp_eq {i : Instr} {h : Hdr} (hm : Claims.matrix i = some h) (c : Nat) :
    (if ((xmOf i).map fun y => y.std.toNat).getD 0 = 0 then none else some (c + ((xmOf i).map fun y => y.std.toNat).getD 0)) =
      Claims.stampOf i c := by
  unfold Claims.matrix at hm
  split at hm <;> cases hm <;> exact stamp_ite _ c

/-- Command m of instruction i, whose scalars are s1 and s2, has been issued in cycle c and has not started. -/
structure MCmd.Queued (m : MCmd) (i : Instr) (c : Nat) (s1 s2 : DWord) : Prop where
  instr : m.i = i
  cycle : m.c = c
  notStarted : m.s = none
  notDone : m.doneAt = none
  src1 : m.s1 = s1
  src2 : m.s2 = s2
  stamp : m.stamp = Claims.stampOf i c

theorem mcmds_of_engines {x y : Core} (h : engines x = engines y) : x.mcmds = y.mcmds := by
  have hm := congrArg Core.mcmds h
  exact hm

theorem mcmds_waited (h : Hdr) (s : State) (g : Nat) : ((waited h s).core g).mcmds = (s.core g).mcmds :=
  mcmds_of_engines ((keeps_waited h s).cores g)

theorem mcmds_setSeqr (s : State) (g : Nat) (q : SeqId) (x : Seqr) :
    ((s.setSeqr (.core g q) x).core g).mcmds = (s.core g).mcmds := by
  rw [State.setSeqr, State.modCore_eq, State.core_setCore, mcmds_of_engines (engines_setSeqr _ _ _)]

/-- A command of the matrix engine goes to the end of its stream. -/
theorem mcmds_enterMe (s : State) (g : Nat) {i : Instr} {h : Hdr} (hm : Claims.matrix i = some h) (s1 s2 : DWord) :
    ∃ m, ((enterMe s g i s1 s2).core g).mcmds =
        insert (s.core g).mcmds (strOf i) (sget [] (s.core g).mcmds (strOf i) ++ [m]) ∧
      m.Queued i (s.sccOf (s.partOfCore g)) s1 s2 := by
  have hdraw (p : Prop) [Decidable p] (q : Seqr) :
      ((if p then s else s.setSeqr (.core g .c) q).core g).mcmds = (s.core g).mcmds := by
    split
    · rfl
    · exact mcmds_setSeqr s g .c q
  unfold enterMe nextOrdinal
  refine ⟨_, (congrArg Core.mcmds (State.core_setCore _ g _)).trans (by simp only [State.modSeqr_eq, hdraw]; rfl),
    ⟨rfl, rfl, rfl, rfl, rfl, rfl, meStamp_eq hm _⟩⟩

section
variable {s : State} {g : Nat} {q : SeqId} {i : Instr} (ha : s.actor = .core g q) (ht : Claims.streamTakes s g i)
include ha ht

/-- A stream that may take a command is not full, and tokened code has nothing to wait for. -/
theorem streamTakes_goes : decide (8 ≤ meQueued (s.core g) (strOf i)) = false ∧
    (!s.timedOf (.core g q) && !operandReady s i) = false := by
  obtain ⟨hroom, hready⟩ := ht
  rw [ha] at hready
  exact ⟨decide_eq_false (Nat.not_le.mpr hroom), by rcases hready with h | h <;> simp [h]⟩

theorem meBody_refused {b : Body} (hc : meCheck s g i (vecScalar s i 1) (vecScalar s i 2) = some b) : meBody i s = b := by
  obtain ⟨hfull, hgoes⟩ := streamTakes_goes ha ht
  simp [meBody, ha, hfull, hgoes, hc]

theorem meBody_passed (hc : meCheck s g i (vecScalar s i 1) (vecScalar s i 2) = none) (hw : Claims.allAwake s g i) :
    meBody i s = .done (enterMe s g i (vecScalar s i 1) (vecScalar s i 2)) .seq := by
  obtain ⟨hfull, hgoes⟩ := streamTakes_goes ha ht
  simp [meBody, ha, hfull, hgoes, hc, withPower_awake _ hw]

end

/-! ### What comes of the issue -/

section
variable {i : Instr} {h : Hdr} {s : State} {g : Nat} {q : SeqId} (hm : Claims.matrix i = some h) (ha : s.actor = .core g q)
  (hu : Unhindered h i s) (ht : Claims.streamTakes (waited h s) g i)
include hm ha hu ht

theorem exec_matrix_fits
    (hf : Claims.matrixFits (waited h s) g i (vecScalar (waited h s) i 1).toNat (vecScalar (waited h s) i 2).toNat)
    (hw : Claims.allAwake (waited h s) g i) :
    exec i s = .next (issued h i .seq s (enterMe (waited h s) g i (vecScalar (waited h s) i 1) (vecScalar (waited h s) i 2))) := by
  rw [exec_matrix hm]
  refine issue_completes hu (meBody_passed ((waited_actor h s).trans ha) ht ?_ hw) rfl
  rw [meCheck_eq _ _ hm, (matrixRefused_eq_none _ _ hm _ _).mpr hf]
  rfl

theorem exec_matrix_refused {c : Cause} {d : Nat} {v : DWord}
    (hr : Claims.matrixRefused (waited h s) g i (vecScalar (waited h s) i 1).toNat (vecScalar (waited h s) i 2).toNat =
      some (c, d, v)) :
    exec i s = .next (refuse s s.actor c d v) := by
  rw [exec_matrix hm]
  refine issue_traps hu (meBody_refused ((waited_actor h s).trans ha) ht ?_)
  rw [meCheck_eq _ _ hm, hr]
  rfl

end

end Sys2Proof.Machine

namespace Sys2Proof.Proofs

open Sys2Proof.Machine

theorem matrixEnters : Claims.MatrixEnters :=
  fun _ _ _ _ _ hm ha hu ht hf hw => exec_matrix_fits hm ha hu ht hf hw

/-- Settles O19: the engine's checks answer what R436 does, and a command that passes them goes to the end of its stream. -/
theorem matrixIssue : Obligations.MatrixIssue := by
  unfold Obligations.MatrixIssue
  refine ⟨matrixEnters, ?_⟩
  intro i h s g q hm ha hu w a b ht
  refine ⟨fun hf hw => ?_, fun c d v hr => ?_, ?_⟩
  · obtain ⟨m, hmcmds, hq⟩ := mcmds_enterMe w g hm (vecScalar w i 1) (vecScalar w i 2)
    have hnow : w.sccOf (w.partOfCore g) = s.now s.actor := by
      rw [waited_sccOf, partOfCore_congr (waited_bar0 h s), ha]; rfl
    rw [hnow] at hq
    rw [mcmds_waited] at hmcmds
    refine ⟨_, m, exec_matrix_fits hm ha hu ht hf hw, ?_, hq.instr, hq.cycle, hq.notStarted, hq.notDone,
      congrArg _ hq.src1, congrArg _ hq.src2, hq.stamp, fun str hstr => ?_⟩
    · rw [hmcmds, sget_insert_same]
    · rw [hmcmds, sget_insert_other _ _ _ hstr]
  · exact exec_matrix_refused hm ha hu ht hr
  · exact matrixRefused_eq_none w g hm a b

end Sys2Proof.Proofs
